-- ==== Sys2Proof/Word.lean ====
section
/-! DEFINITION. Word types of the LK-6416 module: the widths that the specification names, and nothing else. -/

namespace Sys2Proof

/-- A byte of any memory (00 R10: addresses count bytes). -/
abbrev Byte := BitVec 8
/-- A scalar register S0-S31 (03 R58). -/
abbrev SWord := BitVec 64
/-- An address register A0-A15 (03 R58). -/
abbrev AWord := BitVec 48
/-- A loop counter L0-L3 (03 R58). -/
abbrev LWord := BitVec 20
/-- A completion counter DC0-DC15 (03 R58). -/
abbrev DCWord := BitVec 32
/-- A lane mask K0-K7 (03 R58, R59). -/
abbrev KMask := BitVec 4096
/-- A long register V0-V63 (03 R58). -/
abbrev VReg := BitVec 8192
/-- A tile register T0-T7: 16 KiB (04 R91); bit 8 i is the low bit of byte i. -/
abbrev TReg := BitVec 131072
/-- The bits of NUM_FLAGS (02 R48). -/
abbrev NumFlags := BitVec 9
/-- A bell count (11 R267). -/
abbrev Bell := Nat

/-- Physical core number: die * 144 + row * 12 + column (00 R12). -/
abbrev CoreId := Fin 576
/-- A byte string, lowest address first. -/
abbrev Bytes := List Byte

end Sys2Proof
end

