-- ==== Sys2Proof/Machine/Fp.lean ====
section
/-! DEFINITION. Binary floating point (02 R33-R36, R46, R47, R49): formats, exact values, one rounding function and
the scalar operations built on it. A code is a natural number below two to the format's width; every operation
answers the result's code together with the NUM_FLAGS bits it sets. -/

namespace Sys2Proof.Machine
open Sys2Proof

/-! ### NUM_FLAGS bits (02 R48) -/
def flagDecInexact : NumFlags := 1
def flagInvalid : NumFlags := 2
def flagDivZero : NumFlags := 4
def flagOverflow : NumFlags := 8
def flagUnderflow : NumFlags := 16
def flagFlush : NumFlags := 32
def flagIntSat : NumFlags := 64
def flagNarrowSat : NumFlags := 128
def flagLedgerSat : NumFlags := 256

/-- Which special codes a binary format has (02 R33). -/
inductive FKind where
  /-- infinities and NaNs at the all-ones exponent -/
  | ieee
  /-- no infinity; one NaN code of each sign -/
  | e4m3
  /-- neither infinity nor NaN -/
  | plain
  deriving DecidableEq, Repr

/-- A row of the *Binary layout table* (02 R33). -/
structure FFmt where
  /-- exponent bits -/
  eb : Nat
  /-- fraction bits -/
  fb : Nat
  bias : Nat
  /-- greatest exponent of a finite value -/
  emax : Nat
  /-- greatest significand, in units of the last place, at `emax` -/
  maxSig : Nat
  kind : FKind
  /-- SUB_FLUSH acts on the format (02 R46) and UNDERFLOW and OVERFLOW are reported for it (R47, R48) -/
  wide : Bool
  deriving DecidableEq, Repr

def FFmt.width (F : FFmt) : Nat := 1 + F.eb + F.fb
/-- Exponent of the smallest normal. -/
def FFmt.emin (F : FFmt) : Int := 1 - (F.bias : Int)

def fmtB64 : FFmt := ⟨11, 52, 1023, 1023, 2 ^ 53 - 1, .ieee, true⟩
def fmtB32 : FFmt := ⟨8, 23, 127, 127, 2 ^ 24 - 1, .ieee, true⟩
def fmtB16 : FFmt := ⟨5, 10, 15, 15, 2 ^ 11 - 1, .ieee, true⟩
def fmtFW16 : FFmt := ⟨8, 7, 127, 127, 2 ^ 8 - 1, .ieee, true⟩
def fmtE4M3 : FFmt := ⟨4, 3, 7, 8, 14, .e4m3, false⟩
def fmtE5M2 : FFmt := ⟨5, 2, 15, 15, 7, .ieee, false⟩
def fmtE2M1 : FFmt := ⟨2, 1, 1, 2, 3, .plain, false⟩

/-- The value a code stands for: a NaN, an infinity or (-1)^neg * m * 2^e exactly. -/
inductive FVal where
  | nan (signalling : Bool)
  | inf (neg : Bool)
  | fin (neg : Bool) (m : Nat) (e : Int)
  deriving DecidableEq, Repr

def FVal.isNan : FVal → Bool
  | .nan _ => true
  | _ => false

def FVal.neg : FVal → Bool
  | .nan _ => false
  | .inf n => n
  | .fin n _ _ => n

def FFmt.signBit (F : FFmt) (neg : Bool) : Nat := if neg then 2 ^ (F.eb + F.fb) else 0

/-- 02 R33: the value of a code. -/
def FFmt.value (F : FFmt) (code : Nat) : FVal :=
  let frac := code % 2 ^ F.fb
  let ex := code / 2 ^ F.fb % 2 ^ F.eb
  let neg := code / 2 ^ (F.fb + F.eb) % 2 == 1
  let top := 2 ^ F.eb - 1
  if F.kind = .ieee ∧ ex = top then
    if frac = 0 then .inf neg else .nan (frac < 2 ^ (F.fb - 1))
  else if F.kind = .e4m3 ∧ ex = top ∧ frac = 2 ^ F.fb - 1 then .nan false
  else if ex = 0 then .fin neg frac (F.emin - F.fb)
  else .fin neg (2 ^ F.fb + frac) ((ex : Int) - F.bias - F.fb)

/-- 02 R35: the canonical NaN (a format without NaN has code 0 here: R53's "+0 code"). -/
def FFmt.canonNan (F : FFmt) : Nat :=
  match F.kind with
  | .ieee => (2 ^ F.eb - 1) * 2 ^ F.fb + 2 ^ (F.fb - 1)
  | .e4m3 => 2 ^ (F.eb + F.fb) - 1
  | .plain => 0

def FFmt.infCode (F : FFmt) (neg : Bool) : Nat := F.signBit neg + (2 ^ F.eb - 1) * 2 ^ F.fb
/-- The largest finite value of a sign. -/
def FFmt.maxCode (F : FFmt) (neg : Bool) : Nat :=
  F.signBit neg + (F.emax + F.bias) * 2 ^ F.fb + (F.maxSig - 2 ^ F.fb)

/-- A code of value zero or subnormal and not zero. -/
def FFmt.isSub (F : FFmt) (code : Nat) : Bool :=
  code / 2 ^ F.fb % 2 ^ F.eb == 0 && code % 2 ^ F.fb != 0

/-- 02 R35, R46: read an operand: a subnormal is read as zero under SUB_FLUSH and sets FLUSH; a signalling NaN sets
INVALID. -/
def FFmt.read (F : FFmt) (flush : Bool) (code : Nat) : FVal × NumFlags :=
  if flush && F.wide && F.isSub code then
    (.fin (code / 2 ^ (F.fb + F.eb) % 2 == 1) 0 0, flagFlush)
  else
    match F.value code with
    | .nan true => (.nan true, flagInvalid)
    | v => (v, 0)

/-- Round the ratio `num / den` to an integer, ties to even (02 R49). -/
def rneDiv (num den : Nat) : Nat :=
  let q := num / den
  let r := num % den
  if 2 * r < den then q
  else if den < 2 * r then q + 1
  else q + q % 2

/-- Round a signed ratio to an integer, ties to even. -/
def rneDivInt (num : Int) (den : Nat) : Int :=
  if num < 0 then -(rneDiv num.natAbs den : Nat) else (rneDiv num.natAbs den : Nat)

/-- Floor of the base-2 logarithm of a positive ratio. -/
def ratLog2 (num den : Nat) : Int :=
  let k : Int := (Nat.log2 num : Int) - (Nat.log2 den : Int)
  let ge : Bool := if 0 ≤ k then den * 2 ^ k.toNat ≤ num else den ≤ num * 2 ^ (-k).toNat
  if ge then k else k - 1

/-- `num / den / 2^q` as a ratio. -/
def scaleRat (num den : Nat) (q : Int) : Nat × Nat :=
  if 0 ≤ q then (num, den * 2 ^ q.toNat) else (num * 2 ^ (-q).toNat, den)

/-- What one rounding gives. -/
inductive Rounded where
  /-- the code without its sign bit, and flags -/
  | code (mag : Nat) (fl : NumFlags)
  /-- the rounded magnitude exceeds the largest finite value -/
  | over
  deriving DecidableEq, Repr

/-- The significand in units of the last place and the exponent of the leading digit, of a positive ratio rounded
to the format's precision with the exponent range unbounded. -/
def FFmt.roundUnbounded (F : FFmt) (num den : Nat) : Nat × Int :=
  let e := ratLog2 num den
  let (a, b) := scaleRat num den (e - F.fb)
  let s := rneDiv a b
  if s = 2 ^ (F.fb + 1) then (2 ^ F.fb, e + 1) else (s, e)

/-- 02 R46, R47, R49: round the positive ratio `num / den` (zero gives the zero code) once to the format. -/
def FFmt.roundMag (F : FFmt) (flush : Bool) (num den : Nat) : Rounded :=
  if num = 0 then .code 0 0
  else
    let (s, e) := F.roundUnbounded num den
    if e < F.emin then
      if flush && F.wide then .code 0 flagFlush
      else
        let (a, b) := scaleRat num den (F.emin - F.fb)
        .code (rneDiv a b) (if F.wide && a % b != 0 then flagUnderflow else 0)
    else if (F.emax : Int) < e ∨ (e = F.emax ∧ F.maxSig < s) then .over
    else .code ((e + F.bias).toNat * 2 ^ F.fb + (s - 2 ^ F.fb)) 0

/-- 02 R34: round to a format with infinities; an overflow gives infinity and sets OVERFLOW. -/
def FFmt.roundRatio (F : FFmt) (flush neg : Bool) (num den : Nat) : Nat × NumFlags :=
  match F.roundMag flush num den with
  | .code m fl => (F.signBit neg + m, fl)
  | .over => (F.infCode neg, flagOverflow)

/-- 02 R53, short narrowing: an overflow saturates and sets NARROW_SAT. -/
def FFmt.roundSat (F : FFmt) (neg : Bool) (num den : Nat) : Nat × NumFlags :=
  match F.roundMag false num den with
  | .code m fl => (F.signBit neg + m, fl)
  | .over => (F.maxCode neg, flagNarrowSat)

/-- The dyadic `m * 2^e` as a ratio. -/
def dyadicRat (m : Nat) (e : Int) : Nat × Nat :=
  if 0 ≤ e then (m * 2 ^ e.toNat, 1) else (m, 2 ^ (-e).toNat)

/-- Round an exact value whose sign is given even when it is zero. -/
def FFmt.roundVal (F : FFmt) (flush : Bool) : FVal → Nat × NumFlags
  | .nan _ => (F.canonNan, 0)
  | .inf n => (F.infCode n, 0)
  | .fin n m e => let (a, b) := dyadicRat m e; F.roundRatio flush n a b

/-- The signed integer significand. -/
def sgn (neg : Bool) (m : Nat) : Int := if neg then -(m : Int) else m

/-- Exact sum of two finite values. A zero sum of non-zero terms, or of zeros of unlike signs, is +0; zeros of one
sign keep it (IEEE 754 under R49's rounding). -/
def finAdd (n₁ : Bool) (m₁ : Nat) (e₁ : Int) (n₂ : Bool) (m₂ : Nat) (e₂ : Int) : FVal :=
  let e := min e₁ e₂
  let t := sgn n₁ m₁ * 2 ^ (e₁ - e).toNat + sgn n₂ m₂ * 2 ^ (e₂ - e).toNat
  if t = 0 then .fin (n₁ && n₂ && m₁ == 0 && m₂ == 0) 0 0
  else .fin (t < 0) t.natAbs e

/-- 02 R34: exact addition of two values; the flag is INVALID for infinities of unlike signs. -/
def FVal.add : FVal → FVal → FVal × NumFlags
  | .nan _, _ => (.nan false, 0)
  | _, .nan _ => (.nan false, 0)
  | .inf a, .inf b => if a = b then (.inf a, 0) else (.nan false, flagInvalid)
  | .inf a, .fin .. => (.inf a, 0)
  | .fin .., .inf b => (.inf b, 0)
  | .fin n₁ m₁ e₁, .fin n₂ m₂ e₂ => (finAdd n₁ m₁ e₁ n₂ m₂ e₂, 0)

/-- 02 R34: exact product; the flag is INVALID for zero times infinity. -/
def FVal.mul : FVal → FVal → FVal × NumFlags
  | .nan _, _ => (.nan false, 0)
  | _, .nan _ => (.nan false, 0)
  | .inf a, .inf b => (.inf (a != b), 0)
  | .inf a, .fin b m _ => if m = 0 then (.nan false, flagInvalid) else (.inf (a != b), 0)
  | .fin a m _, .inf b => if m = 0 then (.nan false, flagInvalid) else (.inf (a != b), 0)
  | .fin n₁ m₁ e₁, .fin n₂ m₂ e₂ => (.fin (n₁ != n₂) (m₁ * m₂) (e₁ + e₂), 0)

def FVal.negate : FVal → FVal
  | .nan s => .nan s
  | .inf n => .inf (!n)
  | .fin n m e => .fin (!n) m e

/-! ### Operations of one format: operands read under R46, result rounded once -/

def FFmt.add (F : FFmt) (flush : Bool) (a b : Nat) : Nat × NumFlags :=
  let (x, f₁) := F.read flush a
  let (y, f₂) := F.read flush b
  let (z, f₃) := x.add y
  let (c, f₄) := F.roundVal flush z
  (c, f₁ ||| f₂ ||| f₃ ||| f₄)

def FFmt.sub (F : FFmt) (flush : Bool) (a b : Nat) : Nat × NumFlags :=
  let (x, f₁) := F.read flush a
  let (y, f₂) := F.read flush b
  let (z, f₃) := x.add y.negate
  let (c, f₄) := F.roundVal flush z
  (c, f₁ ||| f₂ ||| f₃ ||| f₄)

def FFmt.mul (F : FFmt) (flush : Bool) (a b : Nat) : Nat × NumFlags :=
  let (x, f₁) := F.read flush a
  let (y, f₂) := F.read flush b
  let (z, f₃) := x.mul y
  let (c, f₄) := F.roundVal flush z
  (c, f₁ ||| f₂ ||| f₃ ||| f₄)

/-- a * b + c, rounded once. 0 × ∞ with a quiet NaN addend sets INVALID, as the invalid product of 02 R34 does; IEEE 754
leaves it open, and 04 R99 sets none in its own case 1 (DESIGN CHOICE, notes/assumptions/45.md). -/
def FFmt.fma (F : FFmt) (flush : Bool) (a b c : Nat) : Nat × NumFlags :=
  let (x, f₁) := F.read flush a
  let (y, f₂) := F.read flush b
  let (w, f₃) := F.read flush c
  let (p, f₄) := x.mul y
  let (z, f₅) := p.add w
  let (r, f₆) := F.roundVal flush z
  (r, f₁ ||| f₂ ||| f₃ ||| f₄ ||| f₅ ||| f₆)

/-- 02 R34: division. -/
def FFmt.div (F : FFmt) (flush : Bool) (a b : Nat) : Nat × NumFlags :=
  let (x, f₁) := F.read flush a
  let (y, f₂) := F.read flush b
  let (c, f₃) :=
    match x, y with
    | .nan _, _ => (F.canonNan, (0 : NumFlags))
    | _, .nan _ => (F.canonNan, 0)
    | .inf _, .inf _ => (F.canonNan, flagInvalid)
    | .inf n, .fin k _ _ => (F.infCode (n != k), 0)
    | .fin n _ _, .inf k => (F.signBit (n != k), 0)
    | .fin n m e, .fin k l d =>
      if l = 0 then
        if m = 0 then (F.canonNan, flagInvalid) else (F.infCode (n != k), flagDivZero)
      else
        let (p, q) := dyadicRat m e
        let (r, s) := dyadicRat l d
        F.roundRatio flush (n != k) (p * s) (q * r)
  (c, f₁ ||| f₂ ||| f₃)

/-- Integer square root by `fuel` binary digits pairs. -/
def isqrtFuel : Nat → Nat → Nat
  | 0, _ => 0
  | fuel + 1, n =>
    let r := 2 * isqrtFuel fuel (n / 4)
    if (r + 1) * (r + 1) ≤ n then r + 1 else r

def isqrt (n : Nat) : Nat := isqrtFuel (Nat.log2 n / 2 + 1) n

/-- The square root of `m * 2^e` (m not zero) as a ratio close enough, with a sticky last digit, that rounding it to
at most 60 digits equals rounding the exact root. -/
def sqrtRat (m : Nat) (e : Int) : Nat × Nat :=
  let m' : Nat := if e % 2 = 0 then m else 2 * m
  let e' : Int := if e % 2 = 0 then e else e - 1
  let n : Nat := m' * 2 ^ (280 : Nat)
  let s : Nat := isqrt n
  let s' : Nat := if s * s = n then 2 * s else 2 * s + 1
  dyadicRat s' (e' / 2 - 141)

/-- 02 R34: square root; of a negative non-zero value it is invalid, of -0 it is -0. -/
def FFmt.sqrt (F : FFmt) (flush : Bool) (a : Nat) : Nat × NumFlags :=
  let (x, f₁) := F.read flush a
  let (c, f₂) :=
    match x with
    | .nan _ => (F.canonNan, (0 : NumFlags))
    | .inf n => if n then (F.canonNan, flagInvalid) else (F.infCode false, 0)
    | .fin n m e =>
      if m = 0 then (F.signBit n, 0)
      else if n then (F.canonNan, flagInvalid)
      else let (p, q) := sqrtRat m e; F.roundRatio flush false p q
  (c, f₁ ||| f₂)

/-! ### Comparison, minimum and maximum -/

/-- Order of two values: none when either is NaN. -/
def FVal.cmp : FVal → FVal → Option Ordering
  | .nan _, _ => none
  | _, .nan _ => none
  | .inf a, .inf b => some (if a = b then .eq else if a then .lt else .gt)
  | .inf a, .fin .. => some (if a then .lt else .gt)
  | .fin .., .inf b => some (if b then .gt else .lt)
  | .fin n₁ m₁ e₁, .fin n₂ m₂ e₂ =>
    let e := min e₁ e₂
    some (compare (sgn n₁ m₁ * 2 ^ (e₁ - e).toNat) (sgn n₂ m₂ * 2 ^ (e₂ - e).toNat))

/-- 02 R36: `a` is below `b`, with -0 below +0 (neither is NaN). -/
def FVal.below (x y : FVal) : Bool :=
  match x.cmp y with
  | some .lt => true
  | some .eq => x.neg && !y.neg
  | _ => false

/-- The code of an operand as read under R46 (not a NaN). -/
def FFmt.codeAsRead (F : FFmt) (flush : Bool) (a : Nat) : Nat :=
  if flush && F.wide && F.isSub a then F.signBit (a / 2 ^ (F.fb + F.eb) % 2 == 1) else a

/-- 02 R36: minimum (`wantMax` false) and maximum. -/
def FFmt.minmax (F : FFmt) (flush wantMax : Bool) (a b : Nat) : Nat × NumFlags :=
  let (x, f₁) := F.read flush a
  let (y, f₂) := F.read flush b
  let c :=
    match x.isNan, y.isNan with
    | true, true => F.canonNan
    | true, false => F.codeAsRead flush b
    | false, true => F.codeAsRead flush a
    | false, false =>
      let takeB := if wantMax then x.below y else y.below x
      if takeB then F.codeAsRead flush b else F.codeAsRead flush a
  (c, f₁ ||| f₂)

def FFmt.cmp (F : FFmt) (flush : Bool) (a b : Nat) : Option Ordering × NumFlags :=
  let (x, f₁) := F.read flush a
  let (y, f₂) := F.read flush b
  (x.cmp y, f₁ ||| f₂)

end Sys2Proof.Machine
end

