-- ==== Sys2Proof/Machine/Dec.lean ====
section
/-! DEFINITION. Decimal floating point (02 R42-R44) in the binary-integer-significand encoding, and the ledger's
saturation (R45). -/

namespace Sys2Proof.Machine
open Sys2Proof

/-- A decimal format: precision in digits, bias, greatest biased exponent, combination-field geometry. -/
structure DFmt where
  prec : Nat
  bias : Nat
  maxBiased : Nat
  /-- exponent bits -/
  eb : Nat
  /-- coefficient bits of the first finite form -/
  cb : Nat
  /-- the second finite form carries a value (decimal64) or reads as zero (decimal128) -/
  second : Bool
  deriving DecidableEq, Repr

def fmtD64 : DFmt := ⟨16, 398, 767, 10, 53, true⟩
def fmtD128 : DFmt := ⟨34, 6176, 12287, 14, 113, false⟩

def DFmt.width (D : DFmt) : Nat := 1 + D.eb + D.cb
def DFmt.qmin (D : DFmt) : Int := -(D.bias : Int)
def DFmt.qmax (D : DFmt) : Int := (D.maxBiased : Int) - D.bias
/-- Exponent of the leading digit of the smallest normal. -/
def DFmt.emin (D : DFmt) : Int := D.qmin + D.prec - 1

/-- The value of a decimal code: (-1)^neg * c * 10^q when finite. -/
inductive DVal where
  | nan (signalling : Bool)
  | inf (neg : Bool)
  | fin (neg : Bool) (c : Nat) (q : Int)
  deriving DecidableEq, Repr

/-- 02 R42, R43: the value of a code; a non-canonical finite code is zero with its sign and exponent. -/
def DFmt.value (D : DFmt) (code : Nat) : DVal :=
  let w := D.eb + D.cb
  let neg := code / 2 ^ w % 2 == 1
  if code / 2 ^ (w - 2) % 4 ≠ 3 then
    let c := code % 2 ^ D.cb
    let q : Int := (code / 2 ^ D.cb % 2 ^ D.eb : Nat) - (D.bias : Int)
    .fin neg (if c < 10 ^ D.prec then c else 0) q
  else if code / 2 ^ (w - 4) % 4 ≠ 3 then
    let c := if D.second then 2 ^ D.cb + code % 2 ^ (D.cb - 2) else 0
    let q : Int := (code / 2 ^ (D.cb - 2) % 2 ^ D.eb : Nat) - (D.bias : Int)
    .fin neg (if c < 10 ^ D.prec then c else 0) q
  else if code / 2 ^ (w - 5) % 2 = 0 then .inf neg
  else .nan (code / 2 ^ (w - 6) % 2 == 1)

def DFmt.signBit (D : DFmt) (neg : Bool) : Nat := if neg then 2 ^ (D.eb + D.cb) else 0
/-- 02 R43: the NaN and the infinities as written. -/
def DFmt.nanCode (D : DFmt) : Nat := 31 * 2 ^ (D.eb + D.cb - 5)
def DFmt.infCode (D : DFmt) (neg : Bool) : Nat := D.signBit neg + 30 * 2 ^ (D.eb + D.cb - 5)

/-- The canonical code of a finite value whose coefficient and exponent are in range. -/
def DFmt.encode (D : DFmt) (neg : Bool) (c : Nat) (q : Int) : Nat :=
  let e := (q + D.bias).toNat
  if c < 2 ^ D.cb then D.signBit neg + e * 2 ^ D.cb + c
  else D.signBit neg + 3 * 2 ^ (D.eb + D.cb - 2) + e * 2 ^ (D.cb - 2) + (c - 2 ^ D.cb)

/-- Number of decimal digits of a positive number. -/
def digits10 (n : Nat) : Nat :=
  let k := Nat.log2 n * 30103 / 100000
  if n < 10 ^ k then k else if n < 10 ^ (k + 1) then k + 1 else k + 2

/-- Floor of the base-10 logarithm of a positive ratio. -/
def ratLog10 (num den : Nat) : Int :=
  let k : Int := (digits10 num : Int) - (digits10 den : Int)
  let ge : Bool := if 0 ≤ k then den * 10 ^ k.toNat ≤ num else den ≤ num * 10 ^ (-k).toNat
  if ge then k else k - 1

def scaleRat10 (num den : Nat) (q : Int) : Nat × Nat :=
  if 0 ≤ q then (num, den * 10 ^ q.toNat) else (num * 10 ^ (-q).toNat, den)

/-- Move the exponent up to the preferred one while the coefficient stays whole. -/
def stripTo : Nat → Nat → Int → Int → Nat × Int
  | 0, c, q, _ => (c, q)
  | fuel + 1, c, q, pref =>
    if q < pref ∧ c % 10 = 0 then stripTo fuel (c / 10) (q + 1) pref else (c, q)

/-- 02 R44, R49: the exact non-negative ratio rounded once, with an exponent as near the preferred one as exactness
allows. -/
def DFmt.roundRatio (D : DFmt) (neg : Bool) (num den : Nat) (pref : Int) : Nat × NumFlags :=
  let pref := max D.qmin (min D.qmax pref)
  if num = 0 then (D.encode neg 0 pref, 0)
  else
    let lead := ratLog10 num den
    let q₀ := lead - D.prec + 1
    -- tiny as IEEE 754 has decimal formats judge it: before rounding (02 R44)
    let tiny : Bool := lead < D.emin
    let q₁ := max q₀ D.qmin
    let (a, b) := scaleRat10 num den q₁
    let r := rneDiv a b
    let inexact : Bool := a % b != 0
    let c := if r = 10 ^ D.prec then 10 ^ (D.prec - 1) else r
    let q := if r = 10 ^ D.prec then q₁ + 1 else q₁
    if D.qmax < q then (D.infCode neg, flagOverflow ||| flagDecInexact)
    else if inexact then
      (D.encode neg c q, flagDecInexact ||| (if tiny then flagUnderflow else 0))
    else
      let (c', q') := stripTo D.prec c q pref
      (D.encode neg c' q', 0)

/-- `c * 10^q` as a ratio. -/
def decRat (c : Nat) (q : Int) : Nat × Nat :=
  if 0 ≤ q then (c * 10 ^ q.toNat, 1) else (c, 10 ^ (-q).toNat)

def DFmt.roundVal (D : DFmt) (pref : Int) : DVal → Nat × NumFlags
  | .nan _ => (D.nanCode, 0)
  | .inf n => (D.infCode n, 0)
  | .fin n c q => let (a, b) := decRat c q; D.roundRatio n a b pref

/-- 02 R35: a signalling NaN operand sets INVALID. -/
def DVal.readFlags : DVal → NumFlags
  | .nan true => flagInvalid
  | _ => 0

def DVal.negate : DVal → DVal
  | .nan s => .nan s
  | .inf n => .inf (!n)
  | .fin n c q => .fin (!n) c q

/-- Exact sum, with the exponent it is written at. -/
def DVal.add : DVal → DVal → DVal × NumFlags
  | .nan _, _ => (.nan false, 0)
  | _, .nan _ => (.nan false, 0)
  | .inf a, .inf b => if a = b then (.inf a, 0) else (.nan false, flagInvalid)
  | .inf a, .fin .. => (.inf a, 0)
  | .fin .., .inf b => (.inf b, 0)
  | .fin n₁ c₁ q₁, .fin n₂ c₂ q₂ =>
    let q := min q₁ q₂
    let t := sgn n₁ c₁ * 10 ^ (q₁ - q).toNat + sgn n₂ c₂ * 10 ^ (q₂ - q).toNat
    if t = 0 then (.fin (n₁ && n₂ && c₁ == 0 && c₂ == 0) 0 q, 0)
    else (.fin (t < 0) t.natAbs q, 0)

def DVal.mul : DVal → DVal → DVal × NumFlags
  | .nan _, _ => (.nan false, 0)
  | _, .nan _ => (.nan false, 0)
  | .inf a, .inf b => (.inf (a != b), 0)
  | .inf a, .fin b c _ => if c = 0 then (.nan false, flagInvalid) else (.inf (a != b), 0)
  | .fin a c _, .inf b => if c = 0 then (.nan false, flagInvalid) else (.inf (a != b), 0)
  | .fin n₁ c₁ q₁, .fin n₂ c₂ q₂ => (.fin (n₁ != n₂) (c₁ * c₂) (q₁ + q₂), 0)

/-- The exponent that IEEE 754 prefers for an exact result: the one it was formed at. -/
def DVal.prefExp : DVal → Int
  | .fin _ _ q => q
  | _ => 0

def DFmt.add (D : DFmt) (a b : Nat) : Nat × NumFlags :=
  let x := D.value a
  let y := D.value b
  let (z, f) := x.add y
  let (c, g) := D.roundVal z.prefExp z
  (c, x.readFlags ||| y.readFlags ||| f ||| g)

def DFmt.sub (D : DFmt) (a b : Nat) : Nat × NumFlags :=
  let x := D.value a
  let y := D.value b
  let (z, f) := x.add y.negate
  let (c, g) := D.roundVal z.prefExp z
  (c, x.readFlags ||| y.readFlags ||| f ||| g)

def DFmt.mul (D : DFmt) (a b : Nat) : Nat × NumFlags :=
  let x := D.value a
  let y := D.value b
  let (z, f) := x.mul y
  let (c, g) := D.roundVal z.prefExp z
  (c, x.readFlags ||| y.readFlags ||| f ||| g)

def DFmt.fma (D : DFmt) (a b c : Nat) : Nat × NumFlags :=
  let x := D.value a
  let y := D.value b
  let w := D.value c
  let (p, f) := x.mul y
  let (z, g) := p.add w
  let (r, h) := D.roundVal z.prefExp z
  (r, x.readFlags ||| y.readFlags ||| w.readFlags ||| f ||| g ||| h)

/-- 02 R44, 05 Decimal operations: the value of `a` at the exponent of `b`. -/
def DFmt.quantize (D : DFmt) (a b : Nat) : Nat × NumFlags :=
  let x := D.value a
  let y := D.value b
  let (c, f) :=
    match x, y with
    | .nan _, _ => (D.nanCode, (0 : NumFlags))
    | _, .nan _ => (D.nanCode, 0)
    | .inf n, .inf _ => (D.infCode n, 0)
    | .inf _, .fin .. => (D.nanCode, flagInvalid)
    | .fin .., .inf _ => (D.nanCode, flagInvalid)
    | .fin n c q, .fin _ _ t =>
      let (p, d) := decRat c (q - t)
      let r := rneDiv p d
      if 10 ^ D.prec ≤ r then (D.nanCode, flagInvalid)
      else (D.encode n r t, if p % d = 0 then 0 else flagDecInexact)
  (c, x.readFlags ||| y.readFlags ||| f)

/-- Numeric order; none when either operand is a NaN. -/
def DVal.cmp : DVal → DVal → Option Ordering
  | .nan _, _ => none
  | _, .nan _ => none
  | .inf a, .inf b => some (if a = b then .eq else if a then .lt else .gt)
  | .inf a, .fin .. => some (if a then .lt else .gt)
  | .fin .., .inf b => some (if b then .gt else .lt)
  | .fin n₁ c₁ q₁, .fin n₂ c₂ q₂ =>
    let q := min q₁ q₂
    some (compare (sgn n₁ c₁ * 10 ^ (q₁ - q).toNat) (sgn n₂ c₂ * 10 ^ (q₂ - q).toNat))

def DFmt.cmp (D : DFmt) (a b : Nat) : Option Ordering × NumFlags :=
  ((D.value a).cmp (D.value b), (D.value a).readFlags ||| (D.value b).readFlags)

/-! ### Two's complement and the ledger -/

/-- The signed value of the low `w` bits. -/
def sext (w n : Nat) : Int :=
  let m := n % 2 ^ w
  if m < 2 ^ (w - 1) then (m : Int) else (m : Int) - (2 ^ w : Nat)

/-- The low `w` bits of an integer. -/
def wrapInt (w : Nat) (v : Int) : Nat := (v % ((2 ^ w : Nat) : Int)).toNat

/-- A signed integer clamped to `w` bits, with the flag given when it does not fit. -/
def satSigned (w : Nat) (fl : NumFlags) (v : Int) : Nat × NumFlags :=
  let hi : Int := ((2 ^ (w - 1) : Nat) : Int) - 1
  let lo : Int := -((2 ^ (w - 1) : Nat) : Int)
  if hi < v then (wrapInt w hi, fl) else if v < lo then (wrapInt w lo, fl) else (wrapInt w v, 0)

def satUnsigned (w : Nat) (fl : NumFlags) (v : Int) : Nat × NumFlags :=
  let hi : Int := ((2 ^ w : Nat) : Int) - 1
  if hi < v then (wrapInt w hi, fl) else if v < 0 then (0, fl) else (wrapInt w v, 0)

/-- 02 R38: an integer result under SAT. -/
def intResult (w : Nat) (signed sat : Bool) (v : Int) : Nat × NumFlags :=
  if sat then (if signed then satSigned w flagIntSat v else satUnsigned w flagIntSat v) else (wrapInt w v, 0)

/-- 02 R45: a ledger result, saturating with LEDGER_SAT. -/
def ledgerResult (v : Int) : Nat × NumFlags := satSigned 64 flagLedgerSat v

/-- A ratio rounded into a ledger or an int64: DEC_INEXACT when rounded, the given flag alone when saturated. -/
def roundToInt (w : Nat) (fl : NumFlags) (neg : Bool) (num den : Nat) : Nat × NumFlags :=
  let (c, f) := satSigned w fl (sgn neg (rneDiv num den))
  if f = 0 then (c, if num % den = 0 then 0 else flagDecInexact) else (c, f)

end Sys2Proof.Machine
end

