-- ==== Sys2Proof/Machine/Convert.lean ====
section
/-! DEFINITION. The conversions of 02 R52 and R53 between the format codes of 05 R111, shared by V.CVT, chains, carts
and the mill. -/

namespace Sys2Proof.Machine
open Sys2Proof

/-- The formats of the *Vector format code table* (05 R111). -/
inductive Fmt where
  | binary64 | binary32 | binary16 | fw16 | e4m3 | e5m2 | int8 | uint8
  | e2m1 | int4 | int32 | int64 | decimal64 | decimal128 | ledger
  deriving DecidableEq, Repr

/-- 05 R111: code to format; 0xF is illegal. -/
def Fmt.ofCode : Nat → Option Fmt
  | 0 => some .binary64 | 1 => some .binary32 | 2 => some .binary16 | 3 => some .fw16
  | 4 => some .e4m3 | 5 => some .e5m2 | 6 => some .int8 | 7 => some .uint8
  | 8 => some .e2m1 | 9 => some .int4 | 10 => some .int32 | 11 => some .int64
  | 12 => some .decimal64 | 13 => some .decimal128 | 14 => some .ledger | _ => none

def Fmt.code : Fmt → Nat
  | .binary64 => 0 | .binary32 => 1 | .binary16 => 2 | .fw16 => 3
  | .e4m3 => 4 | .e5m2 => 5 | .int8 => 6 | .uint8 => 7
  | .e2m1 => 8 | .int4 => 9 | .int32 => 10 | .int64 => 11
  | .decimal64 => 12 | .decimal128 => 13 | .ledger => 14

/-- Width in bits (02 R32, 05 R111). -/
def Fmt.width : Fmt → Nat
  | .binary64 => 64 | .binary32 => 32 | .binary16 => 16 | .fw16 => 16
  | .e4m3 => 8 | .e5m2 => 8 | .int8 => 8 | .uint8 => 8
  | .e2m1 => 4 | .int4 => 4 | .int32 => 32 | .int64 => 64
  | .decimal64 => 64 | .decimal128 => 128 | .ledger => 64

/-- The binary floating-point layout of a format, if it has one. -/
def Fmt.fp : Fmt → Option FFmt
  | .binary64 => some fmtB64 | .binary32 => some fmtB32 | .binary16 => some fmtB16 | .fw16 => some fmtFW16
  | .e4m3 => some fmtE4M3 | .e5m2 => some fmtE5M2 | .e2m1 => some fmtE2M1
  | .int8 | .uint8 | .int4 | .int32 | .int64 | .decimal64 | .decimal128 | .ledger => none

def Fmt.dec : Fmt → Option DFmt
  | .decimal64 => some fmtD64 | .decimal128 => some fmtD128
  | .binary64 | .binary32 | .binary16 | .fw16 | .e4m3 | .e5m2 | .e2m1
  | .int8 | .uint8 | .int4 | .int32 | .int64 | .ledger => none

/-- The formats B of 05 R113. -/
def Fmt.isB : Fmt → Bool
  | .binary64 | .binary32 | .binary16 | .fw16 => true
  | .e4m3 | .e5m2 | .e2m1 | .int8 | .uint8 | .int4 | .int32 | .int64 | .decimal64 | .decimal128 | .ledger => false

/-- The formats I of 05 R113. -/
def Fmt.isI : Fmt → Bool
  | .int32 | .int64 => true
  | .binary64 | .binary32 | .binary16 | .fw16 | .e4m3 | .e5m2 | .e2m1 | .int8 | .uint8 | .int4
  | .decimal64 | .decimal128 | .ledger => false

/-- The exact integer a code of an integer format stands for (02 R37); zero for the other formats. -/
def Fmt.intVal (f : Fmt) (code : Nat) : Int :=
  match f with
  | .int8 | .int4 | .int32 | .int64 | .ledger => sext f.width code
  | .uint8 => ((code % 256 : Nat) : Int)
  | .binary64 | .binary32 | .binary16 | .fw16 | .e4m3 | .e5m2 | .e2m1 | .decimal64 | .decimal128 => 0

/-- 02 R52: the pairs the module converts between (Qm.n, which only the reckoner reads, apart). -/
def convertible (src dst : Fmt) : Bool :=
  match src with
  | .binary64 => dst ∈ [Fmt.binary32, .binary16, .fw16, .int32, .int64, .decimal64, .decimal128, .ledger]
  | .binary32 =>
    dst ∈ [Fmt.binary64, .binary16, .fw16, .e4m3, .e5m2, .e2m1, .int4, .int8, .uint8, .int32]
  | .binary16 | .fw16 => dst ∈ [Fmt.binary32, .binary64]
  | .e4m3 | .e5m2 => dst ∈ [Fmt.binary16, .binary32]
  | .e2m1 | .int4 => dst ∈ [Fmt.binary32]
  | .int8 | .uint8 => dst ∈ [Fmt.binary32, .int32]
  | .int32 | .int64 => dst ∈ [Fmt.int32, .int64, .binary64, .decimal64, .ledger]
  | .decimal64 => dst ∈ [Fmt.decimal128, .binary64, .int64, .ledger]
  | .decimal128 => dst ∈ [Fmt.decimal64, .ledger]
  | .ledger => dst ∈ [Fmt.binary64, .decimal64, .decimal128, .int64, .ledger]

/-- Whether the pair carries a block scale (02 R52, R53). -/
def blockPair (src dst : Fmt) : Bool :=
  (src == .binary32 && (dst == .e2m1 || dst == .int4)) || ((src == .e2m1 || src == .int4) && dst == .binary32)

/-- A conversion's parameters: SUB_FLUSH, SAT, the binary16 block scale, the ledger scales of source and
destination. -/
structure CvtArgs where
  flush : Bool
  sat : Bool
  scale : Nat
  dSrc : Nat
  dDst : Nat
  deriving DecidableEq, Repr

/-- 02 R53, short narrowing, of an exact value. -/
def narrowShort (F : FFmt) : FVal → Nat × NumFlags
  | .nan _ => (F.canonNan, 0)
  | .inf n => (F.maxCode n, flagNarrowSat)
  | .fin n m e => let (a, b) := dyadicRat m e; F.roundSat n a b

/-- 02 R53, floating to integer of `w` bits. -/
def floatToInt (w : Nat) (signed : Bool) (v : FVal) : Nat × NumFlags :=
  match v with
  | .nan _ => (0, flagInvalid)
  | .inf n => (if signed then satSigned w flagNarrowSat (sgn n (2 ^ w)) else satUnsigned w flagNarrowSat (sgn n (2 ^ w)))
  | .fin n m e =>
    let (a, b) := dyadicRat m e
    let i := sgn n (rneDiv a b)
    if signed then satSigned w flagNarrowSat i else satUnsigned w flagNarrowSat i

/-- The quotient x / s of a conversion with block scale, as an exact ratio when both are finite. -/
inductive BlockQ where
  | nan
  | inf (neg : Bool)
  | fin (neg : Bool) (num den : Nat)
  deriving DecidableEq, Repr

def blockQuot : FVal → FVal → BlockQ
  | .nan _, _ => .nan
  | _, .nan _ => .nan
  | .inf _, .inf _ => .nan
  | .inf a, .fin b _ _ => .inf (a != b)
  | .fin a _ _, .inf b => .fin (a != b) 0 1
  | .fin a m e, .fin b l d =>
    if l = 0 then (if m = 0 then .nan else .inf (a != b))
    else
      let (p, q) := dyadicRat m e
      let (r, s) := dyadicRat l d
      .fin (a != b) (p * s) (q * r)

/-- 02 R53, short narrowing with block scale. -/
def narrowBlock (dst : Fmt) (q : BlockQ) : Nat × NumFlags :=
  match q with
  | .nan => (0, flagInvalid)
  | .inf n => if dst = .e2m1 then (fmtE2M1.maxCode n, flagNarrowSat) else satSigned 4 flagNarrowSat (sgn n 100)
  | .fin n a b =>
    if dst = .e2m1 then fmtE2M1.roundSat n a b else satSigned 4 flagNarrowSat (sgn n (rneDiv a b))

/-- 02 R53: an exact binary value to decimal. -/
def floatToDec (D : DFmt) : FVal → Nat × NumFlags
  | .nan _ => (D.nanCode, 0)
  | .inf n => (D.infCode n, 0)
  | .fin n m e => let (a, b) := dyadicRat m e; D.roundRatio n a b 0

/-- 02 R53: a decimal value to a binary format. -/
def decToFloat (F : FFmt) (flush : Bool) : DVal → Nat × NumFlags
  | .nan _ => (F.canonNan, 0)
  | .inf n => (F.infCode n, 0)
  | .fin n c q => let (a, b) := decRat c q; F.roundRatio flush n a b

/-- 02 R53: decimal to ledger (`fl` = LEDGER_SAT, scale `d`) or to int64 (`fl` = NARROW_SAT, `d` = 0). -/
def decToInt (fl : NumFlags) (d : Nat) : DVal → Nat × NumFlags
  | .nan _ => (0, flagInvalid)
  | .inf n => satSigned 64 fl (sgn n (2 ^ 64))
  | .fin n c q => let (a, b) := decRat c (q + d); roundToInt 64 fl n a b

/-- A signed integer times 10^(-d), as sign and ratio. -/
def ledgerRat (v : Int) (d : Nat) : Bool × Nat × Nat := (v < 0, v.natAbs, 10 ^ d)

/-- An integer that already is the exact result, to a destination other than an integer (02 R53 "Integer to
other"). -/
def intToOther (v : Int) (dst : Fmt) (A : CvtArgs) : Nat × NumFlags :=
  match dst with
  | .binary64 => fmtB64.roundRatio A.flush (v < 0) v.natAbs 1
  | .binary32 => fmtB32.roundRatio A.flush (v < 0) v.natAbs 1
  | .decimal64 => fmtD64.roundRatio (v < 0) v.natAbs 1 0
  | .ledger => ledgerResult (v * (10 ^ A.dDst : Nat))
  | .int32 => intResult 32 true A.sat v
  | .int64 => intResult 64 true A.sat v
  | .binary16 | .fw16 | .e4m3 | .e5m2 | .e2m1 | .int8 | .uint8 | .int4 | .decimal128 => (0, 0)

/-- Conversion of an exact binary value, read already, to the destination (02 R53). -/
def floatToOther (v : FVal) (dst : Fmt) (A : CvtArgs) : Nat × NumFlags :=
  match dst with
  | .binary64 => fmtB64.roundVal A.flush v
  | .binary32 => fmtB32.roundVal A.flush v
  | .binary16 => fmtB16.roundVal A.flush v
  | .fw16 => fmtFW16.roundVal A.flush v
  | .e4m3 => narrowShort fmtE4M3 v
  | .e5m2 => narrowShort fmtE5M2 v
  | .e2m1 | .int4 =>
    let (s, f) := fmtB16.read A.flush A.scale
    let (c, g) := narrowBlock dst (blockQuot v s)
    (c, f ||| g)
  | .int8 => floatToInt 8 true v
  | .uint8 => floatToInt 8 false v
  | .int32 => floatToInt 32 true v
  | .int64 => floatToInt 64 true v
  | .decimal64 => floatToDec fmtD64 v
  | .decimal128 => floatToDec fmtD128 v
  | .ledger =>
    match v with
    | .nan _ => (0, flagInvalid)
    | .inf n => satSigned 64 flagLedgerSat (sgn n (2 ^ 64))
    | .fin n m e =>
      let (a, b) := dyadicRat m e
      roundToInt 64 flagLedgerSat n (a * 10 ^ A.dDst) b

/-- 02 R39: the exact product of a block scale and a code value. -/
def blockValue (A : CvtArgs) (c : FVal) : FVal × NumFlags :=
  let (s, f) := fmtB16.read A.flush A.scale
  let (p, g) := s.mul c
  (p, f ||| g)

/-- 02 R52, R53: the code `c` of format `src` converted to `dst`. -/
def convert (src dst : Fmt) (A : CvtArgs) (c : Nat) : Nat × NumFlags :=
  match src with
  | .binary64 => let (v, f) := fmtB64.read A.flush c; let (r, g) := floatToOther v dst A; (r, f ||| g)
  | .binary32 => let (v, f) := fmtB32.read A.flush c; let (r, g) := floatToOther v dst A; (r, f ||| g)
  | .binary16 => let (v, f) := fmtB16.read A.flush c; let (r, g) := floatToOther v dst A; (r, f ||| g)
  | .fw16 => let (v, f) := fmtFW16.read A.flush c; let (r, g) := floatToOther v dst A; (r, f ||| g)
  | .e4m3 => let (v, f) := fmtE4M3.read A.flush c; let (r, g) := floatToOther v dst A; (r, f ||| g)
  | .e5m2 => let (v, f) := fmtE5M2.read A.flush c; let (r, g) := floatToOther v dst A; (r, f ||| g)
  | .e2m1 =>
    let (v, f) := blockValue A (fmtE2M1.value c)
    let (r, g) := fmtB32.roundVal A.flush v
    (r, f ||| g)
  | .int4 =>
    let i := sext 4 c
    let (v, f) := blockValue A (.fin (i < 0) i.natAbs 0)
    let (r, g) := fmtB32.roundVal A.flush v
    (r, f ||| g)
  | .int8 => intToOther (sext 8 c) dst A
  | .uint8 => intToOther ((c % 256 : Nat) : Int) dst A
  | .int32 => intToOther (sext 32 c) dst A
  | .int64 => intToOther (sext 64 c) dst A
  | .decimal64 =>
    let v := fmtD64.value c
    let (r, g) :=
      match dst with
      | .decimal128 => fmtD128.roundVal v.prefExp v
      | .int64 => decToInt flagNarrowSat 0 v
      | .ledger => decToInt flagLedgerSat A.dDst v
      | .binary64 | .binary32 | .binary16 | .fw16 | .e4m3 | .e5m2 | .e2m1 | .int8 | .uint8 | .int4 | .int32
      | .decimal64 => decToFloat fmtB64 A.flush v
    (r, v.readFlags ||| g)
  | .decimal128 =>
    let v := fmtD128.value c
    let (r, g) := if dst = .ledger then decToInt flagLedgerSat A.dDst v else fmtD64.roundVal v.prefExp v
    (r, v.readFlags ||| g)
  | .ledger =>
    let n := sext 64 c
    let (neg, a, b) := ledgerRat n A.dSrc
    match dst with
    | .decimal64 => fmtD64.roundRatio neg a b (-(A.dSrc : Int))
    | .decimal128 => fmtD128.roundRatio neg a b (-(A.dSrc : Int))
    | .int64 => satSigned 64 flagNarrowSat (sgn neg (rneDiv a b))
    | .ledger => roundToInt 64 flagLedgerSat neg (a * 10 ^ A.dDst) b
    | .binary64 | .binary32 | .binary16 | .fw16 | .e4m3 | .e5m2 | .e2m1 | .int8 | .uint8 | .int4 | .int32 =>
      fmtB64.roundRatio A.flush neg a b

end Sys2Proof.Machine
end

