-- ==== Sys2Proof/Syntax.lean ====
section
/-! DEFINITION. The commands the block takes: the slot instructions of a core with their encoded fields, and the
commands of every other unit with what each carries. -/

namespace Sys2Proof

/-- Fields of a C-slot instruction (03 R67). -/
structure CForm where
  d : BitVec 5
  a : BitVec 5
  b : BitVec 5
  sat : Bool
  cond : BitVec 3
  useS : Bool
  unit : BitVec 2
  imm : BitVec 32
  deriving DecidableEq, Repr

/-- Fields of an X-slot instruction (04 R93). -/
structure XForm where
  td : BitVec 3
  ta : BitVec 3
  tb : BitVec 3
  pair : BitVec 5
  sat : Bool
  acc : Bool
  kseg : BitVec 3
  vsa : BitVec 6
  vsb : BitVec 6
  vr : BitVec 6
  row : BitVec 6
  grp : BitVec 2
  deriving DecidableEq, Repr

/-- Fields of a V-slot instruction, form VE (05 R112). -/
structure VEForm where
  vd : BitVec 6
  va : BitVec 6
  vb : BitVec 6
  vc : BitVec 6
  km : BitVec 3
  fmt : BitVec 4
  fmtd : BitVec 4
  count : BitVec 12
  sat : Bool
  sb : Bool
  aux : BitVec 5
  deriving DecidableEq, Repr

/-- Fields of V.CHAIN, form VC (05 R112). -/
structure VCForm where
  vd : BitVec 6
  i0 : BitVec 6
  i1 : BitVec 6
  i2 : BitVec 6
  i3 : BitVec 6
  km : BitVec 3
  count : BitVec 12
  chain : BitVec 5
  red : Bool
  racc : BitVec 2
  nowr : Bool
  deriving DecidableEq, Repr

/-- Fields of a V-slot instruction, form VR (05 R112). -/
structure VRForm where
  vd : BitVec 6
  va : BitVec 6
  ta : BitVec 3
  axis : Bool
  km : BitVec 3
  fmt : BitVec 4
  count : BitVec 12
  racc : BitVec 2
  clr : Bool
  sb : BitVec 5
  lane : BitVec 12
  sat : Bool
  deriving DecidableEq, Repr

/-- Fields of an M-slot instruction, form MV (03 R70). -/
structure MVForm where
  reg : BitVec 6
  ab : BitVec 4
  ast : BitVec 4
  km : BitVec 3
  ew : BitVec 3
  grp : BitVec 2
  nf : BitVec 2
  count : BitVec 12
  offs : BitVec 20
  deriving DecidableEq, Repr

/-- Fields of an M-slot instruction, form MG (03 R70). -/
structure MGForm where
  vd : BitVec 6
  vi : BitVec 6
  ab : BitVec 4
  km : BitVec 3
  ew : BitVec 3
  grp : BitVec 2
  iw : Bool
  count : BitVec 12
  shift : BitVec 3
  deriving DecidableEq, Repr

/-- Fields of an M-slot instruction, form MF (03 R70). -/
structure MFForm where
  reg : BitVec 6
  ab : BitVec 4
  fh : BitVec 6
  aop : BitVec 3
  typ : BitVec 2
  sb : BitVec 5
  discard : Bool
  len : BitVec 8
  offs : BitVec 21
  deriving DecidableEq, Repr

/-- Header of a host frame as the host link hands it on, its parts joined and its content decrypted: the session, the
adapter's tag, and whether the frame keeps the layout rules of 17 R385 and R386. -/
structure HostHdr where
  session : Nat
  tag : Nat
  wellFormed : Bool
  deriving DecidableEq, Repr

/-- A fabric frame (11 R246, R247): its header, and its content in clear. -/
structure Frame where
  job : BitVec 16
  dst : BitVec 22
  src : BitVec 22
  typ : BitVec 4
  cls : BitVec 2
  srcCore : BitVec 10
  seq : BitVec 16
  more : Bool
  issueBell : BitVec 32
  content : Bytes
  deriving DecidableEq, Repr

/-- An entry of the route table (11 R251). -/
structure RouteEntry where
  job : BitVec 16
  place : BitVec 22
  level : BitVec 3
  ports : BitVec 32
  valid : Bool
  deriving DecidableEq, Repr

/-- An entry of the region table (11 R254). -/
structure RegionEntry where
  key : BitVec 64
  job : BitVec 16
  base : Nat
  size : Nat
  plan : BitVec 4
  load : Bool
  store : Bool
  atomic : Bool
  flag : Bool
  sole : Bool
  solePlace : BitVec 22
  soleCore : BitVec 10
  valid : Bool
  deriving DecidableEq, Repr

/-- A far handle as INSTALL carries it (13 R304): plan core, handle number, place and region key. -/
structure HandleInstall where
  planCore : Nat
  handle : Fin 64
  place : BitVec 22
  key : BitVec 64
  deriving DecidableEq, Repr

/-- A region of the ADDRESS_MAP (11 R254). -/
structure RegionDecl where
  base : Nat
  size : Nat
  load : Bool
  store : Bool
  atomic : Bool
  flag : Bool
  /-- (member index, plan core) of a SOLE region -/
  sole : Option (Nat × Nat)
  deriving DecidableEq, Repr

/-- A far handle of the ADDRESS_MAP (03 R74): the plan core that holds it, its number, and the member and region of
the target. -/
structure HandleDecl where
  planCore : Nat
  handle : Nat
  member : Nat
  region : Nat
  deriving DecidableEq, Repr

/-- Where a job of the reeve's job table stands (13 R301-R310). -/
inductive ReevePhase where
  /-- INSTALL sent, not all INSTALLED -/
  | installing
  /-- installed and not armed -/
  | installed
  /-- ARM sent with launch bell L -/
  | arming
  /-- GO recorded and sent -/
  | going
  /-- every member has reported LAUNCHED -/
  | launched
  /-- TEARDOWN sent -/
  | teardown
  /-- ROUTE_REMOVE sent -/
  | removing
  deriving DecidableEq, Repr

/-- A job of the reeve's job table (13 R299-R311). -/
structure ReeveJob where
  id : Nat
  digest : Nat
  /-- member places in increasing order: the index is the rank (R302) -/
  places : List Nat
  /-- members and transit modules that hold route entries -/
  holders : List Nat
  /-- control bound A (R304) -/
  boundA : Nat
  phase : ReevePhase
  launch : Nat
  /-- places that have sent INSTALLED -/
  installed : List Nat
  /-- member indices that reported: (member, LAUNCHED) -/
  reports : List (Nat × Bool)
  /-- members whose TEARDOWN_DONE has arrived -/
  done : List Nat
  /-- places whose ROUTE_REMOVED has arrived -/
  removed : List Nat
  /-- member that answered BUSY_TEARDOWN and has not sent TEARDOWN_DONE (R311) -/
  busy : Option Nat
  cause : Nat
  /-- the job's route entries with the module that holds each (11 R251) -/
  routes : List (Nat × RouteEntry)
  /-- the plan's regions and far handles (13 R304) -/
  regions : List RegionDecl
  handles : List HandleDecl
  /-- number of the warden's first draw for the region keys -/
  keySeed : Nat
  deriving DecidableEq, Repr

/-- What the reeve needs of a plan (13 R301): MEMBERS, the least HARV_ALLOW, whether a collective descriptor has CRC = 0,
its HBM pages and plan cores, and its regions and far handles. -/
structure PlanFacts where
  members : Nat
  harvAllow : Nat
  unchecked : Bool
  pages : Nat
  cores : Nat
  regions : List RegionDecl
  handles : List HandleDecl
  deriving DecidableEq, Repr

/-- What the reeve finds when it checks a JOB_START (13 R301): the plan, where its own module does not hold it; whether
every other member has the plan loaded, not draining and bound to no job, and holds its bins; the route entries with the
module that is to hold each, and whether they fit the tables of the other modules. Under TWIN, on side A: the places
joined on side B, the job ids not free there, and the code of the first check that fails there; on side B: the job id
with which side A's reeve asks. -/
structure JobView where
  plan : PlanFacts
  loaded : Bool
  binsHeld : Bool
  routes : List (Nat × RouteEntry)
  routesFit : Bool
  sideB : Nat
  takenB : List Nat
  refusedB : Option Nat
  fromA : Option Nat
  deriving DecidableEq, Repr

/-- The link field of a frame (11 R249): TX_SEQ, ACK_SEQ, NAK and the credits returned. -/
structure LinkField where
  txSeq : BitVec 24
  ackSeq : BitVec 24
  nak : Bool
  cls : BitVec 2
  credits : BitVec 6
  deriving DecidableEq, Repr

/-- Where a frame to route comes from: a port, or something this module sends (number of the output, and of the frame in
it). -/
inductive FrameSource where
  | received (port : Fin 32)
  | issued (output frame : Nat)
  deriving DecidableEq, Repr

/-- An IDLE frame on a port: its 256 bytes, and whether its tag holds. -/
structure IdleFrame where
  port : Fin 32
  wire : Bytes
  tag : Bool
  deriving DecidableEq, Repr

/-- The errors that reads meet: plan addresses read with corrected errors, and addresses whose data is lost. -/
structure ReadOutcome where
  corrected : List Nat
  lost : List Nat
  deriving DecidableEq, Repr

/-- SEQ and job of a message of the reeve (13 R316). -/
structure ReeveMsg where
  seq : Nat
  job : Nat
  deriving DecidableEq, Repr

/-- What the warden finds in the quote of a JOIN (13 R297): its signature and nonce hold, its MEAS11, and whether it is of a
later start of a module that has joined before. -/
structure JoinQuote where
  ok : Bool
  meas11 : Bytes
  restarted : Bool
  deriving DecidableEq, Repr

/-- What a port finds at training (11 R243; 15 R348): the lanes that work at both ends, the peer's place and port, and what
the peer sends: its certificates and nonce, and its half-secret as encrypted and signed. -/
structure TrainFacts where
  lanes : BitVec 4
  peerPlace : BitVec 22
  peerPort : BitVec 5
  identity : Bytes
  transport : Bytes
  nonce : Bytes
  secret : Bytes
  signature : Bytes
  deriving DecidableEq, Repr

/-- A vote of one participant of the module, or a combination (09 R202, R203). -/
structure Vote where
  step : Nat
  cls : Nat
  attempt : Nat
  early : Bool
  replay : Bool
  /-- twin tally partial (13 R313) -/
  t0 : Nat
  t1 : Nat
  deriving DecidableEq, Repr

/-- What one power-manager reading finds (19 R421, R414; 18 R406): the beat-rate monitors in Mbeat/s, the lowest
voltage of R234 for each core rail in mV, the input voltage in 10 mV, current in 10 mA and power in W (1 ms and 5 ms
averages, and the present value), and each rail's voltage in mV and current in 10 mA. -/
structure PowerReading where
  rates : Vector (BitVec 16) 32
  vf : Vector (BitVec 16) 4
  inputV : BitVec 16
  inputA : BitVec 16
  inputW1ms : BitVec 16
  inputW5ms : BitVec 16
  inputWNow : BitVec 16
  railV : Vector (BitVec 16) 16
  railA : Vector (BitVec 16) 16
  deriving DecidableEq, Repr

/-- What the units find in their own tests during a start (16 R367; 08 R185, R190; 19 R424, R427): whether the power
stage and the reference are good, which of the four health copies read back, the units that fail their self-test
(KIND, unit), the channels that fail training or the plough test with their REASON, the milliseconds the start took,
and the grade, stepping and cores failed at manufacture that the part carries. -/
structure StartFacts where
  powerOk : Bool
  referenceOk : Bool
  healthCopies : BitVec 4
  failed : List (Nat × Nat)
  badChannels : List (Nat × Nat)
  elapsedMs : Nat
  grade : BitVec 4
  stepping : BitVec 4
  deriving DecidableEq, Repr


/-- The commands of the block: one constructor for every row of the command table, with the row's operands. -/
inductive Instr where
  /-- C_NOP (R68): C-slot no-op; does nothing. -/
  | cNop (c : CoreId)
  /-- C_ADD (R68): Adds two S registers as int64, saturating or wrapping under SAT. -/
  | cAdd (c : CoreId) (f : CForm)
  /-- C_SUB (R68): Subtracts two S registers as int64 under SAT. -/
  | cSub (c : CoreId) (f : CForm)
  /-- C_MUL (R68): Multiplies two S registers, keeping the low 64 bits or saturating. -/
  | cMul (c : CoreId) (f : CForm)
  /-- C_AND (R68): Bitwise AND of two S registers. -/
  | cAnd (c : CoreId) (f : CForm)
  /-- C_OR (R68): Bitwise OR of two S registers. -/
  | cOr (c : CoreId) (f : CForm)
  /-- C_XOR (R68): Bitwise XOR of two S registers. -/
  | cXor (c : CoreId) (f : CForm)
  /-- C_SHL (R68): Shifts Sa left by Sb[5:0], saturating under SAT. -/
  | cShl (c : CoreId) (f : CForm)
  /-- C_SHR (R68): Shifts Sa right logically by Sb[5:0]. -/
  | cShr (c : CoreId) (f : CForm)
  /-- C_SRA (R68): Shifts Sa right arithmetically by Sb[5:0]. -/
  | cSra (c : CoreId) (f : CForm)
  /-- C_ADDI (R68): Adds the sign-extended immediate to Sa under SAT. -/
  | cAddi (c : CoreId) (f : CForm)
  /-- C_LI (R68): Loads the immediate into Sd. -/
  | cLi (c : CoreId) (f : CForm)
  /-- C_LIH (R68): Loads the immediate into the upper 32 bits of Sd, keeping the lower half. -/
  | cLih (c : CoreId) (f : CForm)
  /-- C_CMP (R68): Writes 1 to Sd if the integer condition holds, else 0. -/
  | cCmp (c : CoreId) (f : CForm)
  /-- C_FADD (R68): Adds two binary64 values, rounded once. -/
  | cFadd (c : CoreId) (f : CForm)
  /-- C_FSUB (R68): Subtracts two binary64 values, rounded once. -/
  | cFsub (c : CoreId) (f : CForm)
  /-- C_FMUL (R68): Multiplies two binary64 values, rounded once. -/
  | cFmul (c : CoreId) (f : CForm)
  /-- C_FFMA (R68): Fused binary64 multiply-add into Sd, rounded once. -/
  | cFfma (c : CoreId) (f : CForm)
  /-- C_FDIV (R68): Correctly rounded binary64 division, one in flight per core. -/
  | cFdiv (c : CoreId) (f : CForm)
  /-- C_FSQRT (R68): Correctly rounded binary64 square root, one in flight per core. -/
  | cFsqrt (c : CoreId) (f : CForm)
  /-- C_FCMP (R68): Writes 1 to Sd if the binary64 condition holds, else 0. -/
  | cFcmp (c : CoreId) (f : CForm)
  /-- C_FMIN (R36): Binary64 minimum under the NaN and signed-zero rule. -/
  | cFmin (c : CoreId) (f : CForm)
  /-- C_FMAX (R36): Binary64 maximum under the NaN and signed-zero rule. -/
  | cFmax (c : CoreId) (f : CForm)
  /-- C_FCVTI (R53): Converts binary64 to int64 under the floating-to-integer rule. -/
  | cFcvti (c : CoreId) (f : CForm)
  /-- C_ICVTF (R68): Converts int64 to binary64, rounded. -/
  | cIcvtf (c : CoreId) (f : CForm)
  /-- C_AADD (R68): Adds two A registers modulo 2^48. -/
  | cAadd (c : CoreId) (f : CForm)
  /-- C_AADDI (R68): Adds the immediate to an A register. -/
  | cAaddi (c : CoreId) (f : CForm)
  /-- C_ALI (R68): Loads the zero-extended immediate into an A register. -/
  | cAli (c : CoreId) (f : CForm)
  /-- C_ALIH (R68): Loads IMM[15:0] into bits [47:32] of an A register. -/
  | cAlih (c : CoreId) (f : CForm)
  /-- C_AADDL (R68): Adds a loop counter times the immediate to an A register. -/
  | cAaddl (c : CoreId) (f : CForm)
  /-- C_AMOVS (R81): Moves Sa[47:0] into an A register; a run-ahead sync point. -/
  | cAmovs (c : CoreId) (f : CForm)
  /-- C_SMOVA (R68): Moves an A register, zero-extended, into Sd. -/
  | cSmova (c : CoreId) (f : CForm)
  /-- C_KSET (R68): Sets mask Kd active for lanes 0 to n - 1. -/
  | cKset (c : CoreId) (f : CForm)
  /-- C_KAND (R68): Bitwise AND of two lane masks. -/
  | cKand (c : CoreId) (f : CForm)
  /-- C_KOR (R68): Bitwise OR of two lane masks. -/
  | cKor (c : CoreId) (f : CForm)
  /-- C_KXOR (R68): Bitwise XOR of two lane masks. -/
  | cKxor (c : CoreId) (f : CForm)
  /-- C_KNOT (R68): Inverts a lane mask. -/
  | cKnot (c : CoreId) (f : CForm)
  /-- C_BR (R69): Branches to this bundle index plus IMM, with no delay slot. -/
  | cBr (c : CoreId) (f : CForm)
  /-- C_BRC (R81): Branches if the condition on Sa and Sb holds; a run-ahead sync point. -/
  | cBrc (c : CoreId) (f : CForm)
  /-- C_LOOP (R69): Runs the following LEN bundles COUNT times, stepping a loop counter. -/
  | cLoop (c : CoreId) (f : CForm)
  /-- C_WAITF (R68): Waits until a condition holds on a word in own local SRAM. -/
  | cWaitf (c : CoreId) (f : CForm)
  /-- C_WAITDC (R68): Waits until a completion counter reaches a threshold. -/
  | cWaitdc (c : CoreId) (f : CForm)
  /-- C_ISSUE (R83): Issues a descriptor to a cart, reckoner or mill, counting its completion into a DC register. -/
  | cIssue (c : CoreId) (f : CForm)
  /-- C_HARV (R85): Closes the step after outstanding work completes and casts the core's harvest vote. -/
  | cHarv (c : CoreId) (f : CForm)
  /-- C_HALT (R85): Closes the step as C.HARV and ends the core's part of the slot. -/
  | cHalt (c : CoreId) (f : CForm)
  /-- C_SQRD (R86): Reads a sequence slot's committed and tentative lengths into Sd. -/
  | cSqrd (c : CoreId) (f : CForm)
  /-- C_SQDRAFT (R86): Raises the tentative length by n, capped at CAP. -/
  | cSqdraft (c : CoreId) (f : CForm)
  /-- C_SQACCEPT (R86): Raises the pending accepted count by n, capped at drafted positions. -/
  | cSqaccept (c : CoreId) (f : CForm)
  /-- C_SQTRIM (R86): Trims the tentative length to committed plus accepted. -/
  | cSqtrim (c : CoreId) (f : CForm)
  /-- C_SQRESET (R87): Marks the sequence slot to reset to zero at commit. -/
  | cSqreset (c : CoreId) (f : CForm)
  /-- RUNAHEAD_LOAD (R80): The address side issues an eligible load early into the run-ahead buffer. -/
  | runaheadLoad (load : CoreId × ReadOutcome)
  /-- X_NOP (R94): X-slot no-op. -/
  | xNop (c : CoreId)
  /-- X_MMA (R98): Computes a tile product of TA and TB under a pairing, with one rounding per group. -/
  | xMma (c : CoreId) (f : XForm)
  /-- X_ZERO (R94): Clears every byte of a tile register. -/
  | xZero (c : CoreId) (f : XForm)
  /-- X_TMOV (R94): Copies one tile register to another. -/
  | xTmov (c : CoreId) (f : XForm)
  /-- X_TRD (R94): Moves tile rows into a V register group unchanged. -/
  | xTrd (c : CoreId) (f : XForm)
  /-- X_TWR (R94): Moves a V register group into tile rows unchanged. -/
  | xTwr (c : CoreId) (f : XForm)
  /-- V_NOP (R113): V-slot no-op. -/
  | vNop (c : CoreId)
  /-- V_ADD (R116): Element-wise addition in the operation format. -/
  | vAdd (c : CoreId) (f : VEForm)
  /-- V_SUB (R116): Element-wise subtraction in the operation format. -/
  | vSub (c : CoreId) (f : VEForm)
  /-- V_MUL (R116): Element-wise multiplication in the operation format. -/
  | vMul (c : CoreId) (f : VEForm)
  /-- V_FMA (R116): Element-wise fused multiply-add, rounded once. -/
  | vFma (c : CoreId) (f : VEForm)
  /-- V_MIN (R116): Element-wise minimum. -/
  | vMin (c : CoreId) (f : VEForm)
  /-- V_MAX (R116): Element-wise maximum. -/
  | vMax (c : CoreId) (f : VEForm)
  /-- V_ABS (R116): Element-wise magnitude. -/
  | vAbs (c : CoreId) (f : VEForm)
  /-- V_NEG (R116): Element-wise negation. -/
  | vNeg (c : CoreId) (f : VEForm)
  /-- V_CLAMP (R116): Element-wise clamp between two bounds. -/
  | vClamp (c : CoreId) (f : VEForm)
  /-- V_SEL (R113): Selects lanes from two sources by a lane mask. -/
  | vSel (c : CoreId) (f : VEForm)
  /-- V_AND (R113): Element-wise bitwise AND on integers. -/
  | vAnd (c : CoreId) (f : VEForm)
  /-- V_OR (R113): Element-wise bitwise OR on integers. -/
  | vOr (c : CoreId) (f : VEForm)
  /-- V_XOR (R113): Element-wise bitwise XOR on integers. -/
  | vXor (c : CoreId) (f : VEForm)
  /-- V_SHL (R113): Element-wise left shift, saturating under SAT. -/
  | vShl (c : CoreId) (f : VEForm)
  /-- V_SHR (R113): Element-wise logical right shift. -/
  | vShr (c : CoreId) (f : VEForm)
  /-- V_SRA (R113): Element-wise arithmetic right shift. -/
  | vSra (c : CoreId) (f : VEForm)
  /-- V_MOV (R116): Copies lanes with bits unchanged. -/
  | vMov (c : CoreId) (f : VEForm)
  /-- V_CMP (R116): Writes a lane mask from a lane-wise comparison. -/
  | vCmp (c : CoreId) (f : VEForm)
  /-- V_QUANT (R44): Quantizes decimal64 lanes to the exponent of a second operand. -/
  | vQuant (c : CoreId) (f : VEForm)
  /-- V_DIV (R118): Correctly rounded binary64 lane division. -/
  | vDiv (c : CoreId) (f : VEForm)
  /-- V_SQRT (R118): Correctly rounded binary64 lane square root. -/
  | vSqrt (c : CoreId) (f : VEForm)
  /-- V_FN (R117): Correctly rounded EXP, LOG2, RCP, RSQRT or TANH of each lane. -/
  | vFn (c : CoreId) (f : VEForm)
  /-- V_CVT (R119): Converts lanes between formats under the conversion rules. -/
  | vCvt (c : CoreId) (f : VEForm)
  /-- V_WUPD (R120): Weight update: exact sum of two lanes rounded once, to nearest or stochastically. -/
  | vWupd (c : CoreId) (f : VEForm)
  /-- V_CHAIN (R124): Runs a fused chain of up to eight stages per lane, optionally reducing into an accumulator. -/
  | vChain (c : CoreId) (f : VCForm)
  /-- V_RSUM (R127): Adds active lanes exactly into a reduction accumulator. -/
  | vRsum (c : CoreId) (f : VRForm)
  /-- V_RMIN (R129): Writes the least active lane to a scalar. -/
  | vRmin (c : CoreId) (f : VRForm)
  /-- V_RMAX (R129): Writes the greatest active lane to a scalar. -/
  | vRmax (c : CoreId) (f : VRForm)
  /-- V_RRD (R128): Reads a reduction accumulator into a scalar, rounded once, optionally emptying it. -/
  | vRrd (c : CoreId) (f : VRForm)
  /-- V_TRSUM (R130): Sums each row or column of a tile exactly into lanes. -/
  | vTrsum (c : CoreId) (f : VRForm)
  /-- V_TRMIN (R130): Takes the least value of each row or column of a tile. -/
  | vTrmin (c : CoreId) (f : VRForm)
  /-- V_TRMAX (R130): Takes the greatest value of each row or column of a tile. -/
  | vTrmax (c : CoreId) (f : VRForm)
  /-- V_BCST (R113): Broadcasts the low bits of a scalar into every lane. -/
  | vBcst (c : CoreId) (f : VRForm)
  /-- V_EXT (R113): Extracts one lane into a scalar. -/
  | vExt (c : CoreId) (f : VRForm)
  /-- V_INS (R113): Inserts a scalar into one lane. -/
  | vIns (c : CoreId) (f : VRForm)
  /-- V_KCNT (R113): Counts active lanes of a mask into a scalar. -/
  | vKcnt (c : CoreId) (f : VRForm)
  /-- V_IOTA (R113): Writes a scalar plus the lane index into each lane. -/
  | vIota (c : CoreId) (f : VRForm)
  /-- M_NOP (R71): M-slot no-op. -/
  | mNop (c : CoreId)
  /-- M_LDV (R71): Loads contiguous elements into a V register group. -/
  | mLdv (c : CoreId) (f : MVForm)
  /-- M_LDVS (R71): Loads strided elements into a V register group. -/
  | mLdvs (c : CoreId) (f : MVForm)
  /-- M_STV (R71): Stores a V register group contiguously. -/
  | mStv (c : CoreId) (f : MVForm)
  /-- M_STVS (R71): Stores a V register group with a stride. -/
  | mStvs (c : CoreId) (f : MVForm)
  /-- M_LDF (R72): Structure load that de-interleaves fields into register groups. -/
  | mLdf (c : CoreId) (f : MVForm)
  /-- M_STF (R72): Structure store that interleaves fields from register groups. -/
  | mStf (c : CoreId) (f : MVForm)
  /-- M_GATH (R76): Gathers elements at indexed addresses into lanes, completing precisely. -/
  | mGath (c : CoreId) (f : MGForm)
  /-- M_SCAT (R76): Scatters lanes to indexed addresses, completing precisely. -/
  | mScat (c : CoreId) (f : MGForm)
  /-- M_SCADD (R73): Scatter-adds lanes in lane order, rounding once per lane. -/
  | mScadd (c : CoreId) (f : MGForm)
  /-- M_SCADDU (R73): Scatter-adds lanes in arrival order; order-free. -/
  | mScaddu (c : CoreId) (f : MGForm)
  /-- M_LDX (R71): Loads one element into a scalar, including core control window reads. -/
  | mLdx (c : CoreId) (f : MVForm)
  /-- M_STX (R71): Stores the low bits of a scalar as one element. -/
  | mStx (c : CoreId) (f : MVForm)
  /-- M_FLAGL (R73): Stores a flag after every earlier store of the core is applied. -/
  | mFlagl (c : CoreId) (f : MVForm)
  /-- M_TLD (R71): Loads 16 KiB into a tile register. -/
  | mTld (c : CoreId) (f : MVForm)
  /-- M_TST (R71): Stores a tile register as 16 KiB. -/
  | mTst (c : CoreId) (f : MVForm)
  /-- M_COPY (R73): Copies 64-byte blocks between local addresses, counting into a DC register. -/
  | mCopy (c : CoreId) (f : MVForm)
  /-- M_FLD (R256): Issues a far load through a far handle. -/
  | mFld (c : CoreId) (f : MFForm)
  /-- M_FST (R256): Issues a far store through a far handle. -/
  | mFst (c : CoreId) (f : MFForm)
  /-- M_FATOM (R257): Issues a far atomic of the selected operation and type. -/
  | mFatom (c : CoreId) (f : MFForm)
  /-- M_FFLAG (R260): Issues a far flag store after every earlier store of the core has been applied. -/
  | mFflag (c : CoreId) (f : MFForm)
  /-- M_FENCE (R261): Waits until every earlier far operation has a reply or is abandoned. -/
  | mFence (c : CoreId)
  /-- M_LFENCE (R71): Waits until every earlier local store of the core is applied. -/
  | mLfence (c : CoreId)
  /-- MOVE_COMPLETE (R75): Data of an outstanding local move request arrives and the instruction completes. -/
  | moveComplete (c : CoreId) (id : Nat) (corrected lost : List Nat)
  /-- COPY_COMPLETE (R84): An M.COPY ends and its DC register gains 1. -/
  | copyComplete (c : CoreId) (id : Nat) (corrected lost : List Nat)
  /-- CART_DESC_END (R146): A cart descriptor ends with a status, its DC register gains 1 and the next queued one starts. -/
  | cartDescEnd (n : Fin 32) (corrected lost : List Nat) (parity : Bool)
  /-- RECK_SOLVE_END (R167): A reckoner solve ends, writes its output record and adds 1 to its DC register. -/
  | reckSolveEnd (n : Fin 32) (corrected lost : List Nat) (words : Nat) (lostWord : Option Nat)
  /-- COLLECTIVE_END (R272): A collective ends on a member and each participant's DC register gains 1. -/
  | collectiveEnd (i : Fin 16) (desc : Nat) (residue : Option Nat)
  /-- CHUNK_FRAME_RECEIVE (R275): A mill takes a CHUNK frame, checks it, and combines, forwards or writes it. -/
  | chunkFrameReceive (f : Frame) (residue : Bool) (word : Option (Fin 512 × Nat))
  /-- VOTE_RECEIVE (R203): A tree node or root takes a vote and combines or forwards it, sending results down from a root. -/
  | voteReceive (treeB : Bool) (src : Nat) (word : BitVec 64) (tally : Nat × Nat)
  /-- HARVEST_RESULT (R205): A member applies a commit, replay, mismatch or twin-stop result. -/
  | harvestResult (treeB : Bool) (word reopen : BitVec 64) (tally : Nat × Nat)
  /-- ATTEMPT_REOPEN (R205): After an early replay, attempt 1 of the step opens at REOPEN_BELL. -/
  | attemptReopen (i : Fin 16)
  /-- STEP_TIMEOUT (R207): No harvest result arrived by the step deadline; job fault. -/
  | stepTimeout (i : Fin 16)
  /-- SLOT_OPEN (R225): A service slot's work starts on a member at its planned start or after the previous slot commits. -/
  | slotOpen (i : Fin 16)
  /-- SLOT_RELEASE (R228): At the release bell the slot's replies are read out and queued to the host link with receipts. -/
  | slotRelease (i : Fin 16) (slot : Nat × Nat) (reads : ReadOutcome)
  /-- ENQUEUE (R229): The admission unit accepts, defers or refuses a request on a ring. -/
  | enqueue (h : HostHdr) (ring : Nat) (input : Bytes)
  /-- HEARTBEAT (R394): Host heartbeat answered with the status word. -/
  | heartbeat (h : HostHdr)
  /-- HELLO (R347): A principal starts a session handshake; the module returns its certificates and nonce. -/
  | hello (tag role : Nat) (keyBlock np : Bytes)
  /-- KEY (R347): The principal sends the encrypted secret and signature; the session opens or is refused. -/
  | keyExchange (tag : Nat) (cipher sig : Bytes)
  /-- CLOSE (R347): Ends a session. -/
  | closeSession (h : HostHdr)
  /-- BULK_BEGIN (R389): Begins a bulk transfer of a plan image, weight package or flash write. -/
  | bulkBegin (h : HostHdr) (target device region total : Nat)
  /-- BULK_DATA (R389): Delivers bytes of a bulk transfer at an offset. -/
  | bulkData (h : HostHdr) (off : Nat) (data : Bytes)
  /-- BULK_END (R389): Completes a bulk transfer and triggers the plan load, package load or flash write. -/
  | bulkEnd (h : HostHdr)
  /-- UNLOAD (R27): Moves a loaded plan to draining. -/
  | unload (h : HostHdr) (plan : Nat)
  /-- PLAN_DRAIN_END (R27): After a draining plan's last slot end its held instances are freed. -/
  | planDrainEnd (i : Fin 16)
  /-- READ_STATUS (R386): Returns a selected status block to a permitted role. -/
  | readStatus (h : HostHdr) (block inst : Nat)
  /-- ATTN_READ (R393): Returns attention records from a sequence number and may clear the sticky bit. -/
  | attnRead (h : HostHdr) (first : Nat)
  /-- QUOTE (R352): The warden signs a quote over a nonce and selected measurement registers. -/
  | quote (h : HostHdr) (nonce : Bytes) (mask : BitVec 16)
  /-- JOURNAL_READ (R359): Returns journal records and checkpoints in index order. -/
  | journalRead (h : HostHdr) (first count : Nat)
  /-- JOURNAL_ACK (R359): Frees journal space up to an index. -/
  | journalAck (h : HostHdr) (index : Nat)
  /-- CHECKPOINT (R358): The warden signs a journal checkpoint on request. -/
  | checkpoint (h : HostHdr)
  /-- EXTEND (R351): Extends an owner measurement register with a digest. -/
  | extend (h : HostHdr) (reg : Nat) (digest : Bytes)
  /-- SET_CAP (R370): Owner sets the power cap within the configured band. -/
  | setCap (h : HostHdr) (watts : Nat)
  /-- RESTART (R378): Owner requests an orderly restart; the module drains. -/
  | restart (h : HostHdr)
  /-- RESTART_DRAIN_END (R378): The orderly drain ends, remaining jobs are torn down, SHUTDOWN is journaled and the module resets. -/
  | restartDrainEnd
  /-- JOB_START (R301): The reeve checks a job start request and installs the job on its members. -/
  | jobStart (h : HostHdr) (digest : Nat) (places : List Nat) (v : JobView)
  /-- JOB_STOP (R308): A session requests teardown of a job. -/
  | jobStop (h : HostHdr) (job : Nat)
  /-- PLOUGH (R188): Owner programs and starts the plough on a mapped-out channel. -/
  | plough (h : HostHdr) (ch : Nat) (ctl arg : BitVec 64)
  /-- PLOUGH_DONE (R189): The plough finishes its passes and reports mismatches in ST_PLOUGH. -/
  | ploughDone (ch : Fin 256) (odd : List (Nat × Nat × Nat × Bool))
  /-- REGISTER_WRITE (R188): A write to a register field with no behaviour of its own. -/
  | registerWrite (ch : Fin 256) (arg : Bool) (value : BitVec 64)
  /-- COUNTER_SELECT (R397): Selects an event on a counter and zeroes it. -/
  | counterSelect (h : HostHdr) (kind inst ctr event : Nat) (enable : Bool)
  /-- COUNTER_READ (R402): Samples named counters with stamp bells. -/
  | counterRead (h : HostHdr) (sels : List (Nat × Nat × Nat))
  /-- COUNTER_CLEAR (R399): Clears a counter or a core's top-down values. -/
  | counterClear (h : HostHdr) (kind inst ctr : Nat)
  /-- FREEZE (R403): Schedules a snapshot of every counter at a future bell. -/
  | freeze (h : HostHdr) (f : Nat)
  /-- FREEZE_LATCH (R403): At the freeze bell every counter is latched into the snapshot. -/
  | freezeLatch
  /-- SNAPSHOT_READ (R403): Returns entries of the latched snapshot. -/
  | snapshotRead (h : HostHdr) (first count : Nat)
  /-- BW_WINDOW (R405): Sets the bandwidth window length from the next boundary. -/
  | bwWindow (h : HostHdr) (w : Nat)
  /-- BW_WINDOW_BOUNDARY (R405): A bandwidth window ends and its byte counts become readable. -/
  | bwWindowBoundary
  /-- BW_READ (R405): Returns the last completed window's byte counts. -/
  | bwRead (h : HostHdr) (kind first count : Nat)
  /-- TOPDOWN_READ (R404): Returns the four top-down values of cores. -/
  | topdownRead (h : HostHdr) (first count : Nat)
  /-- TELEMETRY (R406): Returns the latest sample of every sensor to the owner. -/
  | telemetry (h : HostHdr)
  /-- TALLY_READ (R330): Returns entries of the live or frozen tally history. -/
  | tallyRead (h : HostHdr) (hist plan first count : Nat)
  /-- GET_STATE (R407): Management port returns module state, start status and power flags. -/
  | getState (pec : Bool)
  /-- MGMT_TELEMETRY (R407): Management port returns a coarse telemetry page. -/
  | mgmtTelemetry (pec : Bool) (page : Nat)
  /-- GET_CAP (R407): Management port returns the cap and its band. -/
  | getCap (pec : Bool)
  /-- MGMT_SET_CAP (R370): Management port sets the power cap. -/
  | mgmtSetCap (pec : Bool) (watts : Nat)
  /-- MGMT_RESTART (R378): Management port requests an orderly or immediate restart. -/
  | mgmtRestart (pec orderly : Bool)
  /-- CLAIM_PERMIT (R346): Permits a claim at the next start while all owner slots are empty. -/
  | claimPermit (pec : Bool)
  /-- STAGE_BEGIN (R366): Begins staging a FIRMWARE or CONFIG region over the management port. -/
  | stageBegin (pec : Bool) (region total : Nat)
  /-- STAGE_DATA (R366): Delivers staged bytes at an offset. -/
  | stageData (pec : Bool) (off : Nat) (data : Bytes)
  /-- STAGE_END (R366): Writes the staged region to flash or refuses it. -/
  | stageEnd (pec : Bool)
  /-- JOIN (R297): The reeve takes a module's JOIN and admits or refuses it. -/
  | joinMsg (seq place grade logical : Nat) (quote : JoinQuote) (routes : List RouteEntry)
  /-- JOIN_ACK (R298): An admitted module sets its bell once to the domain bell. -/
  | joinAck (src : Nat) (admitted : Bool) (reason bell : Nat)
  /-- AUTOSTART_JOIN_WAIT (R376): An autostart entry needing a fabric source fails after 60 s without JOIN_ACK. -/
  | autostartJoinWait
  /-- REEVE_BEAT (R299): The primary sends its periodic beat to the standby. -/
  | reeveBeat
  /-- STANDBY_TAKEOVER (R299): The standby takes over when beats stop or the primary restarts. -/
  | standbyTakeover (jobs : List ReeveJob) (joined : List (Nat × Nat × Nat)) (lapsing : List (Nat × Nat)) (restarting : Bool)
  /-- REEVE_TAKEOVER (R299): A module learns the new primary and time source. -/
  | reeveTakeover (place : Nat)
  /-- INSTALL (R304): A member or transit module installs a job's routes, regions, handles and bins. -/
  | install (m : ReeveMsg) (member members : Nat) (digest : Option Nat) (places : List Nat) (routes : List RouteEntry) (regions : List RegionEntry) (handles : List HandleInstall) (twin : Bool)
  /-- INSTALLED (R304): The reeve takes an install answer and, when all are in, arms the job. -/
  | installed (job place : Nat)
  /-- ARM (R306): A member is armed for launch bell L and answers READY, NOT_READY or BUSY_TEARDOWN. -/
  | arm (m : ReeveMsg) (treeB : Bool) (l : Nat)
  /-- ARM_ANSWER (R306): Answers to ARM are combined up the trees and taken by the reeve. -/
  | armAnswer (job : Nat) (treeB : Bool) (src : Option Nat) (answer who : Nat) (otherReady : Bool)
  /-- GO (R306): A member accepts GO for launch, or discards it after L - 50,000. -/
  | goMsg (m : ReeveMsg) (treeB : Bool)
  /-- GO_DEADLINE (R307): At L - 200,000 without all READY the reeve disarms and abandons the launch. -/
  | goDeadline (job : Nat)
  /-- LAUNCH (R306): At bell L a member holding GO opens step 0 of the job. -/
  | launch (i : Fin 16)
  /-- LAUNCHED (R307): The reeve takes a member's LAUNCHED or DISARMED report. -/
  | launched (job member : Nat) (ok : Bool)
  /-- DISARM (R307): A member disarms and keeps its install. -/
  | disarm (m : ReeveMsg) (treeB : Bool)
  /-- ARMED_TIMEOUT (R306): A member still armed without GO at L + 1,000,000 disarms. -/
  | armedTimeout (i : Fin 16)
  /-- LAUNCH_REPORT_DEADLINE (R307): Missing launch reports by L + 1,000,000 + A make the reeve tear down with LAUNCH_FAILED. -/
  | launchReportDeadline (job : Nat)
  /-- JOB_FAULT (R308): The reeve takes a member's job fault and begins teardown of the job. -/
  | jobFault (job cause member : Nat)
  /-- TEARDOWN (R309): A member starts local teardown: fence, then drain. -/
  | teardown (m : ReeveMsg) (cause : Nat)
  /-- TEARDOWN_DRAIN_END (R309): Local drain completes; held requests get JOB_TORN_DOWN; keys are revoked and wipe begins. -/
  | teardownDrainEnd (i : Fin 16)
  /-- TEARDOWN_WIPE_END (R309): Wipe completes; the plan unloads and TEARDOWN_DONE is sent. -/
  | teardownWipeEnd (i : Fin 16)
  /-- TEARDOWN_DONE (R310): The reeve takes a member's TEARDOWN_DONE and, when all are in, removes routes. -/
  | teardownDone (job place : Nat)
  /-- ROUTE_REMOVE (R310): A module removes a job's route entries. -/
  | routeRemove (m : ReeveMsg)
  /-- ROUTE_REMOVED (R303): The reeve takes a route removal answer. -/
  | routeRemoved (job place : Nat)
  /-- JOB_ID_FREE (R303): A job id becomes free 100,000 bells after its routes are removed everywhere. -/
  | jobIdFree (job : Nat)
  /-- CONTROL_RESEND (R316): The reeve re-sends a control message unanswered after 20,000 bells. -/
  | controlResend
  /-- TWIN_TALLY (R314): A step's domain tally reaches the reeve and is compared with the other side's. -/
  | twinTally (sideB : Bool) (job step t0 t1 : Nat)
  /-- TWIN_STOP (R314): A root marks the next harvest result as a twin stop. -/
  | twinStop (job cause : Nat)
  /-- TWIN_PEER_LOST (R315): The other side's tally is missing 10,000,000 bells after commit; the side stops. -/
  | twinPeerLost (job step : Nat)
  /-- PLAN_FETCH (R377): A source answers a plan fetch from its resident images. -/
  | planFetch (src digest : Nat)
  /-- WEIGHT_FETCH (R377): A source answers a weight fetch from a loaded plan's read-only weights. -/
  | weightFetch (src digest : Nat)
  /-- FETCH_DATA (R377): A target takes fetched bytes at an offset. -/
  | fetchData (src off : Nat) (data : Bytes)
  /-- FETCH_END (R377): A target completes a fetch and loads the plan or weights. -/
  | fetchEnd (src total : Nat) (packages : List (Nat × Nat × Nat))
  /-- FETCH_REFUSED (R377): A target takes a refusal and fails the autostart entry. -/
  | fetchRefused (src code : Nat)
  /-- FETCH_TIMEOUT (R377): A fetch with no FETCH_DATA for 1 s fails with FIT_FETCH. -/
  | fetchTimeout
  /-- FRAME_ROUTE (R252): A received or issued fabric frame is delivered locally, forwarded or dropped. -/
  | frameRoute (src : FrameSource) (wire : Bytes)
  /-- REQUEST (R258): The endpoint checks a far request and applies it, replies from cache, or discards it. -/
  | farRequest (f : Frame) (corrected lost : List Nat)
  /-- CONTINUE (R256): The second frame of a two-frame request arrives and the request is applied. -/
  | continueFrame (g : Frame) (corrected lost : List Nat)
  /-- CONTINUE_TIMEOUT (R256): A first frame without its CONTINUE after 40,000 bells is discarded. -/
  | continueTimeout
  /-- REPLY (R261): A far reply reaches the issuing core and completes its operation. -/
  | farReply (f : Frame)
  /-- FAR_RESEND (R264): A far operation without reply is re-sent at 20,000, 40,000 and 60,000 bells. -/
  | farResend (c : CoreId) (seq : BitVec 16)
  /-- TARGET_LOST (R264): A far operation without reply at 80,000 bells ends with a job fault. -/
  | targetLost (c : CoreId) (seq : BitVec 16)
  /-- REPLAY_CACHE_FREE (R263): A source's replay cache is freed once all slots are older than 100,000 bells. -/
  | replayCacheFree (job : Nat) (place : BitVec 22) (core : BitVec 10)
  /-- TIME (R267): A TIME frame arrives and the bell is steered toward the time source. -/
  | timeFrame (p : Fin 32) (wire : Bytes)
  /-- TIME_SEND (R267): Each up port sends a TIME frame every 100,000 bells. -/
  | timeSend (p : Fin 32)
  /-- IDLE (R249): A link frame carrying acknowledgements and credits, or a NAK, is taken. -/
  | idle (f : IdleFrame)
  /-- LINK_ACK_TIMEOUT (R249): A frame unacknowledged after 2,000 bells is replayed. -/
  | linkAckTimeout (p : Fin 32)
  /-- PORT_TRAIN (R243): A fabric port trains its lanes, authenticates its peer and comes up or fails. -/
  | portTrain (p : Fin 32) (t : TrainFacts)
  /-- PORT_RETRAIN (R244): A port retrains on repeated replays, uncorrectable codewords or lost signal. -/
  | portRetrain (p : Fin 32) (cause : Fin 3)
  /-- PORT_WIDEN_ATTEMPT (R244): A narrowed port attempts a full-width retrain every 10 s. -/
  | portWidenAttempt (p : Fin 32)
  /-- HOST_LINK_TRAIN (R383): A host-link training attempt runs, repeated every 1 s while down. -/
  | hostLinkTrain (lanes : BitVec 8)
  /-- HOST_LINK_DOWN (R384): Loss of signal, repeated replays or silence take the link down and end every session. -/
  | hostLinkDown (seen : Bool)
  /-- SESSION_IDLE_TIMEOUT (R394): A session with no frame for 1,000,000 bells is closed. -/
  | sessionIdleTimeout (id : Nat)
  /-- PATROL_READ (R180): A controller patrols HBM lines and handles each outcome. -/
  | patrolRead (line : Nat) (outcome : Fin 5)
  /-- SRAM_PATROL (R191): A local SRAM or granary bank patrols its words. -/
  | sramPatrol (store : Fin 3) (unit off : Nat) (lost : Bool)
  /-- MAP_OUT_FILL_END (R185): The re-formed window's zero fill ends and the journal spill is written back. -/
  | mapOutFillEnd (window : Fin 4)
  /-- ZERO_FILL_END (R176): A zero fill of frames completes and the frames become available. -/
  | zeroFillEnd (i : Fin 16)
  /-- STACK_TEMP_READ (R181): A stack temperature reading sets refresh rate and the thermal ceiling refusal. -/
  | stackTempRead (stack : Fin 16) (temp : BitVec 16)
  /-- CORE_FENCE (R435): A core is fenced and substituted, stepped down or removed from spares. -/
  | coreFence (c : CoreId) (cause : Fin 6)
  /-- HANDSHAKE_STALL (R435): A core stage holding a request for 20,000 bells fences the core. -/
  | handshakeStall (c : CoreId)
  /-- SPARE_SELF_TEST (R437): Every 10 s each spare runs the plain-mode self-test. -/
  | spareSelfTest (c : CoreId) (pass : Bool)
  /-- SUBSTITUTION_COPY_END (R218): The fenced core's SRAM copy completes and the slot passes to the spare. -/
  | substitutionCopyEnd (c : CoreId) (bad : List Nat)
  /-- ROUTER_STALL (R443): A mesh router without completion for 20,000 bells is a package fault. -/
  | routerStall
  /-- PACKAGE_FAULT (R443): A bridge block resent 8 times stops the module. -/
  | packageFault
  /-- CORRECTED_SUMMARY (R441): A summary of corrected errors is written per interval of 1,000,000,000 bells. -/
  | correctedSummary
  /-- REFUSAL_SUMMARY (R237): Every second with refusals a summary record is written. -/
  | refusalSummary
  /-- DROP_SUMMARY (R268): Every second with dropped frames a summary record is written. -/
  | dropSummary
  /-- HEALTH_WRITE (R371): A health record change is written to four copies and read back. -/
  | healthWrite (ok : BitVec 4)
  /-- INPUT_VALID (R411): The input holds 46-60 V for 100 ms and the start sequence begins. -/
  | inputValid (f : StartFacts)
  /-- SEAL (R373): The module seals, reports READY and sends JOIN. -/
  | seal
  /-- INPUT_DIP (R411): An input dip of at most 0.5 ms is ridden through. -/
  | inputDip (us : Nat)
  /-- INPUT_LOSS (R411): An input below 46 V for over 0.5 ms is a power loss. -/
  | inputLoss (ms : Nat)
  /-- INPUT_SURGE (R411): An input surge beyond limits opens the electronic fuse. -/
  | inputSurge (mv us : Nat)
  /-- INPUT_OVERCURRENT (R413): Input current above 110 A opens the electronic fuse. -/
  | inputOvercurrent (ma : Nat)
  /-- INPUT_REVERSED (R412): A reversed input is blocked and the module stays dark. -/
  | inputReversed
  /-- POWER_MANAGER_TICK (R421): Every 10 us the power manager reads monitors and sets each core rail. -/
  | powerManagerTick (p : PowerReading)
  /-- RAIL_SHORT (R418): A shorted main rail is switched off and the module fault-stops. -/
  | railShort (rail : Fin 16) (phase amps : Nat)
  /-- SENSE_OPEN (R419): A rail with an open remote sense regulates on local sense. -/
  | senseOpen (rail : Fin 16)
  /-- THERMAL_READING (R422): A die temperature reading sets thermal refusal or a thermal stop. -/
  | thermalReading (sensor : Fin 64) (temp : BitVec 16)
  /-- REFERENCE_MISSING (R427): A missing reference holds start or fault-stops the module in service. -/
  | referenceMissing
  /-- EXTEST (R428): Boundary-scan EXTEST instruction. -/
  | extest
  /-- IDCODE (R428): Boundary-scan IDCODE instruction returning stepping and part. -/
  | idcode
  /-- SAMPLE_PRELOAD (R428): Boundary-scan SAMPLE/PRELOAD instruction. -/
  | samplePreload
  /-- CLAMP (R428): Boundary-scan CLAMP instruction. -/
  | clamp
  /-- HIGHZ (R428): Boundary-scan HIGHZ instruction. -/
  | highz
  /-- EXTEST_PULSE (R428): IEEE 1149.6 EXTEST_PULSE instruction. -/
  | extestPulse
  /-- EXTEST_TRAIN (R428): IEEE 1149.6 EXTEST_TRAIN instruction. -/
  | extestTrain
  /-- READ_START (R374): Test access reads ST_START from step 3 until seal. -/
  | readStart
  /-- VENDOR_DEBUG (R356): Vendor debug instructions, open only after DEBUG_AUTH. -/
  | vendorDebug (op : BitVec 8)
  /-- BYPASS (R428): Boundary-scan BYPASS instruction, also taken by unknown opcodes. -/
  | bypass
  /-- REFERENCE_RESTORED (R427): A module held at step 3 for a missing reference continues at step 4 once the reference has been valid for 100 ms. -/
  | referenceRestored (f : StartFacts)
  /-- SHUTDOWN_ACK_TIMEOUT (R378): After an orderly drain, a module still waiting for acknowledgement of its SHUTDOWN record resets when 10 s have passed without one. -/
  | shutdownAckTimeout
  deriving DecidableEq, Repr

end Sys2Proof
end

