-- ==== Sys2Proof/Machine/Operands.lean ====
section
/-! DEFINITION. Operand forms of the slot instructions: which fields each opcode uses (03 R67, R70; 04 R93; 05 R112),
which formats, pairings, conditions and register groups are legal (03 R57, R72; 04 R95-R97; 05 R105-R107, R115). -/

namespace Sys2Proof
open Sys2Proof.Machine

/-! ### C slot -/

/-- How an opcode uses COND. -/
inductive CondUse where
  | unused | integer | binary
  deriving DecidableEq, Repr

/-- Which fields of the C-slot form an opcode uses, and the width of the register names in D, A and B (5 S, 4 A or
DC, 3 K, 2 L, 0 unused). -/
structure CUse where
  dw : Nat := 0
  aw : Nat := 0
  bw : Nat := 0
  sat : Bool := false
  cond : CondUse := .unused
  useS : Bool := false
  unit : Bool := false
  imm : Bool := false
  /-- the destination is a lane mask, which may not be K0 (03 R59) -/
  kd : Bool := false
  deriving DecidableEq, Repr

/-- The *C-slot opcode table* (03 R68). -/
def cUse : Nat → Option CUse
  | 0x01 | 0x02 | 0x03 => some { dw := 5, aw := 5, bw := 5, sat := true }
  | 0x04 | 0x05 | 0x06 => some { dw := 5, aw := 5, bw := 5 }
  | 0x07 => some { dw := 5, aw := 5, bw := 5, sat := true }
  | 0x08 | 0x09 => some { dw := 5, aw := 5, bw := 5 }
  | 0x0A => some { dw := 5, aw := 5, sat := true, imm := true }
  | 0x0B | 0x0C => some { dw := 5, imm := true }
  | 0x0D => some { dw := 5, aw := 5, bw := 5, cond := .integer }
  | 0x10 | 0x11 | 0x12 | 0x13 | 0x14 => some { dw := 5, aw := 5, bw := 5 }
  | 0x15 => some { dw := 5, aw := 5 }
  | 0x16 => some { dw := 5, aw := 5, bw := 5, cond := .binary }
  | 0x17 | 0x18 => some { dw := 5, aw := 5, bw := 5 }
  | 0x19 | 0x1A => some { dw := 5, aw := 5 }
  | 0x20 => some { dw := 4, aw := 4, bw := 4 }
  | 0x21 => some { dw := 4, aw := 4, imm := true }
  | 0x22 | 0x23 => some { dw := 4, imm := true }
  | 0x24 => some { dw := 4, aw := 4, bw := 2, imm := true }
  | 0x25 => some { dw := 4, aw := 5 }
  | 0x26 => some { dw := 5, aw := 4 }
  | 0x28 => some { dw := 3, aw := 5, useS := true, imm := true, kd := true }
  | 0x29 | 0x2A | 0x2B => some { dw := 3, aw := 3, bw := 3, kd := true }
  | 0x2C => some { dw := 3, aw := 3, kd := true }
  | 0x30 => some { imm := true }
  | 0x31 => some { aw := 5, bw := 5, cond := .integer, imm := true }
  | 0x32 => some { dw := 2, aw := 5, useS := true, imm := true }
  | 0x38 => some { aw := 4, bw := 5, cond := .integer, imm := true }
  | 0x39 => some { dw := 4, aw := 5, useS := true, imm := true }
  | 0x3A => some { dw := 4, unit := true, imm := true }
  | 0x3B | 0x3C => some {}
  | 0x40 | 0x41 | 0x42 | 0x43 | 0x44 => some { dw := 5, aw := 5, useS := true, imm := true }
  | _ => none

/-- A field holds a register number of the given width. -/
def fitsField (w : Nat) (v : BitVec 5) : Bool := v.toNat < 2 ^ w

/-- 03 R57, R67: no reserved field set, every register inside its file, a legal condition and unit. -/
def CForm.legal (op : Nat) (f : CForm) : Bool :=
  match cUse op with
  | none => false
  | some u =>
    fitsField u.dw f.d && fitsField (if u.useS && !f.useS then 0 else u.aw) f.a && fitsField u.bw f.b
    && (u.sat || !f.sat)
    && (match u.cond with
        | .unused => f.cond == 0
        | .integer => f.cond.toNat < 6
        | .binary => f.cond.toNat < 4)
    && (u.useS || !f.useS) && (if u.unit then f.unit != 3 else f.unit == 0) && (u.imm || f.imm == 0)
    && (!u.kd || f.d != 0)
    && (op != 0x32 || f.imm.toNat / 2 ^ 20 != 0)

/-! ### X slot -/

/-- Operand formats of the matrix engine (04 R95). -/
inductive MFmt where
  | binary64 | binary32 | binary16 | fw16 | e4m3 | e5m2 | int8 | uint8 | e2m1 | int4 | w2 | w1
  deriving DecidableEq, Repr

def MFmt.width : MFmt → Nat
  | .binary64 => 64 | .binary32 => 32 | .binary16 => 16 | .fw16 => 16 | .e4m3 => 8 | .e5m2 => 8
  | .int8 => 8 | .uint8 => 8 | .e2m1 => 4 | .int4 => 4 | .w2 => 2 | .w1 => 1

/-- Accumulator formats (04 R95). -/
inductive AccFmt where
  | binary64 | binary32 | int32
  deriving DecidableEq, Repr

/-- A row of the *Pairing table* (04 R95). -/
structure Pairing where
  act : MFmt
  wgt : MFmt
  acc : AccFmt
  g : Nat
  ka : Nat
  kw : Nat
  ksegs : Nat
  /-- registers of the activation scale group, 0 for none -/
  vsa : Nat
  vsb : Nat
  deriving DecidableEq, Repr

/-- The *Pairing table*; codes 0x16-0x1F are undefined. -/
def pairing : Nat → Option Pairing
  | 0x00 => some ⟨.binary64, .binary64, .binary64, 1, 32, 64, 2, 0, 0⟩
  | 0x01 => some ⟨.binary32, .binary32, .binary32, 4, 64, 64, 1, 0, 0⟩
  | 0x02 => some ⟨.binary16, .binary16, .binary32, 8, 128, 128, 1, 0, 0⟩
  | 0x03 => some ⟨.fw16, .fw16, .binary32, 8, 128, 128, 1, 0, 0⟩
  | 0x04 => some ⟨.e4m3, .e4m3, .binary32, 16, 256, 256, 1, 0, 0⟩
  | 0x05 => some ⟨.e4m3, .e5m2, .binary32, 16, 256, 256, 1, 0, 0⟩
  | 0x06 => some ⟨.e5m2, .e4m3, .binary32, 16, 256, 256, 1, 0, 0⟩
  | 0x07 => some ⟨.e5m2, .e5m2, .binary32, 16, 256, 256, 1, 0, 0⟩
  | 0x08 => some ⟨.int8, .int8, .int32, 16, 256, 256, 1, 0, 0⟩
  | 0x09 => some ⟨.int8, .uint8, .int32, 16, 256, 256, 1, 0, 0⟩
  | 0x0A => some ⟨.uint8, .int8, .int32, 16, 256, 256, 1, 0, 0⟩
  | 0x0B => some ⟨.uint8, .uint8, .int32, 16, 256, 256, 1, 0, 0⟩
  | 0x0C => some ⟨.e2m1, .e2m1, .binary32, 32, 512, 512, 1, 1, 1⟩
  | 0x0D => some ⟨.int4, .int4, .binary32, 32, 512, 512, 1, 1, 1⟩
  | 0x0E => some ⟨.int8, .e2m1, .binary32, 32, 256, 512, 2, 0, 1⟩
  | 0x0F => some ⟨.e4m3, .e2m1, .binary32, 32, 256, 512, 2, 0, 1⟩
  | 0x10 => some ⟨.int8, .int4, .binary32, 32, 256, 512, 2, 0, 1⟩
  | 0x11 => some ⟨.e4m3, .int4, .binary32, 32, 256, 512, 2, 0, 1⟩
  | 0x12 => some ⟨.int8, .w2, .binary32, 64, 256, 1024, 4, 0, 2⟩
  | 0x13 => some ⟨.e4m3, .w2, .binary32, 64, 256, 1024, 4, 0, 2⟩
  | 0x14 => some ⟨.int8, .w1, .binary32, 128, 256, 2048, 8, 0, 4⟩
  | 0x15 => some ⟨.e4m3, .w1, .binary32, 128, 256, 2048, 8, 0, 4⟩
  | _ => none

/-- Output columns of a pairing (04 R91). -/
def Pairing.nw (p : Pairing) : Nat := if p.act = .binary64 then 32 else 64

/-- Registers in the group that GRP names. -/
def grpSize (g : BitVec 2) : Nat := 2 ^ g.toNat

/-- 04 R93, R97. -/
def XForm.legal (op : Nat) (f : XForm) : Bool :=
  let noPair := f.tb == 0 && f.pair == 0 && !f.sat && !f.acc && f.kseg == 0 && f.vsa == 0 && f.vsb == 0
  let noMove := f.vr == 0 && f.row == 0 && f.grp == 0
  match op with
  | 0x01 =>
    noMove &&
    (match pairing f.pair.toNat with
     | none => false
     | some p =>
       f.kseg.toNat < p.ksegs && f.td != f.ta && f.td != f.tb
       && (f.ta != f.tb || (p.act == p.wgt && p.ka == p.kw))
       && (p.vsa != 0 || f.vsa == 0) && (p.vsb != 0 || f.vsb == 0)
       && (p.vsb == 0 || f.vsb.toNat % p.vsb == 0)
       && (!f.sat || p.acc == .int32))
  | 0x02 => noPair && noMove && f.ta == 0
  | 0x03 => noPair && noMove
  | 0x04 | 0x05 =>
    noPair && f.ta == 0 && f.row.toNat % (4 * grpSize f.grp) == 0 && f.row.toNat + 4 * grpSize f.grp ≤ 64
    && f.vr.toNat % grpSize f.grp == 0
  | _ => false

/-! ### V slot -/

/-- COUNT: 0 stands for 4,096 (05 R106). -/
def countOf (c : BitVec 12) : Nat := if c = 0 then 4096 else c.toNat

/-- 05 R105: the smallest group of 1, 2, 4 or 8 registers that holds `bits` bits. -/
def groupFor (bits : Nat) : Option Nat :=
  if bits ≤ 8192 then some 1 else if bits ≤ 16384 then some 2 else if bits ≤ 32768 then some 4
  else if bits ≤ 65536 then some 8 else none

/-- A group operand: first register, lane width, lanes. -/
structure GroupRef where
  first : Nat
  w : Nat
  n : Nat
  deriving DecidableEq, Repr

def GroupRef.size (g : GroupRef) : Nat := (groupFor (g.w * g.n)).getD 8

/-- 05 R105, R106: the group exists, is aligned and inside the file. -/
def GroupRef.legal (g : GroupRef) : Bool :=
  match groupFor (g.w * g.n) with
  | none => false
  | some k => g.first % k == 0 && g.first + k ≤ 64

/-- 05 R107: the destination is exactly a source group or shares no register with it. -/
def GroupRef.compatible (d s : GroupRef) : Bool :=
  (d.first == s.first && d.size == s.size) || d.first + d.size ≤ s.first || s.first + s.size ≤ d.first

def groupsLegal (dst : Option GroupRef) (srcs : List GroupRef) : Bool :=
  srcs.all GroupRef.legal &&
  match dst with
  | none => true
  | some d => d.legal && srcs.all (d.compatible ·)

def fmtsB : List Fmt := [.binary64, .binary32, .binary16, .fw16]
def fmtsI : List Fmt := [.int32, .int64]
def fmtsBIL : List Fmt := fmtsB ++ fmtsI ++ [.ledger]
def fmtsAny : List Fmt :=
  [.binary64, .binary32, .binary16, .fw16, .e4m3, .e5m2, .int8, .uint8, .e2m1, .int4, .int32, .int64,
   .decimal64, .decimal128, .ledger]
def fmts64 : List Fmt := fmtsAny.filter (fun f => f.width ≤ 64)

/-- Which fields of form VE an opcode uses. -/
structure VEUse where
  fmts : List Fmt
  vb : Bool := false
  vc : Bool := false
  sb : Bool := false
  sat : Bool := false
  fmtd : Bool := false
  aux : Bool := false

/-- The *V-slot opcode table* (05 R113), form VE. -/
def veUse : Nat → Option VEUse
  | 0x01 | 0x02 => some { fmts := fmtsBIL ++ [.decimal64, .decimal128], vb := true, sb := true, sat := true }
  | 0x03 => some { fmts := fmtsB ++ fmtsI ++ [.decimal64], vb := true, sb := true, sat := true }
  | 0x04 => some { fmts := fmtsB ++ [.decimal64], vb := true, vc := true, sb := true }
  | 0x05 | 0x06 => some { fmts := fmtsBIL, vb := true, sb := true }
  | 0x07 | 0x08 => some { fmts := fmtsBIL, sat := true }
  | 0x09 => some { fmts := fmtsBIL, vb := true, vc := true, sb := true }
  | 0x0A => some { fmts := fmtsAny, vb := true, vc := true, sb := true }
  | 0x0B | 0x0C | 0x0D => some { fmts := fmtsI, vb := true, sb := true }
  | 0x0E | 0x0F | 0x10 => some { fmts := fmtsI, vb := true, sb := true, sat := true }
  | 0x11 => some { fmts := fmtsAny }
  | 0x12 => some { fmts := fmtsBIL ++ [.decimal64], vb := true, sb := true, aux := true }
  | 0x13 => some { fmts := [.decimal64], vb := true, sb := true }
  | 0x18 => some { fmts := [.binary64], vb := true, sb := true }
  | 0x19 => some { fmts := [.binary64] }
  | 0x1A => some { fmts := [.binary32, .binary16], aux := true }
  | 0x20 => some { fmts := fmtsAny, vb := true, vc := true, sat := true, fmtd := true, aux := true }
  | 0x21 => some { fmts := [.binary32, .binary64], vb := true, vc := true, sb := true, fmtd := true, aux := true }
  | _ => none

/-- The destination format: FMTD where the opcode uses it, FMT otherwise. -/
def VEForm.dstFmt (op : Nat) (f : VEForm) : Option Fmt :=
  if op = 0x20 ∨ op = 0x21 then Fmt.ofCode f.fmtd.toNat else Fmt.ofCode f.fmt.toNat

/-- The destination group, if the opcode writes long registers. -/
def VEForm.dstGroup (op : Nat) (f : VEForm) (fd : Fmt) : Option GroupRef :=
  if op = 0x12 then none else some ⟨f.vd.toNat, fd.width, countOf f.count⟩

/-- The source groups of an opcode (05 R112, R119). -/
def VEForm.srcGroups (op : Nat) (f : VEForm) (fs fd : Fmt) : List GroupRef :=
  let n := countOf f.count
  let a : List GroupRef := [⟨f.va.toNat, fs.width, n⟩]
  let b : List GroupRef :=
    if op = 0x20 then (if blockPair fs fd then [⟨f.vb.toNat, 16, (n + 63) / 64⟩] else [])
    else match veUse op with
      | some u => if u.vb && !f.sb then [⟨f.vb.toNat, fs.width, n⟩] else []
      | none => []
  let c : List GroupRef := if op = 0x04 ∨ op = 0x09 then [⟨f.vc.toNat, fs.width, n⟩] else []
  a ++ b ++ c

/-- A ledger to a ledger of its own scale is no pair of 02 R52. -/
def VEForm.sameLedger (f : VEForm) (fs fd : Fmt) : Bool := fs == .ledger && fd == .ledger && f.vc.toNat == f.aux.toNat

/-- 05 R115 and the format rules of R113, R116, R119, R120. -/
def VEForm.legal (op : Nat) (f : VEForm) : Bool :=
  match veUse op, Fmt.ofCode f.fmt.toNat, f.dstFmt op with
  | some u, some fs, some fd =>
    fs ∈ u.fmts
    && (u.vb || f.vb == 0) && (u.vc || f.vc == 0) && (u.sb || !f.sb) && (u.fmtd || f.fmtd == 0)
    && (u.aux || f.aux == 0)
    && (!f.sat || (u.sat && fs.isI && fd.isI))
    && (!f.sb || (f.vb.toNat < 32 && fs != .decimal128))
    && (match op with
        | 0x0A => f.vc.toNat < 8
        | 0x12 => f.vd.toNat < 8 && f.vd != 0 && f.aux.toNat < (if fs.isI then 6 else 4)
        | 0x1A => f.aux.toNat < 5
        | 0x20 =>
          convertible fs fd && !f.sameLedger fs fd && (blockPair fs fd || f.vb == 0)
          && (if fs == .ledger then f.vc.toNat ≤ 18 else f.vc == 0)
          && (if fd == .ledger then f.aux.toNat ≤ 18 else f.aux == 0)
        | 0x21 =>
          [Fmt.binary32, .binary16, .fw16, .e4m3, .e5m2].contains fd && fd.width ≤ fs.width
          && f.vc.toNat < 32 && f.aux.toNat < 2
        | _ => true)
    && groupsLegal (f.dstGroup op fd) (f.srcGroups op fs fd)
  | _, _, _ => false

/-- Form VC alone; the chain entry's own rules are `chainLegal`. A field that the opcode uses in other forms only counts
as unused (05 R112): RACC is zero where RED = 0, as VB, VC and AUX are of a V.CVT whose pair does not use them; VD is
free under NOWR = 1, for which the *V-slot field map* states no value (DESIGN CHOICE, notes/assumptions/45.md). -/
def VCForm.legal (f : VCForm) : Bool :=
  (f.red || (!f.nowr && f.racc == 0)) && (!f.red || f.racc.toNat < 2)

/-- Which fields of form VR an opcode uses. -/
structure VRUse where
  fmts : List Fmt
  vd : Bool := false
  va : Bool := false
  ta : Bool := false
  km : Bool := false
  count : Bool := false
  racc : Bool := false
  clr : Bool := false
  sb : Bool := false
  lane : Bool := false
  sat : Bool := false
  /-- VD names a scalar -/
  toS : Bool := false

/-- The *V-slot opcode table* (05 R113), form VR. -/
def vrUse : Nat → Option VRUse
  | 0x38 => some { fmts := fmtsB ++ [.int8, .uint8] ++ fmtsI ++ [.ledger], va := true, km := true, count := true,
                   racc := true }
  | 0x39 | 0x3A => some { fmts := fmtsBIL, vd := true, va := true, km := true, count := true, toS := true }
  | 0x3B => some { fmts := fmtsBIL, vd := true, racc := true, clr := true, sat := true, toS := true }
  | 0x3C => some { fmts := [.binary64, .binary32, .int32], vd := true, ta := true, km := true, count := true, sat := true }
  | 0x3D | 0x3E => some { fmts := [.binary64, .binary32, .int32], vd := true, ta := true, km := true, count := true }
  | 0x40 => some { fmts := fmts64, vd := true, km := true, count := true, sb := true }
  | 0x41 => some { fmts := fmts64, vd := true, va := true, count := true, lane := true, toS := true }
  | 0x42 => some { fmts := fmts64, vd := true, count := true, sb := true, lane := true }
  | 0x43 => some { fmts := [.binary64], vd := true, km := true, count := true, toS := true }
  | 0x44 => some { fmts := fmtsI, vd := true, km := true, count := true, sb := true, sat := true }
  | _ => none

/-- Results along an axis of a tile (05 R130). -/
def axisLen (fs : Fmt) (axis : Bool) : Nat := if axis && fs == .binary64 then 32 else 64

/-- 05 R115 for form VR; FMT of V.KCNT is unused and zero. A reduction whose RACC names an accumulator of the other kind
(R127), which R115 does not list, is refused as a form that breaks the opcode's own rules (DESIGN CHOICE,
notes/assumptions/45.md). -/
def VRForm.legal (op : Nat) (f : VRForm) : Bool :=
  match vrUse op, Fmt.ofCode f.fmt.toNat with
  | some u, some fs =>
    let n := countOf f.count
    fs ∈ u.fmts
    && (u.vd || f.vd == 0) && (u.va || f.va == 0) && (u.ta || (f.ta == 0 && !f.axis)) && (u.km || f.km == 0)
    && (u.count || f.count == 0) && (u.racc || f.racc == 0) && (u.clr || !f.clr) && (u.sb || f.sb == 0)
    && (u.lane || f.lane == 0) && (!f.sat || (u.sat && fs.isI)) && (!u.toS || f.vd.toNat < 32)
    && (!u.lane || f.lane.toNat < n)
    && (!u.racc || (decide (f.racc.toNat < 2) == fs.isB))
    && (!u.ta || n ≤ axisLen fs f.axis)
    && groupsLegal (if u.vd && !u.toS then some ⟨f.vd.toNat, fs.width, n⟩ else none)
        (if u.va then [⟨f.va.toNat, fs.width, n⟩] else [])
  | _, _ => false

/-! ### M slot -/

/-- Bytes of an element (03 *Element width table*); codes 5-7 are illegal. -/
def ewBytes (ew : BitVec 3) : Nat := 2 ^ ew.toNat

/-- Fields of a structure move (03 R70). -/
def nfFields (nf : BitVec 2) : Nat := nf.toNat + 2

/-- 03 R70, R72 for form MV. -/
def MVForm.legal (op : Nat) (f : MVForm) : Bool :=
  let g := grpSize f.grp
  let vec (fields : Nat) : Bool :=
    f.reg.toNat % g == 0 && f.reg.toNat + g * fields ≤ 64 && countOf f.count * (8 * ewBytes f.ew) ≤ 8192 * g
  f.ew.toNat < 5 &&
  match op with
  | 0x01 | 0x03 => f.ast == 0 && f.nf == 0 && vec 1
  | 0x02 | 0x04 => f.nf == 0 && vec 1
  | 0x05 | 0x06 => f.ast == 0 && f.nf != 3 && vec (nfFields f.nf)
  | 0x0C | 0x0D | 0x0E => f.ast == 0 && f.nf == 0 && f.reg.toNat < 32 && f.ew != 4
  | 0x10 | 0x11 => f.ast == 0 && f.nf == 0 && f.reg.toNat < 8
  | 0x14 => f.nf == 0 && f.reg.toNat < 16
  | _ => false

/-- Registers of the index group (03 R72). -/
def MGForm.indexGroup (f : MGForm) : GroupRef := ⟨f.vi.toNat, if f.iw then 64 else 32, countOf f.count⟩

/-- 03 R70, R72 for form MG. -/
def MGForm.legal (op : Nat) (f : MGForm) : Bool :=
  let g := grpSize f.grp
  f.ew.toNat < 5 && f.vd.toNat % g == 0 && f.vd.toNat + g ≤ 64
  && countOf f.count * (8 * ewBytes f.ew) ≤ 8192 * g && f.indexGroup.legal
  && (match op with
      | 0x08 | 0x09 => true
      | 0x0A | 0x0B => f.ew == 2 || f.ew == 3
      | _ => false)

/-- 11 R257: the legal combinations of AOP and TYPE. -/
def atomicLegal (aop : BitVec 3) (typ : BitVec 2) : Bool :=
  match typ.toNat with
  | 0 | 1 => aop.toNat < 5
  | 2 => aop == 0
  | _ => false

/-- 03 R70 and 11 R257 for form MF. -/
def MFForm.legal (op : Nat) (f : MFForm) : Bool :=
  match op with
  | 0x18 | 0x19 => f.aop == 0 && f.typ == 0 && f.sb == 0 && !f.discard
  | 0x1A => f.reg.toNat < 32 && atomicLegal f.aop f.typ && (f.aop != 4 || f.sb.toNat % 2 == 0)
  | 0x1B => f.reg.toNat < 32 && f.aop == 0 && f.typ == 0 && f.sb == 0 && !f.discard
  | _ => false

end Sys2Proof
end

