-- ==== Sys2Proof/WellFormed.lean ====
section
/-! DEFINITION. Which commands are well formed: a slot instruction obeys the form rules of 03 R57, 04 R97 and 05 R115;
every other command carries typed operands and is well formed as it stands. -/

namespace Sys2Proof

/-- The form check of each command. -/
def Instr.wellFormed (i : Instr) : Bool :=
  match i with
  | .cNop _ => true
  | .cAdd _ f => f.legal 0x01
  | .cSub _ f => f.legal 0x02
  | .cMul _ f => f.legal 0x03
  | .cAnd _ f => f.legal 0x04
  | .cOr _ f => f.legal 0x05
  | .cXor _ f => f.legal 0x06
  | .cShl _ f => f.legal 0x07
  | .cShr _ f => f.legal 0x08
  | .cSra _ f => f.legal 0x09
  | .cAddi _ f => f.legal 0x0A
  | .cLi _ f => f.legal 0x0B
  | .cLih _ f => f.legal 0x0C
  | .cCmp _ f => f.legal 0x0D
  | .cFadd _ f => f.legal 0x10
  | .cFsub _ f => f.legal 0x11
  | .cFmul _ f => f.legal 0x12
  | .cFfma _ f => f.legal 0x13
  | .cFdiv _ f => f.legal 0x14
  | .cFsqrt _ f => f.legal 0x15
  | .cFcmp _ f => f.legal 0x16
  | .cFmin _ f => f.legal 0x17
  | .cFmax _ f => f.legal 0x18
  | .cFcvti _ f => f.legal 0x19
  | .cIcvtf _ f => f.legal 0x1A
  | .cAadd _ f => f.legal 0x20
  | .cAaddi _ f => f.legal 0x21
  | .cAli _ f => f.legal 0x22
  | .cAlih _ f => f.legal 0x23
  | .cAaddl _ f => f.legal 0x24
  | .cAmovs _ f => f.legal 0x25
  | .cSmova _ f => f.legal 0x26
  | .cKset _ f => f.legal 0x28
  | .cKand _ f => f.legal 0x29
  | .cKor _ f => f.legal 0x2A
  | .cKxor _ f => f.legal 0x2B
  | .cKnot _ f => f.legal 0x2C
  | .cBr _ f => f.legal 0x30
  | .cBrc _ f => f.legal 0x31
  | .cLoop _ f => f.legal 0x32
  | .cWaitf _ f => f.legal 0x38
  | .cWaitdc _ f => f.legal 0x39
  | .cIssue _ f => f.legal 0x3A
  | .cHarv _ f => f.legal 0x3B
  | .cHalt _ f => f.legal 0x3C
  | .cSqrd _ f => f.legal 0x40
  | .cSqdraft _ f => f.legal 0x41
  | .cSqaccept _ f => f.legal 0x42
  | .cSqtrim _ f => f.legal 0x43
  | .cSqreset _ f => f.legal 0x44
  | .xNop _ => true
  | .xMma _ f => f.legal 0x01
  | .xZero _ f => f.legal 0x02
  | .xTmov _ f => f.legal 0x03
  | .xTrd _ f => f.legal 0x04
  | .xTwr _ f => f.legal 0x05
  | .vNop _ => true
  | .vAdd _ f => f.legal 0x01
  | .vSub _ f => f.legal 0x02
  | .vMul _ f => f.legal 0x03
  | .vFma _ f => f.legal 0x04
  | .vMin _ f => f.legal 0x05
  | .vMax _ f => f.legal 0x06
  | .vAbs _ f => f.legal 0x07
  | .vNeg _ f => f.legal 0x08
  | .vClamp _ f => f.legal 0x09
  | .vSel _ f => f.legal 0x0A
  | .vAnd _ f => f.legal 0x0B
  | .vOr _ f => f.legal 0x0C
  | .vXor _ f => f.legal 0x0D
  | .vShl _ f => f.legal 0x0E
  | .vShr _ f => f.legal 0x0F
  | .vSra _ f => f.legal 0x10
  | .vMov _ f => f.legal 0x11
  | .vCmp _ f => f.legal 0x12
  | .vQuant _ f => f.legal 0x13
  | .vDiv _ f => f.legal 0x18
  | .vSqrt _ f => f.legal 0x19
  | .vFn _ f => f.legal 0x1A
  | .vCvt _ f => f.legal 0x20
  | .vWupd _ f => f.legal 0x21
  | .vChain _ f => f.legal
  | .vRsum _ f => f.legal 0x38
  | .vRmin _ f => f.legal 0x39
  | .vRmax _ f => f.legal 0x3A
  | .vRrd _ f => f.legal 0x3B
  | .vTrsum _ f => f.legal 0x3C
  | .vTrmin _ f => f.legal 0x3D
  | .vTrmax _ f => f.legal 0x3E
  | .vBcst _ f => f.legal 0x40
  | .vExt _ f => f.legal 0x41
  | .vIns _ f => f.legal 0x42
  | .vKcnt _ f => f.legal 0x43
  | .vIota _ f => f.legal 0x44
  | .mNop _ => true
  | .mLdv _ f => f.legal 0x01
  | .mLdvs _ f => f.legal 0x02
  | .mStv _ f => f.legal 0x03
  | .mStvs _ f => f.legal 0x04
  | .mLdf _ f => f.legal 0x05
  | .mStf _ f => f.legal 0x06
  | .mGath _ f => f.legal 0x08
  | .mScat _ f => f.legal 0x09
  | .mScadd _ f => f.legal 0x0A
  | .mScaddu _ f => f.legal 0x0B
  | .mLdx _ f => f.legal 0x0C
  | .mStx _ f => f.legal 0x0D
  | .mFlagl _ f => f.legal 0x0E
  | .mTld _ f => f.legal 0x10
  | .mTst _ f => f.legal 0x11
  | .mCopy _ f => f.legal 0x14
  | .mFld _ f => f.legal 0x18
  | .mFst _ f => f.legal 0x19
  | .mFatom _ f => f.legal 0x1A
  | .mFflag _ f => f.legal 0x1B
  | .mFence _ => true
  | .mLfence _ => true
  | .runaheadLoad _ => true
  | .moveComplete _ _ _ _ => true
  | .copyComplete _ _ _ _ => true
  | .cartDescEnd _ _ _ _ => true
  | .reckSolveEnd _ _ _ _ _ => true
  | .collectiveEnd _ _ _ => true
  | .chunkFrameReceive _ _ _ => true
  | .voteReceive _ _ _ _ => true
  | .harvestResult _ _ _ _ => true
  | .attemptReopen _ => true
  | .stepTimeout _ => true
  | .slotOpen _ => true
  | .slotRelease _ _ _ => true
  | .enqueue _ _ _ => true
  | .heartbeat _ => true
  | .hello _ _ _ _ => true
  | .keyExchange _ _ _ => true
  | .closeSession _ => true
  | .bulkBegin _ _ _ _ _ => true
  | .bulkData _ _ _ => true
  | .bulkEnd _ => true
  | .unload _ _ => true
  | .planDrainEnd _ => true
  | .readStatus _ _ _ => true
  | .attnRead _ _ => true
  | .quote _ _ _ => true
  | .journalRead _ _ _ => true
  | .journalAck _ _ => true
  | .checkpoint _ => true
  | .extend _ _ _ => true
  | .setCap _ _ => true
  | .restart _ => true
  | .restartDrainEnd => true
  | .jobStart _ _ _ _ => true
  | .jobStop _ _ => true
  | .plough _ _ _ _ => true
  | .ploughDone _ _ => true
  | .registerWrite _ _ _ => true
  | .counterSelect _ _ _ _ _ _ => true
  | .counterRead _ _ => true
  | .counterClear _ _ _ _ => true
  | .freeze _ _ => true
  | .freezeLatch => true
  | .snapshotRead _ _ _ => true
  | .bwWindow _ _ => true
  | .bwWindowBoundary => true
  | .bwRead _ _ _ _ => true
  | .topdownRead _ _ _ => true
  | .telemetry _ => true
  | .tallyRead _ _ _ _ _ => true
  | .getState _ => true
  | .mgmtTelemetry _ _ => true
  | .getCap _ => true
  | .mgmtSetCap _ _ => true
  | .mgmtRestart _ _ => true
  | .claimPermit _ => true
  | .stageBegin _ _ _ => true
  | .stageData _ _ _ => true
  | .stageEnd _ => true
  | .joinMsg _ _ _ _ _ _ => true
  | .joinAck _ _ _ _ => true
  | .autostartJoinWait => true
  | .reeveBeat => true
  | .standbyTakeover _ _ _ _ => true
  | .reeveTakeover _ => true
  | .install _ _ _ _ _ _ _ _ _ => true
  | .installed _ _ => true
  | .arm _ _ _ => true
  | .armAnswer _ _ _ _ _ _ => true
  | .goMsg _ _ => true
  | .goDeadline _ => true
  | .launch _ => true
  | .launched _ _ _ => true
  | .disarm _ _ => true
  | .armedTimeout _ => true
  | .launchReportDeadline _ => true
  | .jobFault _ _ _ => true
  | .teardown _ _ => true
  | .teardownDrainEnd _ => true
  | .teardownWipeEnd _ => true
  | .teardownDone _ _ => true
  | .routeRemove _ => true
  | .routeRemoved _ _ => true
  | .jobIdFree _ => true
  | .controlResend => true
  | .twinTally _ _ _ _ _ => true
  | .twinStop _ _ => true
  | .twinPeerLost _ _ => true
  | .planFetch _ _ => true
  | .weightFetch _ _ => true
  | .fetchData _ _ _ => true
  | .fetchEnd _ _ _ => true
  | .fetchRefused _ _ => true
  | .fetchTimeout => true
  | .frameRoute _ _ => true
  | .farRequest _ _ _ => true
  | .continueFrame _ _ _ => true
  | .continueTimeout => true
  | .farReply _ => true
  | .farResend _ _ => true
  | .targetLost _ _ => true
  | .replayCacheFree _ _ _ => true
  | .timeFrame _ _ => true
  | .timeSend _ => true
  | .idle _ => true
  | .linkAckTimeout _ => true
  | .portTrain _ _ => true
  | .portRetrain _ _ => true
  | .portWidenAttempt _ => true
  | .hostLinkTrain _ => true
  | .hostLinkDown _ => true
  | .sessionIdleTimeout _ => true
  | .patrolRead _ _ => true
  | .sramPatrol _ _ _ _ => true
  | .mapOutFillEnd _ => true
  | .zeroFillEnd _ => true
  | .stackTempRead _ _ => true
  | .coreFence _ _ => true
  | .handshakeStall _ => true
  | .spareSelfTest _ _ => true
  | .substitutionCopyEnd _ _ => true
  | .routerStall => true
  | .packageFault => true
  | .correctedSummary => true
  | .refusalSummary => true
  | .dropSummary => true
  | .healthWrite _ => true
  | .inputValid _ => true
  | .seal => true
  | .inputDip _ => true
  | .inputLoss _ => true
  | .inputSurge _ _ => true
  | .inputOvercurrent _ => true
  | .inputReversed => true
  | .powerManagerTick _ => true
  | .railShort _ _ _ => true
  | .senseOpen _ => true
  | .thermalReading _ _ => true
  | .referenceMissing => true
  | .extest => true
  | .idcode => true
  | .samplePreload => true
  | .clamp => true
  | .highz => true
  | .extestPulse => true
  | .extestTrain => true
  | .readStart => true
  | .vendorDebug _ => true
  | .bypass => true
  | .referenceRestored _ => true
  | .shutdownAckTimeout => true

end Sys2Proof
end

