-- ==== Sys2Proof/Decode.lean ====
section
/-! DEFINITION. Decoding. The command table gives no row bits, so `decodeTableWord` spells none. The specification does
give the encodings of the slot instructions that a bundle holds (03 R55, R67, R70; 04 R93; 05 R112): `decodeSlot`
reads one 64-bit slot word, `encode` writes it, and the plan-load check of a core program (03 R57) is made with
them. -/

namespace Sys2Proof

/-- The command that a table word spells: no row of the table gives bits (notes/assumptions/16.md). -/
def decodeTableWord (_nbits _w : Nat) : Option Instr := none

/-- The four slots of a bundle (03 R55). -/
inductive Slot where
  | c | x | v | m
  deriving DecidableEq, Repr

/-- Bits [63:56] of every slot hold the opcode (03 R55). -/
def slotOpcode (w : BitVec 64) : Nat := (w.extractLsb' 56 8).toNat
/-- A word with an opcode and no field set. -/
def slotWord (op : BitVec 8) : BitVec 64 := op ++ (0 : BitVec 56)

def bit (w : BitVec 64) (i : Nat) : Bool := w.getLsbD i

/-- 03 R67. -/
def CForm.toWord (op : BitVec 8) (f : CForm) : BitVec 64 :=
  op ++ f.d ++ f.a ++ f.b ++ BitVec.ofBool f.sat ++ f.cond ++ BitVec.ofBool f.useS ++ f.unit ++ (0 : BitVec 2) ++ f.imm

def CForm.ofWord (w : BitVec 64) : CForm where
  d := w.extractLsb' 51 5
  a := w.extractLsb' 46 5
  b := w.extractLsb' 41 5
  sat := bit w 40
  cond := w.extractLsb' 37 3
  useS := bit w 36
  unit := w.extractLsb' 34 2
  imm := w.extractLsb' 0 32

/-- 04 R93. -/
def XForm.toWord (op : BitVec 8) (f : XForm) : BitVec 64 :=
  op ++ f.td ++ f.ta ++ f.tb ++ f.pair ++ BitVec.ofBool f.sat ++ BitVec.ofBool f.acc ++ f.kseg ++ f.vsa ++ f.vsb
    ++ f.vr ++ f.row ++ f.grp ++ (0 : BitVec 11)

def XForm.ofWord (w : BitVec 64) : XForm where
  td := w.extractLsb' 53 3
  ta := w.extractLsb' 50 3
  tb := w.extractLsb' 47 3
  pair := w.extractLsb' 42 5
  sat := bit w 41
  acc := bit w 40
  kseg := w.extractLsb' 37 3
  vsa := w.extractLsb' 31 6
  vsb := w.extractLsb' 25 6
  vr := w.extractLsb' 19 6
  row := w.extractLsb' 13 6
  grp := w.extractLsb' 11 2

/-- 05 R112, form VE. -/
def VEForm.toWord (op : BitVec 8) (f : VEForm) : BitVec 64 :=
  op ++ f.vd ++ f.va ++ f.vb ++ f.vc ++ f.km ++ f.fmt ++ f.fmtd ++ f.count ++ BitVec.ofBool f.sat
    ++ BitVec.ofBool f.sb ++ f.aux ++ (0 : BitVec 2)

def VEForm.ofWord (w : BitVec 64) : VEForm where
  vd := w.extractLsb' 50 6
  va := w.extractLsb' 44 6
  vb := w.extractLsb' 38 6
  vc := w.extractLsb' 32 6
  km := w.extractLsb' 29 3
  fmt := w.extractLsb' 25 4
  fmtd := w.extractLsb' 21 4
  count := w.extractLsb' 9 12
  sat := bit w 8
  sb := bit w 7
  aux := w.extractLsb' 2 5

/-- 05 R112, form VC. -/
def VCForm.toWord (op : BitVec 8) (f : VCForm) : BitVec 64 :=
  op ++ f.vd ++ f.i0 ++ f.i1 ++ f.i2 ++ f.i3 ++ f.km ++ f.count ++ f.chain ++ BitVec.ofBool f.red ++ f.racc
    ++ BitVec.ofBool f.nowr ++ (0 : BitVec 2)

def VCForm.ofWord (w : BitVec 64) : VCForm where
  vd := w.extractLsb' 50 6
  i0 := w.extractLsb' 44 6
  i1 := w.extractLsb' 38 6
  i2 := w.extractLsb' 32 6
  i3 := w.extractLsb' 26 6
  km := w.extractLsb' 23 3
  count := w.extractLsb' 11 12
  chain := w.extractLsb' 6 5
  red := bit w 5
  racc := w.extractLsb' 3 2
  nowr := bit w 2

/-- 05 R112, form VR. -/
def VRForm.toWord (op : BitVec 8) (f : VRForm) : BitVec 64 :=
  op ++ f.vd ++ f.va ++ f.ta ++ BitVec.ofBool f.axis ++ f.km ++ f.fmt ++ f.count ++ f.racc ++ BitVec.ofBool f.clr
    ++ f.sb ++ f.lane ++ BitVec.ofBool f.sat

def VRForm.ofWord (w : BitVec 64) : VRForm where
  vd := w.extractLsb' 50 6
  va := w.extractLsb' 44 6
  ta := w.extractLsb' 41 3
  axis := bit w 40
  km := w.extractLsb' 37 3
  fmt := w.extractLsb' 33 4
  count := w.extractLsb' 21 12
  racc := w.extractLsb' 19 2
  clr := bit w 18
  sb := w.extractLsb' 13 5
  lane := w.extractLsb' 1 12
  sat := bit w 0

/-- 03 R70, form MV. -/
def MVForm.toWord (op : BitVec 8) (f : MVForm) : BitVec 64 :=
  op ++ f.reg ++ f.ab ++ f.ast ++ f.km ++ f.ew ++ f.grp ++ f.nf ++ f.count ++ f.offs

def MVForm.ofWord (w : BitVec 64) : MVForm where
  reg := w.extractLsb' 50 6
  ab := w.extractLsb' 46 4
  ast := w.extractLsb' 42 4
  km := w.extractLsb' 39 3
  ew := w.extractLsb' 36 3
  grp := w.extractLsb' 34 2
  nf := w.extractLsb' 32 2
  count := w.extractLsb' 20 12
  offs := w.extractLsb' 0 20

/-- 03 R70, form MG. -/
def MGForm.toWord (op : BitVec 8) (f : MGForm) : BitVec 64 :=
  op ++ f.vd ++ f.vi ++ f.ab ++ f.km ++ f.ew ++ f.grp ++ BitVec.ofBool f.iw ++ f.count ++ f.shift ++ (0 : BitVec 16)

def MGForm.ofWord (w : BitVec 64) : MGForm where
  vd := w.extractLsb' 50 6
  vi := w.extractLsb' 44 6
  ab := w.extractLsb' 40 4
  km := w.extractLsb' 37 3
  ew := w.extractLsb' 34 3
  grp := w.extractLsb' 32 2
  iw := bit w 31
  count := w.extractLsb' 19 12
  shift := w.extractLsb' 16 3

/-- 03 R70, form MF. -/
def MFForm.toWord (op : BitVec 8) (f : MFForm) : BitVec 64 :=
  op ++ f.reg ++ f.ab ++ f.fh ++ f.aop ++ f.typ ++ f.sb ++ BitVec.ofBool f.discard ++ f.len ++ f.offs

def MFForm.ofWord (w : BitVec 64) : MFForm where
  reg := w.extractLsb' 50 6
  ab := w.extractLsb' 46 4
  fh := w.extractLsb' 40 6
  aop := w.extractLsb' 37 3
  typ := w.extractLsb' 35 2
  sb := w.extractLsb' 30 5
  discard := bit w 29
  len := w.extractLsb' 21 8
  offs := w.extractLsb' 0 21


/-- The instruction that a word names by its opcode alone, in the C slot (03 R67, R68). -/
def slotCByOpcode (c : CoreId) (w : BitVec 64) : Option Instr :=
  match slotOpcode w with
  | 0x00 => some (.cNop c)
  | 0x01 => some (.cAdd c (CForm.ofWord w))
  | 0x02 => some (.cSub c (CForm.ofWord w))
  | 0x03 => some (.cMul c (CForm.ofWord w))
  | 0x04 => some (.cAnd c (CForm.ofWord w))
  | 0x05 => some (.cOr c (CForm.ofWord w))
  | 0x06 => some (.cXor c (CForm.ofWord w))
  | 0x07 => some (.cShl c (CForm.ofWord w))
  | 0x08 => some (.cShr c (CForm.ofWord w))
  | 0x09 => some (.cSra c (CForm.ofWord w))
  | 0x0A => some (.cAddi c (CForm.ofWord w))
  | 0x0B => some (.cLi c (CForm.ofWord w))
  | 0x0C => some (.cLih c (CForm.ofWord w))
  | 0x0D => some (.cCmp c (CForm.ofWord w))
  | 0x10 => some (.cFadd c (CForm.ofWord w))
  | 0x11 => some (.cFsub c (CForm.ofWord w))
  | 0x12 => some (.cFmul c (CForm.ofWord w))
  | 0x13 => some (.cFfma c (CForm.ofWord w))
  | 0x14 => some (.cFdiv c (CForm.ofWord w))
  | 0x15 => some (.cFsqrt c (CForm.ofWord w))
  | 0x16 => some (.cFcmp c (CForm.ofWord w))
  | 0x17 => some (.cFmin c (CForm.ofWord w))
  | 0x18 => some (.cFmax c (CForm.ofWord w))
  | 0x19 => some (.cFcvti c (CForm.ofWord w))
  | 0x1A => some (.cIcvtf c (CForm.ofWord w))
  | 0x20 => some (.cAadd c (CForm.ofWord w))
  | 0x21 => some (.cAaddi c (CForm.ofWord w))
  | 0x22 => some (.cAli c (CForm.ofWord w))
  | 0x23 => some (.cAlih c (CForm.ofWord w))
  | 0x24 => some (.cAaddl c (CForm.ofWord w))
  | 0x25 => some (.cAmovs c (CForm.ofWord w))
  | 0x26 => some (.cSmova c (CForm.ofWord w))
  | 0x28 => some (.cKset c (CForm.ofWord w))
  | 0x29 => some (.cKand c (CForm.ofWord w))
  | 0x2A => some (.cKor c (CForm.ofWord w))
  | 0x2B => some (.cKxor c (CForm.ofWord w))
  | 0x2C => some (.cKnot c (CForm.ofWord w))
  | 0x30 => some (.cBr c (CForm.ofWord w))
  | 0x31 => some (.cBrc c (CForm.ofWord w))
  | 0x32 => some (.cLoop c (CForm.ofWord w))
  | 0x38 => some (.cWaitf c (CForm.ofWord w))
  | 0x39 => some (.cWaitdc c (CForm.ofWord w))
  | 0x3A => some (.cIssue c (CForm.ofWord w))
  | 0x3B => some (.cHarv c (CForm.ofWord w))
  | 0x3C => some (.cHalt c (CForm.ofWord w))
  | 0x40 => some (.cSqrd c (CForm.ofWord w))
  | 0x41 => some (.cSqdraft c (CForm.ofWord w))
  | 0x42 => some (.cSqaccept c (CForm.ofWord w))
  | 0x43 => some (.cSqtrim c (CForm.ofWord w))
  | 0x44 => some (.cSqreset c (CForm.ofWord w))
  | _ => none

/-- The instruction that a word names by its opcode alone, in the X slot (04 R93, R94). -/
def slotXByOpcode (c : CoreId) (w : BitVec 64) : Option Instr :=
  match slotOpcode w with
  | 0x00 => some (.xNop c)
  | 0x01 => some (.xMma c (XForm.ofWord w))
  | 0x02 => some (.xZero c (XForm.ofWord w))
  | 0x03 => some (.xTmov c (XForm.ofWord w))
  | 0x04 => some (.xTrd c (XForm.ofWord w))
  | 0x05 => some (.xTwr c (XForm.ofWord w))
  | _ => none

/-- The instruction that a word names by its opcode alone, in the V slot (05 R112, R113). -/
def slotVByOpcode (c : CoreId) (w : BitVec 64) : Option Instr :=
  match slotOpcode w with
  | 0x00 => some (.vNop c)
  | 0x01 => some (.vAdd c (VEForm.ofWord w))
  | 0x02 => some (.vSub c (VEForm.ofWord w))
  | 0x03 => some (.vMul c (VEForm.ofWord w))
  | 0x04 => some (.vFma c (VEForm.ofWord w))
  | 0x05 => some (.vMin c (VEForm.ofWord w))
  | 0x06 => some (.vMax c (VEForm.ofWord w))
  | 0x07 => some (.vAbs c (VEForm.ofWord w))
  | 0x08 => some (.vNeg c (VEForm.ofWord w))
  | 0x09 => some (.vClamp c (VEForm.ofWord w))
  | 0x0A => some (.vSel c (VEForm.ofWord w))
  | 0x0B => some (.vAnd c (VEForm.ofWord w))
  | 0x0C => some (.vOr c (VEForm.ofWord w))
  | 0x0D => some (.vXor c (VEForm.ofWord w))
  | 0x0E => some (.vShl c (VEForm.ofWord w))
  | 0x0F => some (.vShr c (VEForm.ofWord w))
  | 0x10 => some (.vSra c (VEForm.ofWord w))
  | 0x11 => some (.vMov c (VEForm.ofWord w))
  | 0x12 => some (.vCmp c (VEForm.ofWord w))
  | 0x13 => some (.vQuant c (VEForm.ofWord w))
  | 0x18 => some (.vDiv c (VEForm.ofWord w))
  | 0x19 => some (.vSqrt c (VEForm.ofWord w))
  | 0x1A => some (.vFn c (VEForm.ofWord w))
  | 0x20 => some (.vCvt c (VEForm.ofWord w))
  | 0x21 => some (.vWupd c (VEForm.ofWord w))
  | 0x30 => some (.vChain c (VCForm.ofWord w))
  | 0x38 => some (.vRsum c (VRForm.ofWord w))
  | 0x39 => some (.vRmin c (VRForm.ofWord w))
  | 0x3A => some (.vRmax c (VRForm.ofWord w))
  | 0x3B => some (.vRrd c (VRForm.ofWord w))
  | 0x3C => some (.vTrsum c (VRForm.ofWord w))
  | 0x3D => some (.vTrmin c (VRForm.ofWord w))
  | 0x3E => some (.vTrmax c (VRForm.ofWord w))
  | 0x40 => some (.vBcst c (VRForm.ofWord w))
  | 0x41 => some (.vExt c (VRForm.ofWord w))
  | 0x42 => some (.vIns c (VRForm.ofWord w))
  | 0x43 => some (.vKcnt c (VRForm.ofWord w))
  | 0x44 => some (.vIota c (VRForm.ofWord w))
  | _ => none

/-- The instruction that a word names by its opcode alone, in the M slot (03 R70, R71). -/
def slotMByOpcode (c : CoreId) (w : BitVec 64) : Option Instr :=
  match slotOpcode w with
  | 0x00 => some (.mNop c)
  | 0x01 => some (.mLdv c (MVForm.ofWord w))
  | 0x02 => some (.mLdvs c (MVForm.ofWord w))
  | 0x03 => some (.mStv c (MVForm.ofWord w))
  | 0x04 => some (.mStvs c (MVForm.ofWord w))
  | 0x05 => some (.mLdf c (MVForm.ofWord w))
  | 0x06 => some (.mStf c (MVForm.ofWord w))
  | 0x08 => some (.mGath c (MGForm.ofWord w))
  | 0x09 => some (.mScat c (MGForm.ofWord w))
  | 0x0A => some (.mScadd c (MGForm.ofWord w))
  | 0x0B => some (.mScaddu c (MGForm.ofWord w))
  | 0x0C => some (.mLdx c (MVForm.ofWord w))
  | 0x0D => some (.mStx c (MVForm.ofWord w))
  | 0x0E => some (.mFlagl c (MVForm.ofWord w))
  | 0x10 => some (.mTld c (MVForm.ofWord w))
  | 0x11 => some (.mTst c (MVForm.ofWord w))
  | 0x14 => some (.mCopy c (MVForm.ofWord w))
  | 0x18 => some (.mFld c (MFForm.ofWord w))
  | 0x19 => some (.mFst c (MFForm.ofWord w))
  | 0x1A => some (.mFatom c (MFForm.ofWord w))
  | 0x1B => some (.mFflag c (MFForm.ofWord w))
  | 0x1C => some (.mFence c)
  | 0x1F => some (.mLfence c)
  | _ => none

/-- The word of a slot instruction: none for the commands that are not slot instructions. -/
def encode (i : Instr) : Option (BitVec 64) :=
  match i with
  | .cNop _ => some (slotWord 0x00)
  | .cAdd _ f => some (f.toWord 0x01)
  | .cSub _ f => some (f.toWord 0x02)
  | .cMul _ f => some (f.toWord 0x03)
  | .cAnd _ f => some (f.toWord 0x04)
  | .cOr _ f => some (f.toWord 0x05)
  | .cXor _ f => some (f.toWord 0x06)
  | .cShl _ f => some (f.toWord 0x07)
  | .cShr _ f => some (f.toWord 0x08)
  | .cSra _ f => some (f.toWord 0x09)
  | .cAddi _ f => some (f.toWord 0x0A)
  | .cLi _ f => some (f.toWord 0x0B)
  | .cLih _ f => some (f.toWord 0x0C)
  | .cCmp _ f => some (f.toWord 0x0D)
  | .cFadd _ f => some (f.toWord 0x10)
  | .cFsub _ f => some (f.toWord 0x11)
  | .cFmul _ f => some (f.toWord 0x12)
  | .cFfma _ f => some (f.toWord 0x13)
  | .cFdiv _ f => some (f.toWord 0x14)
  | .cFsqrt _ f => some (f.toWord 0x15)
  | .cFcmp _ f => some (f.toWord 0x16)
  | .cFmin _ f => some (f.toWord 0x17)
  | .cFmax _ f => some (f.toWord 0x18)
  | .cFcvti _ f => some (f.toWord 0x19)
  | .cIcvtf _ f => some (f.toWord 0x1A)
  | .cAadd _ f => some (f.toWord 0x20)
  | .cAaddi _ f => some (f.toWord 0x21)
  | .cAli _ f => some (f.toWord 0x22)
  | .cAlih _ f => some (f.toWord 0x23)
  | .cAaddl _ f => some (f.toWord 0x24)
  | .cAmovs _ f => some (f.toWord 0x25)
  | .cSmova _ f => some (f.toWord 0x26)
  | .cKset _ f => some (f.toWord 0x28)
  | .cKand _ f => some (f.toWord 0x29)
  | .cKor _ f => some (f.toWord 0x2A)
  | .cKxor _ f => some (f.toWord 0x2B)
  | .cKnot _ f => some (f.toWord 0x2C)
  | .cBr _ f => some (f.toWord 0x30)
  | .cBrc _ f => some (f.toWord 0x31)
  | .cLoop _ f => some (f.toWord 0x32)
  | .cWaitf _ f => some (f.toWord 0x38)
  | .cWaitdc _ f => some (f.toWord 0x39)
  | .cIssue _ f => some (f.toWord 0x3A)
  | .cHarv _ f => some (f.toWord 0x3B)
  | .cHalt _ f => some (f.toWord 0x3C)
  | .cSqrd _ f => some (f.toWord 0x40)
  | .cSqdraft _ f => some (f.toWord 0x41)
  | .cSqaccept _ f => some (f.toWord 0x42)
  | .cSqtrim _ f => some (f.toWord 0x43)
  | .cSqreset _ f => some (f.toWord 0x44)
  | .xNop _ => some (slotWord 0x00)
  | .xMma _ f => some (f.toWord 0x01)
  | .xZero _ f => some (f.toWord 0x02)
  | .xTmov _ f => some (f.toWord 0x03)
  | .xTrd _ f => some (f.toWord 0x04)
  | .xTwr _ f => some (f.toWord 0x05)
  | .vNop _ => some (slotWord 0x00)
  | .vAdd _ f => some (f.toWord 0x01)
  | .vSub _ f => some (f.toWord 0x02)
  | .vMul _ f => some (f.toWord 0x03)
  | .vFma _ f => some (f.toWord 0x04)
  | .vMin _ f => some (f.toWord 0x05)
  | .vMax _ f => some (f.toWord 0x06)
  | .vAbs _ f => some (f.toWord 0x07)
  | .vNeg _ f => some (f.toWord 0x08)
  | .vClamp _ f => some (f.toWord 0x09)
  | .vSel _ f => some (f.toWord 0x0A)
  | .vAnd _ f => some (f.toWord 0x0B)
  | .vOr _ f => some (f.toWord 0x0C)
  | .vXor _ f => some (f.toWord 0x0D)
  | .vShl _ f => some (f.toWord 0x0E)
  | .vShr _ f => some (f.toWord 0x0F)
  | .vSra _ f => some (f.toWord 0x10)
  | .vMov _ f => some (f.toWord 0x11)
  | .vCmp _ f => some (f.toWord 0x12)
  | .vQuant _ f => some (f.toWord 0x13)
  | .vDiv _ f => some (f.toWord 0x18)
  | .vSqrt _ f => some (f.toWord 0x19)
  | .vFn _ f => some (f.toWord 0x1A)
  | .vCvt _ f => some (f.toWord 0x20)
  | .vWupd _ f => some (f.toWord 0x21)
  | .vChain _ f => some (f.toWord 0x30)
  | .vRsum _ f => some (f.toWord 0x38)
  | .vRmin _ f => some (f.toWord 0x39)
  | .vRmax _ f => some (f.toWord 0x3A)
  | .vRrd _ f => some (f.toWord 0x3B)
  | .vTrsum _ f => some (f.toWord 0x3C)
  | .vTrmin _ f => some (f.toWord 0x3D)
  | .vTrmax _ f => some (f.toWord 0x3E)
  | .vBcst _ f => some (f.toWord 0x40)
  | .vExt _ f => some (f.toWord 0x41)
  | .vIns _ f => some (f.toWord 0x42)
  | .vKcnt _ f => some (f.toWord 0x43)
  | .vIota _ f => some (f.toWord 0x44)
  | .mNop _ => some (slotWord 0x00)
  | .mLdv _ f => some (f.toWord 0x01)
  | .mLdvs _ f => some (f.toWord 0x02)
  | .mStv _ f => some (f.toWord 0x03)
  | .mStvs _ f => some (f.toWord 0x04)
  | .mLdf _ f => some (f.toWord 0x05)
  | .mStf _ f => some (f.toWord 0x06)
  | .mGath _ f => some (f.toWord 0x08)
  | .mScat _ f => some (f.toWord 0x09)
  | .mScadd _ f => some (f.toWord 0x0A)
  | .mScaddu _ f => some (f.toWord 0x0B)
  | .mLdx _ f => some (f.toWord 0x0C)
  | .mStx _ f => some (f.toWord 0x0D)
  | .mFlagl _ f => some (f.toWord 0x0E)
  | .mTld _ f => some (f.toWord 0x10)
  | .mTst _ f => some (f.toWord 0x11)
  | .mCopy _ f => some (f.toWord 0x14)
  | .mFld _ f => some (f.toWord 0x18)
  | .mFst _ f => some (f.toWord 0x19)
  | .mFatom _ f => some (f.toWord 0x1A)
  | .mFflag _ f => some (f.toWord 0x1B)
  | .mFence _ => some (slotWord 0x1C)
  | .mLfence _ => some (slotWord 0x1F)
  | .runaheadLoad _ => none
  | .moveComplete _ _ _ _ => none
  | .copyComplete _ _ _ _ => none
  | .cartDescEnd _ _ _ _ => none
  | .reckSolveEnd _ _ _ _ _ => none
  | .collectiveEnd _ _ _ => none
  | .chunkFrameReceive _ _ _ => none
  | .voteReceive _ _ _ _ => none
  | .harvestResult _ _ _ _ => none
  | .attemptReopen _ => none
  | .stepTimeout _ => none
  | .slotOpen _ => none
  | .slotRelease _ _ _ => none
  | .enqueue _ _ _ => none
  | .heartbeat _ => none
  | .hello _ _ _ _ => none
  | .keyExchange _ _ _ => none
  | .closeSession _ => none
  | .bulkBegin _ _ _ _ _ => none
  | .bulkData _ _ _ => none
  | .bulkEnd _ => none
  | .unload _ _ => none
  | .planDrainEnd _ => none
  | .readStatus _ _ _ => none
  | .attnRead _ _ => none
  | .quote _ _ _ => none
  | .journalRead _ _ _ => none
  | .journalAck _ _ => none
  | .checkpoint _ => none
  | .extend _ _ _ => none
  | .setCap _ _ => none
  | .restart _ => none
  | .restartDrainEnd => none
  | .jobStart _ _ _ _ => none
  | .jobStop _ _ => none
  | .plough _ _ _ _ => none
  | .ploughDone _ _ => none
  | .registerWrite _ _ _ => none
  | .counterSelect _ _ _ _ _ _ => none
  | .counterRead _ _ => none
  | .counterClear _ _ _ _ => none
  | .freeze _ _ => none
  | .freezeLatch => none
  | .snapshotRead _ _ _ => none
  | .bwWindow _ _ => none
  | .bwWindowBoundary => none
  | .bwRead _ _ _ _ => none
  | .topdownRead _ _ _ => none
  | .telemetry _ => none
  | .tallyRead _ _ _ _ _ => none
  | .getState _ => none
  | .mgmtTelemetry _ _ => none
  | .getCap _ => none
  | .mgmtSetCap _ _ => none
  | .mgmtRestart _ _ => none
  | .claimPermit _ => none
  | .stageBegin _ _ _ => none
  | .stageData _ _ _ => none
  | .stageEnd _ => none
  | .joinMsg _ _ _ _ _ _ => none
  | .joinAck _ _ _ _ => none
  | .autostartJoinWait => none
  | .reeveBeat => none
  | .standbyTakeover _ _ _ _ => none
  | .reeveTakeover _ => none
  | .install _ _ _ _ _ _ _ _ _ => none
  | .installed _ _ => none
  | .arm _ _ _ => none
  | .armAnswer _ _ _ _ _ _ => none
  | .goMsg _ _ => none
  | .goDeadline _ => none
  | .launch _ => none
  | .launched _ _ _ => none
  | .disarm _ _ => none
  | .armedTimeout _ => none
  | .launchReportDeadline _ => none
  | .jobFault _ _ _ => none
  | .teardown _ _ => none
  | .teardownDrainEnd _ => none
  | .teardownWipeEnd _ => none
  | .teardownDone _ _ => none
  | .routeRemove _ => none
  | .routeRemoved _ _ => none
  | .jobIdFree _ => none
  | .controlResend => none
  | .twinTally _ _ _ _ _ => none
  | .twinStop _ _ => none
  | .twinPeerLost _ _ => none
  | .planFetch _ _ => none
  | .weightFetch _ _ => none
  | .fetchData _ _ _ => none
  | .fetchEnd _ _ _ => none
  | .fetchRefused _ _ => none
  | .fetchTimeout => none
  | .frameRoute _ _ => none
  | .farRequest _ _ _ => none
  | .continueFrame _ _ _ => none
  | .continueTimeout => none
  | .farReply _ => none
  | .farResend _ _ => none
  | .targetLost _ _ => none
  | .replayCacheFree _ _ _ => none
  | .timeFrame _ _ => none
  | .timeSend _ => none
  | .idle _ => none
  | .linkAckTimeout _ => none
  | .portTrain _ _ => none
  | .portRetrain _ _ => none
  | .portWidenAttempt _ => none
  | .hostLinkTrain _ => none
  | .hostLinkDown _ => none
  | .sessionIdleTimeout _ => none
  | .patrolRead _ _ => none
  | .sramPatrol _ _ _ _ => none
  | .mapOutFillEnd _ => none
  | .zeroFillEnd _ => none
  | .stackTempRead _ _ => none
  | .coreFence _ _ => none
  | .handshakeStall _ => none
  | .spareSelfTest _ _ => none
  | .substitutionCopyEnd _ _ => none
  | .routerStall => none
  | .packageFault => none
  | .correctedSummary => none
  | .refusalSummary => none
  | .dropSummary => none
  | .healthWrite _ => none
  | .inputValid _ => none
  | .seal => none
  | .inputDip _ => none
  | .inputLoss _ => none
  | .inputSurge _ _ => none
  | .inputOvercurrent _ => none
  | .inputReversed => none
  | .powerManagerTick _ => none
  | .railShort _ _ _ => none
  | .senseOpen _ => none
  | .thermalReading _ _ => none
  | .referenceMissing => none
  | .extest => none
  | .idcode => none
  | .samplePreload => none
  | .clamp => none
  | .highz => none
  | .extestPulse => none
  | .extestTrain => none
  | .readStart => none
  | .vendorDebug _ => none
  | .bypass => none
  | .referenceRestored _ => none
  | .shutdownAckTimeout => none

/-- The slot a slot instruction belongs to; none for the other commands. -/
def slotOf (i : Instr) : Option Slot :=
  match i with
  | .cNop _ => some .c
  | .cAdd _ _ => some .c
  | .cSub _ _ => some .c
  | .cMul _ _ => some .c
  | .cAnd _ _ => some .c
  | .cOr _ _ => some .c
  | .cXor _ _ => some .c
  | .cShl _ _ => some .c
  | .cShr _ _ => some .c
  | .cSra _ _ => some .c
  | .cAddi _ _ => some .c
  | .cLi _ _ => some .c
  | .cLih _ _ => some .c
  | .cCmp _ _ => some .c
  | .cFadd _ _ => some .c
  | .cFsub _ _ => some .c
  | .cFmul _ _ => some .c
  | .cFfma _ _ => some .c
  | .cFdiv _ _ => some .c
  | .cFsqrt _ _ => some .c
  | .cFcmp _ _ => some .c
  | .cFmin _ _ => some .c
  | .cFmax _ _ => some .c
  | .cFcvti _ _ => some .c
  | .cIcvtf _ _ => some .c
  | .cAadd _ _ => some .c
  | .cAaddi _ _ => some .c
  | .cAli _ _ => some .c
  | .cAlih _ _ => some .c
  | .cAaddl _ _ => some .c
  | .cAmovs _ _ => some .c
  | .cSmova _ _ => some .c
  | .cKset _ _ => some .c
  | .cKand _ _ => some .c
  | .cKor _ _ => some .c
  | .cKxor _ _ => some .c
  | .cKnot _ _ => some .c
  | .cBr _ _ => some .c
  | .cBrc _ _ => some .c
  | .cLoop _ _ => some .c
  | .cWaitf _ _ => some .c
  | .cWaitdc _ _ => some .c
  | .cIssue _ _ => some .c
  | .cHarv _ _ => some .c
  | .cHalt _ _ => some .c
  | .cSqrd _ _ => some .c
  | .cSqdraft _ _ => some .c
  | .cSqaccept _ _ => some .c
  | .cSqtrim _ _ => some .c
  | .cSqreset _ _ => some .c
  | .xNop _ => some .x
  | .xMma _ _ => some .x
  | .xZero _ _ => some .x
  | .xTmov _ _ => some .x
  | .xTrd _ _ => some .x
  | .xTwr _ _ => some .x
  | .vNop _ => some .v
  | .vAdd _ _ => some .v
  | .vSub _ _ => some .v
  | .vMul _ _ => some .v
  | .vFma _ _ => some .v
  | .vMin _ _ => some .v
  | .vMax _ _ => some .v
  | .vAbs _ _ => some .v
  | .vNeg _ _ => some .v
  | .vClamp _ _ => some .v
  | .vSel _ _ => some .v
  | .vAnd _ _ => some .v
  | .vOr _ _ => some .v
  | .vXor _ _ => some .v
  | .vShl _ _ => some .v
  | .vShr _ _ => some .v
  | .vSra _ _ => some .v
  | .vMov _ _ => some .v
  | .vCmp _ _ => some .v
  | .vQuant _ _ => some .v
  | .vDiv _ _ => some .v
  | .vSqrt _ _ => some .v
  | .vFn _ _ => some .v
  | .vCvt _ _ => some .v
  | .vWupd _ _ => some .v
  | .vChain _ _ => some .v
  | .vRsum _ _ => some .v
  | .vRmin _ _ => some .v
  | .vRmax _ _ => some .v
  | .vRrd _ _ => some .v
  | .vTrsum _ _ => some .v
  | .vTrmin _ _ => some .v
  | .vTrmax _ _ => some .v
  | .vBcst _ _ => some .v
  | .vExt _ _ => some .v
  | .vIns _ _ => some .v
  | .vKcnt _ _ => some .v
  | .vIota _ _ => some .v
  | .mNop _ => some .m
  | .mLdv _ _ => some .m
  | .mLdvs _ _ => some .m
  | .mStv _ _ => some .m
  | .mStvs _ _ => some .m
  | .mLdf _ _ => some .m
  | .mStf _ _ => some .m
  | .mGath _ _ => some .m
  | .mScat _ _ => some .m
  | .mScadd _ _ => some .m
  | .mScaddu _ _ => some .m
  | .mLdx _ _ => some .m
  | .mStx _ _ => some .m
  | .mFlagl _ _ => some .m
  | .mTld _ _ => some .m
  | .mTst _ _ => some .m
  | .mCopy _ _ => some .m
  | .mFld _ _ => some .m
  | .mFst _ _ => some .m
  | .mFatom _ _ => some .m
  | .mFflag _ _ => some .m
  | .mFence _ => some .m
  | .mLfence _ => some .m
  | .runaheadLoad _ => none
  | .moveComplete _ _ _ _ => none
  | .copyComplete _ _ _ _ => none
  | .cartDescEnd _ _ _ _ => none
  | .reckSolveEnd _ _ _ _ _ => none
  | .collectiveEnd _ _ _ => none
  | .chunkFrameReceive _ _ _ => none
  | .voteReceive _ _ _ _ => none
  | .harvestResult _ _ _ _ => none
  | .attemptReopen _ => none
  | .stepTimeout _ => none
  | .slotOpen _ => none
  | .slotRelease _ _ _ => none
  | .enqueue _ _ _ => none
  | .heartbeat _ => none
  | .hello _ _ _ _ => none
  | .keyExchange _ _ _ => none
  | .closeSession _ => none
  | .bulkBegin _ _ _ _ _ => none
  | .bulkData _ _ _ => none
  | .bulkEnd _ => none
  | .unload _ _ => none
  | .planDrainEnd _ => none
  | .readStatus _ _ _ => none
  | .attnRead _ _ => none
  | .quote _ _ _ => none
  | .journalRead _ _ _ => none
  | .journalAck _ _ => none
  | .checkpoint _ => none
  | .extend _ _ _ => none
  | .setCap _ _ => none
  | .restart _ => none
  | .restartDrainEnd => none
  | .jobStart _ _ _ _ => none
  | .jobStop _ _ => none
  | .plough _ _ _ _ => none
  | .ploughDone _ _ => none
  | .registerWrite _ _ _ => none
  | .counterSelect _ _ _ _ _ _ => none
  | .counterRead _ _ => none
  | .counterClear _ _ _ _ => none
  | .freeze _ _ => none
  | .freezeLatch => none
  | .snapshotRead _ _ _ => none
  | .bwWindow _ _ => none
  | .bwWindowBoundary => none
  | .bwRead _ _ _ _ => none
  | .topdownRead _ _ _ => none
  | .telemetry _ => none
  | .tallyRead _ _ _ _ _ => none
  | .getState _ => none
  | .mgmtTelemetry _ _ => none
  | .getCap _ => none
  | .mgmtSetCap _ _ => none
  | .mgmtRestart _ _ => none
  | .claimPermit _ => none
  | .stageBegin _ _ _ => none
  | .stageData _ _ _ => none
  | .stageEnd _ => none
  | .joinMsg _ _ _ _ _ _ => none
  | .joinAck _ _ _ _ => none
  | .autostartJoinWait => none
  | .reeveBeat => none
  | .standbyTakeover _ _ _ _ => none
  | .reeveTakeover _ => none
  | .install _ _ _ _ _ _ _ _ _ => none
  | .installed _ _ => none
  | .arm _ _ _ => none
  | .armAnswer _ _ _ _ _ _ => none
  | .goMsg _ _ => none
  | .goDeadline _ => none
  | .launch _ => none
  | .launched _ _ _ => none
  | .disarm _ _ => none
  | .armedTimeout _ => none
  | .launchReportDeadline _ => none
  | .jobFault _ _ _ => none
  | .teardown _ _ => none
  | .teardownDrainEnd _ => none
  | .teardownWipeEnd _ => none
  | .teardownDone _ _ => none
  | .routeRemove _ => none
  | .routeRemoved _ _ => none
  | .jobIdFree _ => none
  | .controlResend => none
  | .twinTally _ _ _ _ _ => none
  | .twinStop _ _ => none
  | .twinPeerLost _ _ => none
  | .planFetch _ _ => none
  | .weightFetch _ _ => none
  | .fetchData _ _ _ => none
  | .fetchEnd _ _ _ => none
  | .fetchRefused _ _ => none
  | .fetchTimeout => none
  | .frameRoute _ _ => none
  | .farRequest _ _ _ => none
  | .continueFrame _ _ _ => none
  | .continueTimeout => none
  | .farReply _ => none
  | .farResend _ _ => none
  | .targetLost _ _ => none
  | .replayCacheFree _ _ _ => none
  | .timeFrame _ _ => none
  | .timeSend _ => none
  | .idle _ => none
  | .linkAckTimeout _ => none
  | .portTrain _ _ => none
  | .portRetrain _ _ => none
  | .portWidenAttempt _ => none
  | .hostLinkTrain _ => none
  | .hostLinkDown _ => none
  | .sessionIdleTimeout _ => none
  | .patrolRead _ _ => none
  | .sramPatrol _ _ _ _ => none
  | .mapOutFillEnd _ => none
  | .zeroFillEnd _ => none
  | .stackTempRead _ _ => none
  | .coreFence _ _ => none
  | .handshakeStall _ => none
  | .spareSelfTest _ _ => none
  | .substitutionCopyEnd _ _ => none
  | .routerStall => none
  | .packageFault => none
  | .correctedSummary => none
  | .refusalSummary => none
  | .dropSummary => none
  | .healthWrite _ => none
  | .inputValid _ => none
  | .seal => none
  | .inputDip _ => none
  | .inputLoss _ => none
  | .inputSurge _ _ => none
  | .inputOvercurrent _ => none
  | .inputReversed => none
  | .powerManagerTick _ => none
  | .railShort _ _ _ => none
  | .senseOpen _ => none
  | .thermalReading _ _ => none
  | .referenceMissing => none
  | .extest => none
  | .idcode => none
  | .samplePreload => none
  | .clamp => none
  | .highz => none
  | .extestPulse => none
  | .extestTrain => none
  | .readStart => none
  | .vendorDebug _ => none
  | .bypass => none
  | .referenceRestored _ => none
  | .shutdownAckTimeout => none

/-- The instruction a slot word holds: none where the opcode is undefined, a reserved field is not zero or an operand
form is illegal (03 R57). Re-encoding the fields shows that no reserved bit was set. -/
def decodeSlot (sl : Slot) (c : CoreId) (w : BitVec 64) : Option Instr :=
  let i? := match sl with
    | .c => slotCByOpcode c w
    | .x => slotXByOpcode c w
    | .v => slotVByOpcode c w
    | .m => slotMByOpcode c w
  match i? with
  | some i => if encode i = some w ∧ i.wellFormed = true then some i else none
  | none => none

/-- 03 R55: the slot word of a bundle (C bytes 0-7, X 8-15, V 16-23, M 24-31). -/
def bundleSlot (b : BitVec 256) (sl : Slot) : BitVec 64 :=
  match sl with
  | .c => b.extractLsb' 0 64
  | .x => b.extractLsb' 64 64
  | .v => b.extractLsb' 128 64
  | .m => b.extractLsb' 192 64

/-- 03 R57, encoding part: every slot of a bundle decodes. -/
def bundleDecodes (c : CoreId) (b : BitVec 256) : Bool :=
  [Slot.c, .x, .v, .m].all (fun sl => (decodeSlot sl c (bundleSlot b sl)).isSome)

end Sys2Proof
end

