-- ==== Sys2Proof/Config.lean ====
section
/-! DEFINITION. What the specification leaves open, as constants without a body: nothing in Lean can evaluate them or
prove a value of them (notes/assumptions/4.md, 8.md, 9.md, 12.md). -/

namespace Sys2Proof.Config

/-- A free value: what the specification leaves undefined, for the `n`-th time the machine needs one
(notes/assumptions/4.md). -/
opaque freeNat : Nat → Nat
/-- S3 of a core in a STREAM service of which it owns several sequence slots or none (03 R60; notes/assumptions/24.md):
plan digest, service, plan core. -/
opaque seqPick : Nat → Nat → Nat → Nat
/-- The class that opens where cores of a plan stand at several, each empty on the others (09 R199, R200;
notes/assumptions/14.md): plan digest, step. -/
opaque openChoice : Nat → Nat → Nat
/-- Number of a sender's first control message of a job (13 R316; notes/assumptions/42.md). -/
opaque controlFirst : Nat
/-- SEQ of a frame that no core issues (11 R247; notes/assumptions/42.md): TYPE, bell. -/
opaque frameSeq : Nat → Nat → BitVec 16
/-- The rounded value of a V.FN function where the model's interval evaluation cannot decide it
(notes/assumptions/12.md): function number, format width, operand code. -/
opaque fnUndecided : Nat → Nat → Nat → Nat

/-! Cryptography and what the part was made with (15 R341-R352; notes/assumptions/8.md). -/

/-- The warden's random number generator: number of the draw, bytes. -/
opaque randomNat : Nat → Nat → Nat
/-- The IDENTITY_CERT of this part. -/
opaque identityCert : List (BitVec 8)
/-- The identity key: modulus and public exponent; and its private exponent. -/
opaque identityKey : Nat × Nat
opaque identityPrivate : Nat
/-- The transport key of a start: modulus and public exponent; and its private exponent. -/
opaque transportKey : Nat → Nat × Nat
opaque transportPrivate : Nat → Nat
/-- The wrapping key: modulus and private exponent. -/
opaque wrappingKey : Nat × Nat
/-- Digest of the warden's mask code (MEAS0). -/
opaque maskDigest : Nat
/-- Path resistance of a rail in microohms, held from manufacture (19 R419; notes/assumptions/8.md). -/
opaque pathMicroOhm : Nat → Nat

/-! Sections of a plan image whose arrangement the specification does not give (09 R195; notes/assumptions/9.md); none
where a section is not well formed. -/

/-- PROGRAMS: per plan core the compute die, the program range, and the offset and content of the read-only range. -/
opaque programs : List (BitVec 8) → Option (List (Nat × List (BitVec 8) × Nat × List (BitVec 8)))
/-- CHAINS: per plan core its chain table. -/
opaque chains : List (BitVec 8) → Option (List (List (BitVec 320)))
/-- ADDRESS_MAP: pages (window, read-only), read-only marks of the bins, regions (base, size, LOAD, STORE, ATOMIC and
FLAG as bits 0-3, SOLE member and plan core), handles (plan core, handle, member, region). -/
opaque addressMap : List (BitVec 8) →
  Option (List (Nat × Bool) × List Bool × List (Nat × Nat × Nat × Option (Nat × Nat)) × List (Nat × Nat × Nat × Nat))
/-- OWNERS: owning plan core of each cart and each reckoner, owner and CAP of each sequence slot. -/
opaque owners : List (BitVec 8) → Option (List (Nat × Nat) × List (Nat × Nat) × List (Nat × Nat))
/-- The cart that the plan names for each cart descriptor and the reckoner for each reckoner descriptor (06 R134, 07
R163). -/
opaque cartOf : List (BitVec 8) → List Nat
opaque reckOf : List (BitVec 8) → List Nat
/-- RECK_CLASS: the classes with the reckoners on which each is installed (07 R153). -/
opaque reckClasses : List (BitVec 8) → Option (List (List Nat × List (BitVec 8)))
/-- COLL_DESC: how many of the section's 32-byte entries are descriptors; the participant array follows (12 R271). -/
opaque collCount : List (BitVec 8) → Nat
/-- NUMERICS before its three tables: NUM_CTL and VEC_CTL per plan core, and the byte at which the tables start; and
whether the tensor formats and ledger scales keep 02 R32 and R45. -/
opaque numericsHead : List (BitVec 8) → Option (List (Nat × Nat) × Nat)
opaque numericsFit : List (BitVec 8) → Bool

end Sys2Proof.Config
end

