-- ==== Sys2Proof/Machine/Sha.lean ====
section
/-! DEFINITION. SHA-512 (FIPS 180-4), which the specification names for digests, the journal chain, signatures of plans
and the draw generator's keys; the constants are the standard's (notes/assumptions/8.md). -/

namespace Sys2Proof.Machine
open Sys2Proof

/-! ### Byte strings: little-endian fields (00 R10) -/

/-- The low `n` bytes of a number, least significant first. -/
def leBytes : Nat → Nat → Bytes
  | 0, _ => []
  | n + 1, v => BitVec.ofNat 8 v :: leBytes n (v / 256)

/-- The number whose bytes, least significant first, are given. -/
def leNat : Bytes → Nat
  | [] => 0
  | b :: bs => b.toNat + 256 * leNat bs

/-- The number whose bytes, most significant first, are given. -/
def beNat (bs : Bytes) : Nat := bs.foldl (fun a b => a * 256 + b.toNat) 0

/-- The low `n` bytes of a number, most significant first. -/
def beBytes (n v : Nat) : Bytes := (leBytes n v).reverse

/-- Bits [hi:lo] of a number. -/
def bits (v hi lo : Nat) : Nat := v / 2 ^ lo % 2 ^ (hi + 1 - lo)

/-! ### SHA-512 -/

def shaK : List Nat :=
  [0x428A2F98D728AE22, 0x7137449123EF65CD, 0xB5C0FBCFEC4D3B2F, 0xE9B5DBA58189DBBC] ++
  [0x3956C25BF348B538, 0x59F111F1B605D019, 0x923F82A4AF194F9B, 0xAB1C5ED5DA6D8118] ++
  [0xD807AA98A3030242, 0x12835B0145706FBE, 0x243185BE4EE4B28C, 0x550C7DC3D5FFB4E2] ++
  [0x72BE5D74F27B896F, 0x80DEB1FE3B1696B1, 0x9BDC06A725C71235, 0xC19BF174CF692694] ++
  [0xE49B69C19EF14AD2, 0xEFBE4786384F25E3, 0x0FC19DC68B8CD5B5, 0x240CA1CC77AC9C65] ++
  [0x2DE92C6F592B0275, 0x4A7484AA6EA6E483, 0x5CB0A9DCBD41FBD4, 0x76F988DA831153B5] ++
  [0x983E5152EE66DFAB, 0xA831C66D2DB43210, 0xB00327C898FB213F, 0xBF597FC7BEEF0EE4] ++
  [0xC6E00BF33DA88FC2, 0xD5A79147930AA725, 0x06CA6351E003826F, 0x142929670A0E6E70] ++
  [0x27B70A8546D22FFC, 0x2E1B21385C26C926, 0x4D2C6DFC5AC42AED, 0x53380D139D95B3DF] ++
  [0x650A73548BAF63DE, 0x766A0ABB3C77B2A8, 0x81C2C92E47EDAEE6, 0x92722C851482353B] ++
  [0xA2BFE8A14CF10364, 0xA81A664BBC423001, 0xC24B8B70D0F89791, 0xC76C51A30654BE30] ++
  [0xD192E819D6EF5218, 0xD69906245565A910, 0xF40E35855771202A, 0x106AA07032BBD1B8] ++
  [0x19A4C116B8D2D0C8, 0x1E376C085141AB53, 0x2748774CDF8EEB99, 0x34B0BCB5E19B48A8] ++
  [0x391C0CB3C5C95A63, 0x4ED8AA4AE3418ACB, 0x5B9CCA4F7763E373, 0x682E6FF3D6B2B8A3] ++
  [0x748F82EE5DEFB2FC, 0x78A5636F43172F60, 0x84C87814A1F0AB72, 0x8CC702081A6439EC] ++
  [0x90BEFFFA23631E28, 0xA4506CEBDE82BDE9, 0xBEF9A3F7B2C67915, 0xC67178F2E372532B] ++
  [0xCA273ECEEA26619C, 0xD186B8C721C0C207, 0xEADA7DD6CDE0EB1E, 0xF57D4F7FEE6ED178] ++
  [0x06F067AA72176FBA, 0x0A637DC5A2C898A6, 0x113F9804BEF90DAE, 0x1B710B35131C471B] ++
  [0x28DB77F523047D84, 0x32CAAB7B40C72493, 0x3C9EBE0A15C9BEBC, 0x431D67C49C100D4C] ++
  [0x4CC5D4BECB3E42B6, 0x597F299CFC657E2A, 0x5FCB6FAB3AD6FAEC, 0x6C44198C4A475817]

def shaH0 : List Nat :=
  [0x6A09E667F3BCC908, 0xBB67AE8584CAA73B, 0x3C6EF372FE94F82B, 0xA54FF53A5F1D36F1] ++
  [0x510E527FADE682D1, 0x9B05688C2B3E6C1F, 0x1F83D9ABFB41BD6B, 0x5BE0CD19137E2179]

def two64 : Nat := 2 ^ 64
def shaAdd (a b : Nat) : Nat := (a + b) % two64
def shaRotr (n x : Nat) : Nat := x / 2 ^ n + x % 2 ^ n * 2 ^ (64 - n)
def shaXor3 (a b c : Nat) : Nat := Nat.xor a (Nat.xor b c)
def shaCh (x y z : Nat) : Nat := Nat.xor (Nat.land x y) (Nat.land (two64 - 1 - x) z)
def shaMaj (x y z : Nat) : Nat := shaXor3 (Nat.land x y) (Nat.land x z) (Nat.land y z)
def shaBig0 (x : Nat) : Nat := shaXor3 (shaRotr 28 x) (shaRotr 34 x) (shaRotr 39 x)
def shaBig1 (x : Nat) : Nat := shaXor3 (shaRotr 14 x) (shaRotr 18 x) (shaRotr 41 x)
def shaSmall0 (x : Nat) : Nat := shaXor3 (shaRotr 1 x) (shaRotr 8 x) (x / 2 ^ 7)
def shaSmall1 (x : Nat) : Nat := shaXor3 (shaRotr 19 x) (shaRotr 61 x) (x / 2 ^ 6)

/-- The message schedule: the last sixteen words, newest first, and the words still to be made; the answer is the
remaining words in order. -/
def shaSchedule : Nat → List Nat → List Nat
  | 0, _ => []
  | n + 1, w =>
    let t := shaAdd (shaAdd (shaSmall1 (w.getD 1 0)) (w.getD 6 0)) (shaAdd (shaSmall0 (w.getD 14 0)) (w.getD 15 0))
    t :: shaSchedule n (t :: w.take 15)

/-- The working variables a-h. -/
structure ShaVars where
  a : Nat
  b : Nat
  c : Nat
  d : Nat
  e : Nat
  f : Nat
  g : Nat
  h : Nat

def shaRound (v : ShaVars) (kw : Nat × Nat) : ShaVars :=
  let t1 := shaAdd (shaAdd (shaAdd v.h (shaBig1 v.e)) (shaAdd (shaCh v.e v.f v.g) kw.1)) kw.2
  let t2 := shaAdd (shaBig0 v.a) (shaMaj v.a v.b v.c)
  ⟨shaAdd t1 t2, v.a, v.b, v.c, shaAdd v.d t1, v.e, v.f, v.g⟩

/-- One 128-byte block. -/
def shaBlock (h : List Nat) (block : Bytes) : List Nat :=
  let w := (List.range 16).map (fun i => beNat ((block.drop (8 * i)).take 8))
  let ws := w ++ shaSchedule 64 w.reverse
  let v₀ : ShaVars := ⟨h.getD 0 0, h.getD 1 0, h.getD 2 0, h.getD 3 0, h.getD 4 0, h.getD 5 0, h.getD 6 0, h.getD 7 0⟩
  let v := (shaK.zip ws).foldl shaRound v₀
  List.zipWith shaAdd h [v.a, v.b, v.c, v.d, v.e, v.f, v.g, v.h]

def shaBlocks : Nat → List Nat → Bytes → List Nat
  | 0, h, _ => h
  | n + 1, h, bs => shaBlocks n (shaBlock h (bs.take 128)) (bs.drop 128)

/-- SHA-512 of a byte string: 64 bytes. -/
def sha512 (msg : Bytes) : Bytes :=
  let pad := (111 - (msg.length : Int)) % 128
  let m := msg ++ [0x80] ++ List.replicate pad.toNat 0 ++ beBytes 16 (8 * msg.length)
  (shaBlocks (m.length / 128) shaH0 m).flatMap (beBytes 8)

end Sys2Proof.Machine
end

