-- ==== Sys2Proof/Machine/Codes.lean ====
section
/-! DEFINITION. The line code of HBM (08 R178) and CRC-64 of frames and chunks (11 R246; 12 R280). -/

namespace Sys2Proof.Machine
open Sys2Proof

/-! ### The field of 256 elements -/

/-- Multiply by alpha = 0x02 modulo x^8 + x^4 + x^3 + x^2 + 1. -/
def gfTimesAlpha (a : Nat) : Nat := if 2 * a < 256 then 2 * a else (2 * a) ^^^ 0x11D

/-- A power of alpha. -/
def gfAlpha : Nat → Nat
  | 0 => 1
  | n + 1 => gfTimesAlpha (gfAlpha n)

/-- The product of two elements, from the low `fuel` bits of the second. -/
def gfMulBits : Nat → Nat → Nat → Nat
  | 0, _, _ => 0
  | fuel + 1, a, b => (if b % 2 = 1 then a else 0) ^^^ gfMulBits fuel (gfTimesAlpha a) (b / 2)

def gfMul (a b : Nat) : Nat := gfMulBits 8 a b

/-! ### The line code (08 R178) -/

/-- Coefficients of g(x) below x^4, highest first: the product of (x - alpha^j) for j from 0 to 3. -/
def lineGenerator : List Nat :=
  ([0, 1, 2, 3].foldl (fun (p : List Nat) j =>
    ((p ++ [0]).zip (0 :: p)).map (fun (e : Nat × Nat) => e.1 ^^^ gfMul (gfAlpha j) e.2)) [1]).drop 1

/-- One symbol more of the division by g(x). -/
def lineStep (r : List Nat) (d : Nat) : List Nat :=
  let f := d ^^^ r.headD 0
  ((r.drop 1 ++ [0]).zip lineGenerator).map (fun (e : Nat × Nat) => e.1 ^^^ gfMul f e.2)

/-- The four check bytes of the ciphertext of a line. -/
def lineCheck (b : Bytes) : Bytes := ((b.map (·.toNat)).foldl lineStep [0, 0, 0, 0]).map (BitVec.ofNat 8)

/-- The 68 symbols of a line as stored. -/
def lineEncode (b : Bytes) : Bytes := b ++ lineCheck b

/-- The codeword polynomial at alpha^j, by Horner's rule: zero for every j from 0 to 3 in a codeword. -/
def lineSyndrome (c : Bytes) (j : Nat) : Nat := c.foldl (fun a b => gfMul a (gfAlpha j) ^^^ b.toNat) 0

/-- XOR a value into a symbol. -/
def lineFlip (k v : Nat) (c : Bytes) : Bytes := c.set k (c.getD k 0 ^^^ BitVec.ofNat 8 v)

/-- What the decoder finds in 68 symbols. -/
inductive LineRead where
  | clean (b : Bytes)
  | corrected (b : Bytes)
  | uncorrectable
  deriving DecidableEq, Repr

/-- Decode a line: no error, an error of one symbol, or more than the code corrects. -/
def lineDecode (c : Bytes) : LineRead :=
  let s := (List.range 4).map (lineSyndrome c)
  let s0 := s.getD 0 0
  if s.all (· == 0) then .clean (c.take 64)
  else
    match (List.range 68).find? (fun k => (List.range 4).all (fun j => s.getD j 0 == gfMul s0 (gfAlpha (j * (67 - k))))) with
    | some k => .corrected ((lineFlip k s0 c).take 64)
    | none => .uncorrectable

/-! ### CRC-64 (11 R246; 12 R280) -/

/-- One byte into a CRC-64 (ECMA-182), the most significant bit first. -/
def crcByte (c : Nat) (b : Byte) : Nat :=
  (List.range 8).foldl (fun c _ => if c / 2 ^ 63 = 1 then Nat.xor (c * 2 % 2 ^ 64) 0x42F0E1EBA9EA3693 else c * 2 % 2 ^ 64)
    (Nat.xor c (b.toNat * 2 ^ 56))

/-- CRC-64: initial value 0, no reflection and no final XOR. -/
def crc64 (bs : Bytes) : Nat := bs.foldl crcByte 0

end Sys2Proof.Machine
end

