-- ==== Sys2Proof/Machine/Fn.lean ====
section
/-! DEFINITION. V.FN (05 R117): EXP, LOG2, RCP, RSQRT and TANH, correctly rounded. The exact value is enclosed between
two rational bounds; where both round to the same code that code is the result. -/

namespace Sys2Proof.Machine
open Sys2Proof

/-- Fixed-point fraction bits of the enclosures. -/
def fnBits : Nat := 300

/-- Sum of x^k / k! from term `t` on, `x` and `t` in units of 2^-fnBits; every term rounded down (`up` false) or
up. -/
def expSum (up : Bool) (x : Nat) : Nat → Nat → Nat → Nat
  | 0, _, t => if up then 2 * t + 2 else 0
  | fuel + 1, k, t =>
    let d := 2 ^ fnBits * k
    let n := t * x
    t + expSum up x fuel (k + 1) (if up then (n + d - 1) / d else n / d)

/-- Bounds of e^x for 0 <= x < 128, in units of 2^-fnBits. -/
def expBounds (x : Nat) : Nat × Nat :=
  (expSum false x 640 1 (2 ^ fnBits), expSum true x 640 1 (2 ^ fnBits))

/-- A dyadic in units of 2^-fnBits, rounded down and up. -/
def toFixed (m : Nat) (e : Int) : Nat × Nat :=
  let (a, b) := dyadicRat m (e + fnBits)
  (a / b, (a + b - 1) / b)

/-- Two times the sum of z^(2k+1) / (2k+1), `z` and the running power in units of 2^-fnBits: 2 atanh z. -/
def atanhSum (up : Bool) (z2 : Nat) : Nat → Nat → Nat → Nat
  | 0, _, p => if up then 2 * p + 2 else 0
  | fuel + 1, k, p =>
    let t := if up then (2 * p + k - 1) / k else 2 * p / k
    let q := if up then (p * z2 + 2 ^ fnBits - 1) / 2 ^ fnBits else p * z2 / 2 ^ fnBits
    t + atanhSum up z2 fuel (k + 2) q

/-- Bounds of ln (1 + r) = 2 atanh (r / (2 + r)), for the ratio (1 + r) = num / den in [1, 2], in units of
2^-fnBits. -/
def lnBounds (num den : Nat) : Nat × Nat :=
  let a := (num - den) * 2 ^ fnBits
  let zl := a / (num + den)
  let zh := (a + num + den - 1) / (num + den)
  (atanhSum false (zl * zl / 2 ^ fnBits) 110 1 zl,
   atanhSum true ((zh * zh + 2 ^ fnBits - 1) / 2 ^ fnBits) 110 1 zh)

/-- A signed enclosure: both bounds as ratios of one sign. -/
structure Enclosure where
  neg : Bool
  loNum : Nat
  loDen : Nat
  hiNum : Nat
  hiDen : Nat
  deriving DecidableEq, Repr

/-- EXP of (-1)^neg m 2^e, m not zero. -/
def expEnclosure (neg : Bool) (m : Nat) (e : Int) : Enclosure :=
  let (xl, xh) := toFixed m e
  if 128 * 2 ^ fnBits ≤ xh then
    -- beyond every format of V.FN: above 2^184, or below 2^-184
    if neg then ⟨false, 1, 2 ^ 185, 1, 2 ^ 184⟩ else ⟨false, 2 ^ 184, 1, 2 ^ 185, 1⟩
  else
    let lo := (expBounds xl).1
    let hi := (expBounds xh).2
    if neg then ⟨false, 2 ^ fnBits, hi, 2 ^ fnBits, lo⟩ else ⟨false, lo, 2 ^ fnBits, hi, 2 ^ fnBits⟩

/-- LOG2 of m 2^e, m not zero and the value not a power of two. -/
def log2Enclosure (m : Nat) (e : Int) : Enclosure :=
  let k := Nat.log2 m
  let n : Int := e + k
  let (l, h) := lnBounds m (2 ^ k)
  let (l2, h2) := lnBounds 2 1
  -- bounds of the fraction log2 (m / 2^k) as integers over 2^fnBits
  let fl := l * 2 ^ fnBits / h2
  let fh := (h * 2 ^ fnBits + l2 - 1) / l2
  let lo : Int := n * 2 ^ fnBits + fl
  let hi : Int := n * 2 ^ fnBits + fh
  if 0 ≤ n then ⟨false, lo.toNat, 2 ^ fnBits, hi.toNat, 2 ^ fnBits⟩
  else ⟨true, hi.natAbs, 2 ^ fnBits, lo.natAbs, 2 ^ fnBits⟩

/-- TANH of m 2^e, m not zero. -/
def tanhEnclosure (neg : Bool) (m : Nat) (e : Int) : Enclosure :=
  let (a, b) := dyadicRat m e
  if a * 2 ^ 40 < b then
    -- x - x^3/3 < tanh x < x - x^3/3 + 2 x^5/15
    ⟨neg, 3 * a * b ^ 2 - a ^ 3, 3 * b ^ 3,
      15 * a * b ^ 4 - 5 * a ^ 3 * b ^ 2 + 2 * a ^ 5, 15 * b ^ 5⟩
  else if 32 * b ≤ a then ⟨neg, 2 ^ 80 - 1, 2 ^ 80, 2 ^ 81 - 1, 2 ^ 81⟩
  else
    let (xl, xh) := toFixed m (e + 1)
    let lo := (expBounds xl).1
    let hi := (expBounds xh).2
    ⟨neg, lo - 2 ^ fnBits, lo + 2 ^ fnBits, hi - 2 ^ fnBits, hi + 2 ^ fnBits⟩

/-- Round an enclosed value: the common rounding of its bounds. -/
def FFmt.roundEnclosed (F : FFmt) (flush : Bool) (undecided : Nat) (x : Enclosure) : Nat × NumFlags :=
  let lo := F.roundRatio flush x.neg x.loNum x.loDen
  let hi := F.roundRatio flush x.neg x.hiNum x.hiDen
  if lo = hi then lo else (undecided % 2 ^ F.width, 0)

/-- The reciprocal square root of m 2^e (m not zero) as a ratio with a sticky last digit. -/
def rsqrtRat (m : Nat) (e : Int) : Nat × Nat :=
  let m' : Nat := if e % 2 = 0 then m else 2 * m
  let e' : Int := if e % 2 = 0 then e else e - 1
  let s : Nat := isqrt (2 ^ 400 / m')
  let s' : Nat := if s * s * m' = 2 ^ 400 then 2 * s else 2 * s + 1
  dyadicRat s' (-(e' / 2) - 201)

/-- The functions of AUX (05 R117). -/
inductive FnOp where
  | exp | log2 | rcp | rsqrt | tanh
  deriving DecidableEq, Repr

def FnOp.ofCode : Nat → Option FnOp
  | 0 => some .exp | 1 => some .log2 | 2 => some .rcp | 3 => some .rsqrt | 4 => some .tanh | _ => none

def FnOp.code : FnOp → Nat
  | .exp => 0 | .log2 => 1 | .rcp => 2 | .rsqrt => 3 | .tanh => 4

/-- 05 R117 on a value already read under R46. -/
def FnOp.apply (op : FnOp) (F : FFmt) (flush : Bool) (code : Nat) (v : FVal) : Nat × NumFlags :=
  let free := Config.fnUndecided op.code F.width code
  let one := F.bias * 2 ^ F.fb
  match v with
  | .nan _ => (F.canonNan, 0)
  | .inf n =>
    match op with
    | .exp => if n then (0, 0) else (F.infCode false, 0)
    | .log2 => if n then (F.canonNan, flagInvalid) else (F.infCode false, 0)
    | .rcp => (F.signBit n, 0)
    | .rsqrt => if n then (F.canonNan, flagInvalid) else (0, 0)
    | .tanh => (F.signBit n + one, 0)
  | .fin n m e =>
    if m = 0 then
      match op with
      | .exp => (one, 0)
      | .log2 => (F.infCode true, flagDivZero)
      | .rcp => (F.infCode n, flagDivZero)
      | .rsqrt => (F.infCode n, flagDivZero)
      | .tanh => (F.signBit n, 0)
    else
      match op with
      | .exp => F.roundEnclosed flush free (expEnclosure n m e)
      | .log2 =>
        if n then (F.canonNan, flagInvalid)
        else if m = 2 ^ Nat.log2 m then
          let k : Int := e + Nat.log2 m
          F.roundRatio flush (k < 0) k.natAbs 1
        else F.roundEnclosed flush free (log2Enclosure m e)
      | .rcp => let (a, b) := dyadicRat m e; F.roundRatio flush n b a
      | .rsqrt =>
        if n then (F.canonNan, flagInvalid) else let (a, b) := rsqrtRat m e; F.roundRatio flush false a b
      | .tanh => F.roundEnclosed flush free (tanhEnclosure n m e)

/-- V.FN of one code. -/
def FFmt.fn (F : FFmt) (flush : Bool) (op : FnOp) (code : Nat) : Nat × NumFlags :=
  let (v, f) := F.read flush code
  let (r, g) := op.apply F flush code v
  (r, f ||| g)

end Sys2Proof.Machine
end

