-- ==== Sys2Proof/Machine/State.lean ====
section
/-! DEFINITION. The machine's state as plain data: every register, buffer, queue, table, counter and memory that the
specification gives the module, and the state right after reset. Field comments name the rule of the specification;
INVENTORY.md lists every field with its reset value. -/

namespace Sys2Proof.Machine
open Sys2Proof

/-- Why the block stops: never. No event of the specification leaves the block without a next state; every error is an
effect on the state (safe). -/
inductive Fault : Type
  deriving DecidableEq, Repr

/-- Why a command is refused. -/
inductive Refusal where
  /-- Raised by an arm of `exec` whose command has no meaning yet (safe). -/
  | notModelled (mnemonic : String)
  /-- Raised by a slot instruction whose operand form the specification calls illegal or reserved; a plan that holds
  one is refused at load, so no core meets one (03 R57, 04 R97, 05 R115). Safe. -/
  | illFormed
  /-- Raised by a vendor debug command when debug is open: the specification says nothing of its effect (15 R356, 19
  R428). Safe. -/
  | vendorDebug
  deriving DecidableEq, Repr

/-! ### Memories -/

/-- A memory: bytes by address, in one canonical form (strictly rising addresses, no entry equal to what an unlisted
address reads as). -/
abbrev Mem := List Host.Cell

/-! ### A core (03 R58-R87) -/

/-- The register files that slots read and write (03 R58). -/
structure Regs where
  s : Vector SWord 32
  a : Vector AWord 16
  k : Vector KMask 8
  l : Vector LWord 4
  v : Vector VReg 64
  t : Vector TReg 8
  deriving DecidableEq, Repr

/-- A reduction accumulator of binary lanes (05 R127): the exact sum in units of 2^-1074, and the marks. -/
structure RealAcc where
  sum : Int
  /-- a value has been added since it was last empty -/
  used : Bool
  /-- an added value was not -0 -/
  nonNegZero : Bool
  nan : Bool
  snan : Bool
  pinf : Bool
  ninf : Bool
  deriving DecidableEq, Repr

/-- An active counted loop (03 R69): its body is bundles `first` to `first + len - 1`. -/
structure Loop where
  ctr : Fin 4
  first : Nat
  len : Nat
  count : Nat
  deriving DecidableEq, Repr

/-- The step checkpoint (03 R61); the sequence-slot values stand in the slots themselves. -/
structure Ckpt where
  s : Vector SWord 32
  a : Vector AWord 16
  l : Vector LWord 4
  dc : Vector DCWord 16
  loops : List Loop
  bundle : Nat
  /-- A registers last written by C.AMOVS (03 R80) -/
  fromS : List Nat
  deriving DecidableEq, Repr

/-- One element access of a local move (03 R70-R76): lane, local address as issued, bytes, data to store, and the bit
of the destination at which a loaded element is placed. -/
structure Elem where
  lane : Nat
  addr : Nat
  n : Nat
  data : Nat
  dst : Nat
  deriving DecidableEq, Repr

/-- A local move request that has not completed (03 R75), its operands as read at issue. -/
structure Move where
  id : Nat
  /-- opcode of the instruction -/
  op : Nat
  /-- register field, and first register of the destination -/
  reg : Nat
  bundle : Nat
  elems : List Elem
  /-- requests of the 256 that it holds -/
  requests : Nat
  deriving DecidableEq, Repr

/-- An M.COPY that has not completed (03 R73, R84). -/
structure CopyOp where
  id : Nat
  src : Nat
  dst : Nat
  blocks : Nat
  dc : Fin 16
  bundle : Nat
  reg : Nat
  deriving DecidableEq, Repr

/-- A descriptor that the core issued and that has not completed (03 R83). -/
structure Issued where
  /-- 0 cart, 1 reckoner, 2 mill -/
  unit : Nat
  desc : Nat
  dc : Fin 16
  deriving DecidableEq, Repr

/-- A far operation of a core without a reply (11 R256, R259-R264). -/
structure FarOp where
  /-- the model's own number of its issue -/
  id : Nat
  seq : BitVec 16
  op : Nat
  aop : Nat
  typ : Nat
  reg : Nat
  discard : Bool
  place : BitVec 22
  job : BitVec 16
  key : BitVec 64
  addr : Nat
  len : Nat
  data : Bytes
  step : Nat
  attempt : Nat
  bundle : Nat
  /-- bell of the first issue; none while held under R259, R260 or R262 -/
  issued : Option Bell
  resends : Nat
  deriving DecidableEq, Repr

/-- A far handle (03 R74). -/
structure FarHandle where
  place : BitVec 22
  job : BitVec 16
  key : BitVec 64
  deriving DecidableEq, Repr

/-- An entry of the run-ahead buffer (03 R80, R82): the load, its bundle, and its loaded elements or held fault. -/
structure Ahead where
  /-- the model's own number of the bundle in the order of execution -/
  pos : Nat
  op : Nat
  form : MVForm
  /-- values of the elements, in lane order -/
  data : List Nat
  /-- lane, address and status of a held fault -/
  fault : Option (Nat × Nat × Nat)
  deriving DecidableEq, Repr

/-- The address side (03 R79-R82): its copies of A and L, its position and its active loops, and the run-ahead buffer;
`synced` false after a discard, when it restarts from the execute side. -/
structure AddrSide where
  a : Vector AWord 16
  l : Vector LWord 4
  bundle : Nat
  loops : List Loop
  synced : Bool
  buffer : List Ahead
  deriving DecidableEq, Repr

/-- ST_CORE_FAULT (03 R77). -/
structure FaultRec where
  bell : Nat
  step : Nat
  bundle : Nat
  status : Nat
  opcode : Nat
  reg : Nat
  slot : Nat
  lane : Nat
  kind : Nat
  addr : Nat
  deriving DecidableEq, Repr

/-- What a core is doing (03 R78, R85; 09 R201). -/
inductive RunState where
  /-- holds no running step -/
  | idle
  /-- runs bundles of the open step -/
  | running
  /-- its range in the open step's class is empty: an idle participant of the step (09 R199, R201) -/
  | sitsOut
  /-- has executed C.HARV and waits for the harvest result -/
  | voted
  /-- has executed C.HALT and waits for the harvest result -/
  | halting
  /-- abandoned the step (03 R78 "vote replay") with this status -/
  | abandoned (status : Nat)
  /-- stopped by a job fault or teardown -/
  | stopped
  deriving DecidableEq, Repr

/-- A performance counter (18 R397). -/
structure Counter where
  event : BitVec 12
  enabled : Bool
  ovf : Bool
  value : BitVec 48
  deriving DecidableEq, Repr

/-- Top-down values of a core (18 R404). -/
structure TopDown where
  kept : BitVec 48
  spilt : BitVec 48
  unfed : BitVec 48
  held : BitVec 48
  /-- slots kept by the running attempt -/
  attempt : BitVec 48
  deriving DecidableEq, Repr

/-- A monitor slot of the update-ratio monitor (14 R337). -/
structure RatioSlot where
  tensor : BitVec 32
  /-- exact sums of the squares of w and of d, in units of 2^-2148 -/
  sw : Nat
  sd : Nat
  notFinite : Bool
  deriving DecidableEq, Repr

structure Core where
  regs : Regs
  dc : Vector DCWord 16
  fh : Vector FarHandle 64
  ra01 : Vector RealAcc 2
  ra23 : Vector (BitVec 128) 2
  /-- NUM_CTL.SUB_FLUSH (02 R46) -/
  subFlush : Bool
  /-- NUM_FLAGS, both copies (02 R48) -/
  flagsCommitted : NumFlags
  flagsStep : NumFlags
  /-- VEC_CTL (05 R125) -/
  route : BitVec 2
  plain : Bool
  plainBank : BitVec 4
  /-- loaded plan and plan core number; none when no plan holds the core -/
  plan : Option (Fin 16)
  planCore : Nat
  run : RunState
  /-- index of the bundle to issue next, or of the open bundle -/
  bundle : Nat
  loops : List Loop
  /-- operand view of the open bundle (03 R56); none between bundles -/
  view : Option Regs
  /-- slots of the open bundle already issued: X, V, M -/
  slotX : Bool
  slotV : Bool
  slotM : Bool
  /-- the open bundle has issued with a C.WAITF in its C slot, whose wait was met then (03 R56) -/
  flagSeen : Bool
  ckpt : Ckpt
  /-- checkpoint taken at the core's vote (09 R213) -/
  candidate : Option Ckpt
  moves : List Move
  copies : List CopyOp
  issued : List Issued
  far : List FarOp
  nextSeq : BitVec 16
  /-- the model's own number of the next move, copy or far operation, and its value when the open bundle opened -/
  nextId : Nat
  openId : Nat
  /-- NUM_FLAGS as work of earlier bundles has left it (03 R66) -/
  openFlags : NumFlags
  /-- the model's own count of closed bundles, and the A registers last written by C.AMOVS (03 R80) -/
  closed : Nat
  fromS : List Nat
  /-- slots other than no-ops issued in the open bundle (18 R404) -/
  work : Nat
  ahead : AddrSide
  fault : FaultRec
  /-- the core took a "vote replay" fault in this step (03 R85) -/
  replayVote : Bool
  /-- watches that fired in this step (14 R334) -/
  fired : List Nat
  ratio : List RatioSlot
  /-- the step did not monitor every declared tensor (14 R337) -/
  ratioLost : Bool
  chains : List (BitVec 320)
  sram : Mem
  /-- 8-byte words that read uncorrectable (08 R191) -/
  sramBad : List Nat
  sramUncorrectable : Nat
  /-- (interval of 1,000,000,000 bells, corrected words of the SRAM in it) (20 R435 cause 4) -/
  sramCorrected : Nat × Nat
  /-- plan step whose uncorrectable SRAM read caused a replay (20 R435 cause 3) -/
  sramLostStep : Option Nat
  counters : Vector Counter 8
  topDown : TopDown
  deriving DecidableEq, Repr

/-- STATE of an ST_CORE_MAP entry (09 R217). -/
inductive CoreUse where
  | mapped (logical : Fin 512)
  | spare
  | fenced
  | failed
  deriving DecidableEq, Repr

/-! ### HBM and granary -/

/-- The plough of a channel (08 R188, R189) and what its last completed write runs left there. -/
structure Plough where
  ctl : BitVec 64
  arg : BitVec 64
  /-- PLOUGH_CTL and PLOUGH_ARG as they stood at GO -/
  active : BitVec 64 × BitVec 64
  state : BitVec 2
  fail : Bool
  firstFail : BitVec 27
  mismatch : BitVec 16
  corrected : BitVec 16
  /-- completed runs that wrote, newest first: (PLOUGH_CTL, PLOUGH_ARG) -/
  written : List (BitVec 64 × BitVec 64)
  deriving DecidableEq, Repr

/-- ST_HBM_CH (08 R187) and the channel's part of map-out (R185). -/
structure Channel where
  corrected : Nat
  uncorrected : Nat
  /-- uncorrectable reads that are not patrol reads -/
  demandLost : Nat
  /-- (plan, step) whose attempt 0 read an uncorrectable line here -/
  lostIn : Option (Fin 16 × Nat)
  refresh : BitVec 2
  outReason : BitVec 8
  /-- false from order 1 of the *Map-out sequence table* -/
  granting : Bool
  /-- false from order 6, once the window is formed again without the channel -/
  inService : Bool
  plough : Plough
  deriving DecidableEq, Repr

/-- A granary bin (12 R286). -/
structure Bin where
  mem : Mem
  bad : List Nat
  /-- words found uncorrectable since start, each once (12 R289) -/
  lostWords : List Nat
  inService : Bool
  holder : Option (Fin 16)
  deriving DecidableEq, Repr

/-- A sequence slot (03 R86; 09 R214, R216), with its values at step open and the mark of C.SQRESET. -/
structure SeqSlot where
  cap : BitVec 32
  owner : BitVec 10
  bound : Bool
  plan : Option (Fin 16)
  cl : BitVec 32
  tl : BitVec 32
  p : BitVec 32
  clOpen : BitVec 32
  tlOpen : BitVec 32
  resetMark : Bool
  deriving DecidableEq, Repr

/-! ### Carts, reckoners and mills -/

/-- A cart or reckoner descriptor in issue (06 R138, R147; 07 R163). -/
structure UnitJob where
  desc : Nat
  dc : Fin 16
  core : CoreId
  bundle : Nat
  /-- base word of an indirect descriptor, read at C.ISSUE (06 R138) -/
  base : Option Nat
  deriving DecidableEq, Repr

/-- A cart (06 R147, R148). -/
structure Cart where
  plan : Option (Fin 16)
  running : Option UnitJob
  queue : List UnitJob
  status : Nat
  desc : Nat
  inService : Bool
  /-- parity errors since start (20 R438) -/
  errors : Nat
  deriving DecidableEq, Repr

/-- A reckoner (07 R152, R168, R169). -/
structure Reck where
  plan : Option (Fin 16)
  running : Option UnitJob
  queue : List UnitJob
  status : Nat
  desc : Nat
  inService : Bool
  errors : Nat
  deriving DecidableEq, Repr

/-- The frames of a chunk that a mill holds (12 R279, R285). -/
structure ChunkBuf where
  chunk : Nat
  phase : Nat
  src : Nat
  frames : List (Nat × Bytes)
  check : Option Nat
  corrupt : Bool
  flags : NumFlags
  deriving DecidableEq, Repr

/-- A running partial under MODE = ARRIVAL (12 R275): chunk, part of it, codes in the wire format, the inputs
combined so far. -/
structure Partial where
  chunk : Nat
  part : Nat
  codes : List Nat
  flags : NumFlags
  corrupt : Bool
  took : List Nat
  deriving DecidableEq, Repr

/-- A collective that a member has issued or started, or of which it holds frames (12 R272, R285). A part of a chunk is
a frame of it, or under CRC = 1 the whole chunk. -/
structure Coll where
  plan : Fin 16
  desc : Nat
  occ : Nat
  attempt : Nat
  issuers : List (CoreId × Fin 16)
  started : Bool
  /-- it has ended here; kept while frames of it still pass through -/
  ended : Bool
  bufs : List ChunkBuf
  partials : List Partial
  /-- per chunk: FLAGS and CORRUPT of what has been produced of it -/
  marks : List (Nat × NumFlags × Bool)
  /-- (chunk, part) whose partial this node has sent toward the root, or at the root turned into the result -/
  sentUp : List (Nat × Nat)
  /-- (chunk, part) whose result this member has taken -/
  taken : List (Nat × Nat)
  /-- (chunk, part) on whose combination the mill's own adders fail their check (12 R282) -/
  residue : List (Nat × Nat)
  /-- chunks that this mill has marked corrupt, and those of them that it found corrupt itself (12 R290; 18 R400) -/
  marked : List Nat
  found : List Nat
  status : Nat
  deriving DecidableEq, Repr

/-- ST_MILL (12 R290). -/
structure Mill where
  status : Nat
  desc : Nat
  corrupt : Nat
  inService : Bool
  /-- residue mismatches of its own adders since start (20 R438) -/
  errors : Nat
  deriving DecidableEq, Repr

/-- The corrected and uncorrected counts of ST_GRANARY per fabric die (12 R290). -/
structure GranaryDie where
  corrected : Nat
  uncorrected : Nat
  deriving DecidableEq, Repr

/-! ### Plans (09 R194-R216, 10 R221-R233, 14 R327-R337) -/

/-- A step class (09 R199). -/
structure StepClass where
  workBound : Nat
  harvAllow : Nat
  /-- per plan core: FIRST and LAST bundle -/
  ranges : List (Nat × Nat)
  /-- (UNIT, INDEX) -/
  descs : List (Nat × Nat)
  deriving DecidableEq, Repr

/-- A service: entry and I/O record (09 R209, R210) and demand entry (10 R221). -/
structure Service where
  bound : Nat
  windowSteps : Nat
  kind : Nat
  inBase : Nat
  outBase : Nat
  inBytes : Nat
  outBytes : Nat
  entries : List Nat
  slotBells : Nat
  leadBells : Nat
  lanes : Nat
  deriving DecidableEq, Repr

/-- What PROGRAMS, NUMERICS and CHAINS declare for a plan core (03 R65; 05 R121, R125; 09 R197). -/
structure CoreProgram where
  die : Nat
  program : Bytes
  roOffset : Nat
  ro : Bytes
  numCtl : Nat
  vecCtl : Nat
  chains : List (BitVec 320)
  deriving DecidableEq, Repr

/-- A page of the ADDRESS_MAP (03 R64, R65; 08 R174). -/
structure PageDecl where
  window : Nat
  readOnly : Bool
  deriving DecidableEq, Repr

/-- A tally entry (14 R327). -/
structure TallyEntry where
  base : Nat
  words : Nat
  cls : Nat
  layer : Nat
  deriving DecidableEq, Repr

/-- A watch entry (14 R332). -/
structure WatchEntry where
  cls : Nat
  planCore : Nat
  first : Nat
  last : Nat
  watch : Nat
  trigger : NumFlags
  from_ : Nat
  layer : Nat
  deriving DecidableEq, Repr

/-- A ratio entry (14 R336). -/
structure RatioEntry where
  hi : Nat
  lo : Nat
  tensor : BitVec 32
  layer : Nat
  jobFault : Bool
  deriving DecidableEq, Repr

/-- A problem class with the reckoners on which it is installed (07 R153). -/
structure ClassDecl where
  recks : List Nat
  data : Bytes
  deriving DecidableEq, Repr

/-- The header fields of a plan image (09 R194). -/
structure PlanHeader where
  imageBytes : Nat
  seed : Nat
  dirOffs : Nat
  dirCount : Nat
  services : Nat
  stepClasses : Nat
  powerW : Nat
  basisChannels : Nat
  basisPorts : Nat
  reckMask : Nat
  cartMask : Nat
  regions : Nat
  seqSlots : Nat
  granaryBins : Nat
  hbmPages : Nat
  members : Nat
  planCores : Nat
  logicalCores : Nat
  sramKib : Nat
  orderFree : Bool
  strict : Bool
  interleave : Bool
  deriving DecidableEq, Repr

/-- A plan image as the module reads it. -/
structure PlanImage where
  hdr : PlanHeader
  classes : List StepClass
  /-- every entry of the STEPS section keeps the layout of 09 R199 -/
  stepsWhole : Bool
  services : List Service
  cores : List CoreProgram
  pages : List PageDecl
  /-- read-only mark of each granary bin -/
  bins : List Bool
  regions : List RegionDecl
  handles : List HandleDecl
  cartDesc : List Bytes
  /-- cart of each cart descriptor (06 R134), reckoner of each reckoner descriptor (07 R163) -/
  cartOf : List Nat
  reckOf : List Nat
  reckClasses : List ClassDecl
  reckDesc : List Bytes
  collDesc : List Bytes
  /-- participant array (12 R271) -/
  collParts : List Nat
  /-- owning plan core of each cart and reckoner by instance number -/
  cartOwner : List (Nat × Nat)
  reckOwner : List (Nat × Nat)
  /-- owning plan core and CAP of each sequence slot -/
  seqOwner : List (Nat × Nat)
  /-- (RESOURCE, SHARE) -/
  shares : List (Nat × Nat)
  tallies : List TallyEntry
  watches : List WatchEntry
  ratios : List RatioEntry
  deriving DecidableEq, Repr

/-- A request that a plan holds, accepted or deferred (10 R227-R233). -/
structure Req where
  ring : Nat
  service : Nat
  /-- enqueue bell t -/
  enqueued : Bell
  input : Bytes
  /-- slot, and lane within it; a deferred best-effort request has no lane until it is taken -/
  slot : Option Nat
  lane : Nat
  /-- session, and the host's own tag of the frame, to reply with -/
  session : Nat
  tag : Nat
  /-- replays charged to the present service window (09 R211) -/
  replays : Nat
  /-- steps of the request committed so far -/
  steps : Nat
  /-- physical sequence slot bound to a STREAM request (09 R214) -/
  seq : Option Nat
  /-- CL of that slot when the present window began -/
  clStart : Nat
  deriving DecidableEq, Repr

/-- STATE of ST_JOB (13 R305). -/
inductive JobState where
  | none | installed | armed | running | fenced | wiping
  deriving DecidableEq, Repr

/-- The run of a slot of a service (10 R225-R233). -/
structure SlotRun where
  service : Nat
  slot : Nat
  /-- the last step has committed -/
  ended : Bool
  /-- planned end -/
  endBell : Bell
  /-- a layer of the slot was widened (15 R361) -/
  widened : Bool
  /-- at the end of a window: (physical sequence slot, positions committed in it) (10 R227) -/
  carried : List (Nat × Nat)
  deriving DecidableEq, Repr

/-- An entry of the tally history (14 R330). -/
structure TallyRec where
  t1 : Nat
  t0 : Nat
  step : Nat
  layer : Nat
  cls : Nat
  job : Nat
  member : Nat
  deriving DecidableEq, Repr

/-- The nodes of a job's double tree that this module is, and the votes it awaits there (09 R203; 12 R269). -/
structure TreeNode where
  parent : Option Nat
  children : List Nat
  /-- votes taken: (member, vote) -/
  got : List (Nat × Vote)
  sent : Bool
  deriving DecidableEq, Repr

/-- A loaded plan (01 R20, R21; 09 R196-R207). -/
structure Plan where
  img : PlanImage
  digest : Nat
  listIndex : Nat
  /-- logical core of each plan core (09 R197) -/
  logical : List (Fin 512)
  /-- (window, frame) of each page -/
  frames : List (Nat × Nat)
  bins : List Nat
  seqs : List Nat
  regionEntries : List Nat
  /-- zero fill of its frames is done (08 R174) -/
  filled : Bool
  draining : Bool
  /-- weight packages loaded: (object digest, DEST, PAYLOAD_BYTES) -/
  packages : List (Nat × Nat × Nat)
  /-- the job hold (13 R305, R306) -/
  jobId : Nat
  member : Nat
  members : Nat
  memberPlaces : List Nat
  twin : Bool
  jobState : JobState
  launchBell : Option Bell
  goHeld : Bool
  /-- answers to ARM taken at this node: (tree B, source member, message code, member it names) (13 R306) -/
  answers : List (Bool × Nat × Nat × Nat)
  teardownCause : Option Nat
  teardownBell : Bell
  /-- step number, attempt, class, and the bell at which the attempt opened (09 R198) -/
  step : Nat
  attempt : Nat
  cls : Nat
  openBell : Bell
  /-- a step is open -/
  stepOpen : Bool
  /-- REOPEN_BELL awaited after an early replay -/
  reopenBell : Option Bell
  /-- the step has been replayed -/
  replayed : Bool
  replayCause : Nat
  /-- the module's vote of the attempt has been sent -/
  voteSent : Bool
  earlySent : Bool
  /-- a mill has marked a chunk of the step corrupt (12 R283, R284) -/
  corruptMark : Bool
  /-- MILL0, MILL1 have recorded a corrupt chunk of the step (12 R294) -/
  foundBy : Bool × Bool
  /-- occurrences of a collective descriptor that have ended here in the attempt (12 R272) -/
  occs : List (Nat × Nat)
  /-- the result that this module, as root or only member, has formed (09 R203) -/
  ownResult : Option (Vote × Nat)
  /-- votes that came ahead of the attempt they belong to: (tree B, member, vote) -/
  heldVotes : List (Bool × Nat × Vote)
  treeA : TreeNode
  treeB : TreeNode
  /-- highest attempt seen for the current step (09 R206) -/
  highest : Nat
  tallies : List (Nat × Nat)
  history : List TallyRec
  widen : BitVec 64
  widenCkpt : BitVec 64
  /-- level changes made at the open of this attempt: (watch, old class, new class) -/
  raised : List (Nat × Nat × Nat)
  slotWidened : Bool
  /-- the twin's next result is a stop (13 R314) -/
  twinStop : Option Nat
  /-- the job has launched on this module -/
  launched : Bool
  /-- grid origin G (10 R225) -/
  gridBell : Bell
  /-- the slots of each service: next to open -/
  nextSlot : List Nat
  runs : List SlotRun
  requests : List Req
  deriving DecidableEq, Repr

/-! ### Host link (15 R347; 17 R382-R394) -/

/-- What a weight package's segments have written, and the package's own fields (15 R349, R350). -/
structure PackageLoad where
  plan : Fin 16
  objectDigest : Nat
  objectBytes : Nat
  dest : Nat
  payload : Nat
  /-- bytes written so far -/
  written : Nat
  /-- content key, in the warden; no command reads it -/
  key : Nat
  deriving DecidableEq, Repr

/-- A bulk transfer of a session (17 R389), or a fetch (16 R377). -/
structure Transfer where
  /-- 1 plan image, 2 weight package, 3 flash write -/
  target : Nat
  device : Nat
  region : Nat
  total : Nat
  data : Mem
  /-- ranges received: (offset, bytes) -/
  got : List (Nat × Nat)
  package : Option PackageLoad
  /-- the code with which the transfer has already failed -/
  failed : Option Nat
  deriving DecidableEq, Repr

/-- An open session (15 R347; 17 R390, R394). -/
structure Session where
  id : Nat
  /-- 0 owner, 1 operator, 2 auditor -/
  role : Nat
  /-- principal entry; none for an owner -/
  principal : Option Nat
  digest : Nat
  sticky : Bool
  lastBell : Bell
  transfer : Option Transfer
  /-- session keys, in the host link; no command reads them -/
  keyIn : Nat
  keyOut : Nat
  framesIn : Nat
  framesOut : Nat
  deriving DecidableEq, Repr

/-- A handshake that waits for KEY (15 R347). -/
structure Shake where
  tag : Nat
  role : Nat
  keyBlock : Bytes
  np : Bytes
  nm : Bytes
  deriving DecidableEq, Repr

/-- An attention record (17 R393). -/
structure AttnRec where
  seq : Nat
  code : Nat
  detail : Nat
  bell : Bell
  deriving DecidableEq, Repr

structure HostLink where
  up : Bool
  lastBell : Bell
  attnCode : Nat
  attnSeq : Nat
  attn : List AttnRec
  sessions : List Session
  shakes : List Shake
  deriving DecidableEq, Repr

/-! ### Admission (10 R222-R237) -/

structure Admission where
  capW : Nat
  /-- (ring, budget window, accepted in it) -/
  ringUse : List (Nat × Nat × Nat)
  /-- 08 R183: a stack has read above the ceiling, and not every stack at least 3 °C below it since -/
  stackHot : Bool
  /-- 19 R422: die sensors above 105 °C, with their readings below 102 °C in a row -/
  hotDies : List (Nat × Nat)
  /-- 19 R421: V_f above 0.85 V on a core rail -/
  railThermal : Bool
  /-- 10 R235 second case, and the averages at least 3 % below the cap in a row -/
  powerLimited : Bool
  powerClear : Nat
  railAtFloor : Bool
  /-- refusals of the current second: by code, and by ring -/
  secondStart : Bell
  byCode : List (Nat × Nat)
  byRing : List (Nat × Nat)
  deriving DecidableEq, Repr

/-! ### Fabric (11 R242-R268) -/

/-- A frame that waits at a port, with the port on which it arrived (11 R252). -/
structure Queued where
  frame : Frame
  arrival : Option (Fin 32)
  deriving DecidableEq, Repr

/-- A frame sent and not acknowledged (11 R249, R250): its count on the link, its sealed content and tag, the bell at which
it was last sent, and its replays. -/
structure Sent where
  count : Nat
  frame : Frame
  arrival : Option (Fin 32)
  body : Bytes
  bell : Bell
  tries : Nat
  deriving DecidableEq, Repr

/-- A fabric port (11 R243-R250). -/
structure Port where
  peerPlace : BitVec 22
  peerPort : BitVec 5
  laneMask : BitVec 4
  width : BitVec 2
  /-- 0 down, 1 training, 2 up, 3 failed -/
  state : BitVec 2
  secure : Bool
  retrains : Nat
  replays : Nat
  /-- frames sent on this direction; the highest received in sequence -/
  txCount : Nat
  rxCount : Nat
  /-- sent and not acknowledged, oldest first -/
  replayBuf : List Sent
  /-- frames that wait, oldest first -/
  queue : List Queued
  /-- grants since the last of class 1, and of class 2, while one waits (01 R29) -/
  since1 : Nat
  since2 : Nat
  /-- frame buffers at the peer, by class -/
  credits : Vector Nat 3
  /-- session keys; no command reads them -/
  keyTx : Nat
  keyRx : Nat
  /-- transmit and receive bells of the last TIME frames (11 R267) -/
  timeSent : Bell
  timeReceived : Bell
  /-- payload bytes sent and received in this bandwidth window, and the last completed window with its number (18
  R405) -/
  bwTx : Nat
  bwRx : Nat
  bwLast : Nat × Nat × Nat
  /-- bell at which the port last trained (11 R244) -/
  lastTrain : Bell
  counters : Vector Counter 4
  deriving DecidableEq, Repr

/-- A slot of a replay cache (11 R263): sequence number, reply status and data, bell of the decision. -/
structure CacheSlot where
  seq : BitVec 16
  status : Nat
  data : Bytes
  bell : Bell
  deriving DecidableEq, Repr

/-- The replay cache of one source on one fabric die (11 R263). -/
structure ReplayCache where
  die : Nat
  job : Nat
  place : BitVec 22
  core : BitVec 10
  slots : List CacheSlot
  deriving DecidableEq, Repr

structure Endpoint where
  caches : List ReplayCache
  /-- first frames that wait for their CONTINUE, with the bell of arrival (11 R256) -/
  halves : List (Frame × Bell)
  /-- requests that wait for a replay cache (11 R263) -/
  waiting : List (Frame × Bytes)
  /-- drops since the last summary: (reason, job, count) (11 R253), and the second in which they fell -/
  drops : List (Nat × Nat × Nat)
  dropStart : Bell
  /-- key refusals: (source place, region entry, interval, count) (11 R268) -/
  keyRefusals : List (Nat × Nat × Nat × Nat)
  deriving DecidableEq, Repr

/-! ### The reeve (13 R295-R316) -/

/-- A control message that awaits its answer (13 R316). -/
structure ControlWait where
  dst : List Nat
  msg : Nat
  job : Nat
  seq : Nat
  arg : Nat
  content : Bytes
  sent : Bell
  /-- places whose answer is missing -/
  awaits : List Nat
  deriving DecidableEq, Repr

/-- A control message: destination places, code, job, SEQ, ARG and what follows the header (13 R316). -/
structure ControlMsg where
  dst : List Nat
  msg : Nat
  job : Nat
  seq : Nat
  arg : Nat
  content : Bytes
  deriving DecidableEq, Repr

/-- A message that this module has acted on: its sender's place, JOB_ID, MSG, SEQ, the tree on which it came, and the answer
once it has gone (13 R316). -/
structure Acted where
  sender : Nat
  job : Nat
  msg : Nat
  seq : Nat
  treeB : Bool
  answer : Option ControlMsg
  deriving DecidableEq, Repr

structure Reeve where
  /-- this module runs the reeve: 0 no, 1 primary, 2 standby -/
  role : Nat
  /-- (place, grade, logical cores) of joined modules -/
  joined : List (Nat × Nat × Nat)
  jobs : List ReeveJob
  /-- removed job ids and the bell of their last ROUTE_REMOVED -/
  lapsing : List (Nat × Bell)
  lastBeat : Bell
  hasStandby : Bool
  waits : List ControlWait
  /-- twin: (side B, job, step, tally, bell) -/
  tallies : List (Bool × Nat × Nat × Nat × Bell)
  deriving DecidableEq, Repr

/-! ### Security (15 R341-R356) -/

structure Fuses where
  vendorRoot : Nat
  /-- (state 0 empty, 1 active, 3 revoked; key digest) -/
  slots : Vector (Nat × Nat) 4
  fwSvn : BitVec 6
  cfgSeq : BitVec 24
  listSeq : BitVec 24
  keysErased : Bool
  claimPermit : Bool
  identityDigest : Nat
  deriving DecidableEq, Repr

/-! ### Power, sensors and start (16 R366, R376-R378; 18 R403-R408; 19 R411-R428) -/

structure Rail where
  /-- setting in mV; 0 while off -/
  mv : Nat
  onLocalSense : Bool
  deriving DecidableEq, Repr

structure Power where
  inputOk : Bool
  fuseOpen : Bool
  reversed : Bool
  rails : Vector Rail 16
  /-- power flags byte (19 R423) -/
  flags : BitVec 8
  /-- core rails stand below the voltage of R234 under over-power (R414) -/
  overPower : Bool
  /-- consecutive readings above the stop limit by die sensor and by stack (R422) -/
  dieStop : Vector Nat 64
  stackStop : Vector Nat 16
  /-- number of the last millisecond whose average has been judged (10 R235) -/
  msWindow : Nat
  /-- readings in a row above 4,300 W (R414) -/
  surgeTicks : Nat
  /-- a control rail was shorted: dark until the input is removed (R418) -/
  dark : Bool
  deriving DecidableEq, Repr

structure Sensors where
  die : Vector (BitVec 16) 64
  stack : Vector (BitVec 16) 16
  /-- per stack: readings in a row at least 3 °C below 85 °C, and below 95 °C (08 R181) -/
  stackCool : Vector (Nat × Nat) 16
  rates : Vector (BitVec 16) 32
  input : Vector (BitVec 16) 3
  railV : Vector (BitVec 16) 16
  railA : Vector (BitVec 16) 16
  bell : Bell
  /-- the running 100 ms window: its number, samples, and sums of input voltage, power, rail voltages and currents -/
  window : Nat
  samples : Nat
  sums : List Nat
  /-- the averages of the last completed window -/
  averages : List Nat
  deriving DecidableEq, Repr

/-- An orderly restart in progress (16 R378). -/
structure Draining where
  session : Nat
  since : Bell
  /-- index of the SHUTDOWN record whose acknowledgement is awaited, and the bell of the record -/
  shutdown : Option (Nat × Bell)
  deriving DecidableEq, Repr

/-- An autostart run (16 R376): the entry in hand and its stage (0 none runs, 1 plan, 2 weights), the bell of READY, the
fetch in hand with its source place and the bell of its last data (none while it waits for JOIN_ACK), and the packages
loaded for the entry. -/
structure Autostart where
  next : Nat
  /-- 0 between entries; 1 and 2 the source is asked for the plan or the weights; 3 the plan waits for its window to be formed
  again; 4 the weights wait for the plan's zero fill -/
  stage : Nat
  readyBell : Bell
  fetch : Option (Nat × Transfer × Bell)
  packages : Nat
  deriving DecidableEq, Repr

structure Mgmt where
  staging : Option (Nat × Transfer)
  lastRestart : Option Bell
  deriving DecidableEq, Repr

/-- A substitution in progress (09 R218): fenced core, spare, logical core, plan. -/
structure Substitution where
  fenced : CoreId
  spare : CoreId
  logical : Fin 512
  plan : Fin 16
  deriving DecidableEq, Repr

/-- Counters of units other than cores, the pending freeze, the snapshot and the bandwidth window (18 R397-R405). -/
structure Counting where
  channels : Vector (Vector Counter 4) 256
  mills : Vector (Vector Counter 8) 2
  control : Vector Counter 16
  freeze : Option Bell
  snapshot : Option (Bell × List (BitVec 64))
  bwWindow : Nat
  /-- a new length, and the number of the first window that has it -/
  bwNext : Option (Nat × Nat)
  /-- number of the window that runs -/
  bwNumber : Nat
  /-- per channel: the last completed window's number, bytes read and bytes written; how many lines an access takes is
  not given, so the counts are free values (notes/assumptions/25.md) -/
  bwLast : Vector (Nat × Nat × Nat) 256
  /-- corrected errors of the interval, in the order of the 0x0807 record (20 R441, R446) -/
  corrected : Vector Nat 7
  correctedStart : Bell
  deriving DecidableEq, Repr

/-- Test access (19 R428): the instruction register. -/
structure TestAccess where
  ir : BitVec 8
  /-- vendor debug is open (15 R356) -/
  debugOpen : Bool
  /-- the data register last shifted out: (bits, value) -/
  tdo : Nat × Nat
  deriving DecidableEq, Repr

/-! ### Journal (15 R357-R359) -/

/-- A journal record (15 R357). -/
structure JRecord where
  index : Nat
  bell : Bell
  type : Nat
  job : Nat
  member : Nat
  plan : Nat
  payload : Bytes
  chain : Bytes
  deriving DecidableEq, Repr

/-- A signed checkpoint (15 R358). -/
structure JCheckpoint where
  index : Nat
  bell : Bell
  chain : Bytes
  signature : Nat
  deriving DecidableEq, Repr

structure Journal where
  /-- unacknowledged records, oldest first -/
  records : List JRecord
  next : Nat
  chain : Bytes
  checkpoints : List JCheckpoint
  /-- 0 below the limits, 1 at 90 %, 2 at 99 % -/
  mode : Nat
  deriving DecidableEq, Repr

/-! ### Outputs -/

/-- What the module sends: the block's outputs, oldest first. -/
inductive Out where
  /-- a CONTROL message (13 R316) -/
  | control (m : ControlMsg)
  /-- a change of the job table to the standby: the job's entry, none once it has left (13 R299) -/
  | mirror (dst job : Nat) (entry : Option ReeveJob)
  /-- a job that side A's reeve asks side B's to check and install (13 R312): job id, plan digest, members -/
  | twinJob (dst job digest members : Nat)
  /-- side B's answer to it: 0, or the code of the check that failed (13 R312) -/
  | twinAnswer (dst job code : Nat)
  /-- a far request (11 R255), with the bell of this copy -/
  | farRequest (place : BitVec 22) (job : Nat) (srcCore : Nat) (op : FarOp) (issueBell : Bell)
  /-- a reply of the endpoint (11 R255): destination, job, core, SEQ, class, status, step, attempt, data -/
  | farReply (place : BitVec 22) (job : Nat) (core : BitVec 10) (seq : BitVec 16) (cls : BitVec 2)
      (status step attempt : Nat) (data : Bytes)
  /-- a vote to the parent in tree A or B: vote word and tally partial (09 R203; 13 R313) -/
  | vote (treeB : Bool) (dst : Nat) (word : BitVec 64) (t0 t1 : Nat)
  /-- a result to a child: vote word, REOPEN_BELL and domain tally (09 R202; 13 R313) -/
  | result (treeB : Bool) (dst : Nat) (word reopen : BitVec 64) (t0 t1 : Nat)
  /-- frames of a chunk to a member (12 R279): job, destination member, chunk frame -/
  | chunk (job : Nat) (dst : Nat) (frame : Frame)
  /-- a message of the host link: session, KIND, tag, status word, content after it, and RING of a reply to an ENQUEUE
  (17 R385, R386) -/
  | host (session kind tag statusWord : Nat) (content : Bytes) (ring : Nat := 0)
  /-- a reply of the management port: status and content (18 R407) -/
  | mgmt (status : Nat) (content : Bytes)
  /-- the primary reports its restart to the standby; the message's code is not given (13 R299) -/
  | restartReport (dst : Nat)
  /-- the 256 bytes of a frame sent on a port (11 R246) -/
  | port (p : Fin 32) (wire : Bytes)
  /-- what a port in training sends (15 R348): the certificates and nonce, then the encrypted half-secret and its
  signature -/
  | trainCerts (p : Fin 32) (identity transport nonce : Bytes)
  | trainSecret (p : Fin 32) (secret signature : Bytes)
  /-- an IDLE frame: acknowledgement, NAK, class and number of credits returned (11 R249) -/
  | idle (p : Fin 32) (ack : Nat) (nak : Bool) (cls credits : Nat)
  /-- a frame handed to this module's endpoint, mill or control cores (11 R252) -/
  | deliver (frame : Frame)
  /-- the input current is cut: the electronic fuse opens (19 R413) -/
  | fuse
  deriving DecidableEq, Repr

/-! ### The module -/

/-- MODULE_STATE of the status word (17 R390) and the dark module (19 R411). -/
inductive ModState where
  | off | starting | ready | draining | stopped | halted
  deriving DecidableEq, Repr

/-- Start status, identity and the module's own modes (16 R367, R375). -/
structure ModInfo where
  state : ModState
  /-- step of the start sequence, 10 once sealed -/
  startStep : Nat
  failCode : Nat
  elapsedMs : Nat
  startCount : Nat
  grade : BitVec 4
  stepping : BitVec 4
  listAbsent : Bool
  listFl1 : Bool
  cfgFl1 : Bool
  fwFl1 : Bool
  /-- the 512-bit XTS key of this start; zero before it is made (08 R177) -/
  hbmKey : Nat
  deriving DecidableEq, Repr

/-- Membership of the domain (13 R297-R299). -/
structure DomainState where
  joined : Bool
  bellSet : Bool
  primary : Nat
  standby : Nat
  deriving DecidableEq, Repr

/-- The health record in force, and entries still to be written to flash (16 R371). -/
structure HealthRec where
  generation : Nat
  startCount : Nat
  entries : List Nat
  pending : List Nat
  deriving DecidableEq, Repr

/-! ### The state -/

structure State where
  /-- commands waiting, first in first out -/
  pending : List Instr
  bell : Bell
  bellRunning : Bool
  /-- the model's own: number of the next free value (notes/assumptions/4.md) -/
  free : Nat
  cores : Vector Core 576
  coreMap : Vector CoreUse 576
  logicalCount : Nat
  hbm : Mem
  /-- lines (window address / 64) that read uncorrectable -/
  hbmBad : List Nat
  channels : Vector Channel 256
  bins : Vector Bin 512
  carts : Vector Cart 32
  recks : Vector Reck 32
  mills : Vector Mill 2
  colls : List Coll
  granary : Vector GranaryDie 2
  plans : Vector (Option Plan) 16
  seqSlots : Vector SeqSlot 64
  journal : Journal
  out : List Out
  mod : ModInfo
  domain : DomainState
  /-- the sealed configuration body by byte offset (16 R369) -/
  cfg : Mem
  health : HealthRec
  /-- windows whose re-formed zero fill is running (08 R185 order 5) -/
  reforming : List Nat
  /-- the frozen tally history (14 R330) -/
  frozen : List TallyRec
  /-- substitutions whose copy runs (09 R218) -/
  subs : List Substitution
  host : HostLink
  adm : Admission
  ports : Vector Port 32
  routes : Vector RouteEntry 8192
  regions : Vector RegionEntry 4096
  endpoint : Endpoint
  /-- measured offset of the bell from the time source, and the ticks of its own reference since the bell was last
  steered (11 R267) -/
  timeError : Int
  steerTicks : Nat
  reeve : Reeve
  /-- the number of this module's next control message, by job id, and the messages it has acted on (13 R316) -/
  controlSeq : List (Nat × Nat)
  acted : List Acted
  meas : Vector Bytes 16
  fuses : Fuses
  /-- the allowed-plan list in force: (plan digest, RECEIPT_MASK) (15 R345) -/
  allowed : List (Nat × Nat)
  /-- FL0 and FL1 (16 R363) -/
  flash : Vector Mem 2
  power : Power
  sensors : Sensors
  draining : Option Draining
  autostart : Autostart
  mgmt : Mgmt
  counting : Counting
  tap : TestAccess
  deriving DecidableEq, Repr

/-! ### Reset -/

def Regs.reset : Regs where
  s := .replicate 32 0
  a := .replicate 16 0
  k := (Vector.replicate 8 0).set 0 (BitVec.allOnes 4096)
  l := .replicate 4 0
  v := .replicate 64 0
  t := .replicate 8 0

def RealAcc.empty : RealAcc := ⟨0, false, false, false, false, false, false⟩

def Ckpt.reset : Ckpt where
  s := .replicate 32 0
  a := .replicate 16 0
  l := .replicate 4 0
  dc := .replicate 16 0
  loops := []
  bundle := 0
  fromS := []

def AddrSide.reset : AddrSide where
  a := .replicate 16 0
  l := .replicate 4 0
  bundle := 0
  loops := []
  synced := false
  buffer := []

def FaultRec.reset : FaultRec := ⟨0, 0, 0, 0, 0, 0, 0, 0, 0, 0⟩
def Counter.reset : Counter := ⟨0, false, false, 0⟩
def TopDown.reset : TopDown := ⟨0, 0, 0, 0, 0⟩

def Core.reset : Core where
  regs := Regs.reset
  dc := .replicate 16 0
  fh := .replicate 64 ⟨0, 0, 0⟩
  ra01 := .replicate 2 RealAcc.empty
  ra23 := .replicate 2 0
  subFlush := false
  flagsCommitted := 0
  flagsStep := 0
  route := 0
  plain := false
  plainBank := 0
  plan := none
  planCore := 0
  run := .idle
  bundle := 0
  loops := []
  view := none
  slotX := false
  slotV := false
  slotM := false
  flagSeen := false
  ckpt := Ckpt.reset
  candidate := none
  moves := []
  copies := []
  issued := []
  far := []
  nextSeq := 0
  nextId := 0
  openId := 0
  openFlags := 0
  closed := 0
  fromS := []
  work := 0
  ahead := AddrSide.reset
  fault := FaultRec.reset
  replayVote := false
  fired := []
  ratio := []
  ratioLost := false
  chains := []
  sram := []
  sramBad := []
  sramUncorrectable := 0
  sramCorrected := (0, 0)
  sramLostStep := none
  counters := .replicate 8 Counter.reset
  topDown := TopDown.reset

def Plough.reset : Plough := ⟨0, 0, (0, 0), 0, false, 0, 0, 0, []⟩
def Channel.reset : Channel := ⟨0, 0, 0, none, 0, 0, true, true, Plough.reset⟩
def Bin.reset : Bin := ⟨[], [], [], true, none⟩
def Cart.reset : Cart := ⟨none, none, [], 0, 0, true, 0⟩
def Reck.reset : Reck := ⟨none, none, [], 0, 0, true, 0⟩
def Mill.reset : Mill := ⟨0, 0, 0, true, 0⟩
def SeqSlot.reset : SeqSlot := ⟨0, 0, false, none, 0, 0, 0, 0, 0, false⟩
def Journal.reset : Journal := ⟨[], 0, [], [], 0⟩

def ModInfo.reset : ModInfo := ⟨.off, 0, 0, 0, 0, 0, 0, false, false, false, false, 0⟩
def HostLink.reset : HostLink := ⟨false, 0, 0, 0, [], [], []⟩
def Admission.reset : Admission := ⟨0, [], false, [], false, false, 0, false, 0, [], []⟩
def Port.reset : Port where
  peerPlace := 0
  peerPort := 0
  laneMask := 0
  width := 0
  state := 0
  secure := false
  retrains := 0
  replays := 0
  txCount := 0
  rxCount := 0
  replayBuf := []
  queue := []
  since1 := 0
  since2 := 0
  credits := .replicate 3 64
  keyTx := 0
  keyRx := 0
  timeSent := 0
  timeReceived := 0
  bwTx := 0
  bwRx := 0
  bwLast := (0, 0, 0)
  lastTrain := 0
  counters := .replicate 4 ⟨0x300, false, false, 0⟩
def RouteEntry.reset : RouteEntry := ⟨0, 0, 0, 0, false⟩
def RegionEntry.reset : RegionEntry := ⟨0, 0, 0, 0, 0, false, false, false, false, false, 0, 0, false⟩
def Fuses.reset : Fuses := ⟨0, .replicate 4 (0, 0), 0, 0, 0, false, false, 0⟩
def Power.reset : Power := ⟨false, false, false, .replicate 16 ⟨0, false⟩, 0, false, .replicate 64 0, .replicate 16 0, 0, 0, false⟩
def Sensors.reset : Sensors :=
  ⟨.replicate 64 0, .replicate 16 0, .replicate 16 (0, 0), .replicate 32 0, .replicate 3 0, .replicate 16 0, .replicate 16 0, 0, 0, 0, [], []⟩
def Counting.reset : Counting where
  channels := .replicate 256 (.replicate 4 ⟨0x200, false, false, 0⟩)
  mills := .replicate 2 (.replicate 8 ⟨0x380, false, false, 0⟩)
  control := .replicate 16 ⟨0x400, false, false, 0⟩
  freeze := none
  snapshot := none
  bwWindow := 1000000
  bwNext := none
  bwNumber := 0
  bwLast := .replicate 256 (0, 0, 0)
  corrected := .replicate 7 0
  correctedStart := 0

def State.reset : State where
  pending := []
  bell := 0
  bellRunning := false
  free := 0
  cores := .replicate 576 Core.reset
  coreMap := .replicate 576 .spare
  logicalCount := 0
  hbm := []
  hbmBad := []
  channels := .replicate 256 Channel.reset
  bins := .replicate 512 Bin.reset
  carts := .replicate 32 Cart.reset
  recks := .replicate 32 Reck.reset
  mills := .replicate 2 Mill.reset
  colls := []
  granary := .replicate 2 ⟨0, 0⟩
  plans := .replicate 16 none
  seqSlots := .replicate 64 SeqSlot.reset
  journal := Journal.reset
  out := []
  mod := ModInfo.reset
  domain := ⟨false, false, 0, 0⟩
  cfg := []
  health := ⟨0, 0, [], []⟩
  reforming := []
  frozen := []
  subs := []
  host := HostLink.reset
  adm := Admission.reset
  ports := .replicate 32 Port.reset
  routes := .replicate 8192 RouteEntry.reset
  regions := .replicate 4096 RegionEntry.reset
  endpoint := ⟨[], [], [], [], 0, []⟩
  timeError := 0
  steerTicks := 0
  reeve := ⟨0, [], [], [], 0, false, [], []⟩
  controlSeq := []
  acted := []
  meas := .replicate 16 (List.replicate 64 0)
  fuses := Fuses.reset
  allowed := []
  flash := .replicate 2 []
  power := Power.reset
  sensors := Sensors.reset
  draining := none
  autostart := ⟨16, 0, 0, none, 0⟩
  mgmt := ⟨none, none⟩
  counting := Counting.reset
  tap := ⟨1, false, (0, 0)⟩

end Sys2Proof.Machine
end

