-- ==== Sys2Proof/Machine/Crypto.lean ====
section
/-! DEFINITION. The ciphers and signatures that the specification names: AES-256 (FIPS 197), its GCM (SP 800-38D; 11 R250,
15 R347-R349) and XTS (IEEE 1619; 08 R177) modes, and RSA with OAEP and PSS over SHA-512 (PKCS #1; 15 R343, R347-R349). The
constants and procedures are the standards' (notes/assumptions/8.md). -/

namespace Sys2Proof.Machine
open Sys2Proof

/-! ### AES-256 -/

/-- The S-box, sixteen bytes to a number, least significant first. -/
def aesSBoxRows : List Nat :=
  [0x76ABD7FE2B670130C56F6BF27B777C63, 0xC072A49CAFA2D4ADF04759FA7DC982CA,
   0x1531D871F1E5A534CCF73F362693FDB7, 0x75B227EBE28012079A059618C323C704,
   0x842FE329B3D63B52A05A6E1B1A2C8309, 0xCF584C4A39BECB6A5BB1FC20ED00D153,
   0xA89F3C507F02F94585334D43FBAAEFD0, 0xD2F3FF1021DAB6BCF5389D928F40A351,
   0x73195D643D7EA7C41744975FEC130CCD, 0xDB0B5EDE14B8EE4688902A22DC4F8160,
   0x79E4959162ACD3C25C2406490A3A32E0, 0x08AE7A65EAF4566CA94ED58D6D37C8E7,
   0x8A8BBD4B1F74DDE8C6B4A61C2E2578BA, 0x9E1DC186B95735610EF6034866B53E70,
   0xDF2855CEE9871E9B948ED9691198F8E1, 0x16BB54B00F2D99416842E6BF0D89A18C]

def aesSub (b : Nat) : Nat := aesSBoxRows.getD (b / 16) 0 / 256 ^ (b % 16) % 256

/-- Byte `r` of a word, most significant first, and a word of four bytes. -/
def wordByte (w r : Nat) : Nat := w / 256 ^ (3 - r) % 256
def wordOf (a b c d : Nat) : Nat := a * 2 ^ 24 + b * 2 ^ 16 + c * 2 ^ 8 + d

def aesSubWord (w : Nat) : Nat :=
  wordOf (aesSub (wordByte w 0)) (aesSub (wordByte w 1)) (aesSub (wordByte w 2)) (aesSub (wordByte w 3))

/-- Multiply by x modulo x^8 + x^4 + x^3 + x + 1. -/
def aesTimes2 (a : Nat) : Nat := if a < 128 then 2 * a else Nat.xor (2 * a) 0x11B

/-- Round-key words from the `i`-th on, from the eight last ones, newest first. -/
def aesExpand : Nat → Nat → Nat → List Nat → List Nat
  | 0, _, _, _ => []
  | n + 1, i, rcon, w =>
    let t := w.getD 0 0
    let t := if i % 8 = 0 then Nat.xor (aesSubWord (t % 2 ^ 24 * 2 ^ 8 + t / 2 ^ 24)) (rcon * 2 ^ 24)
      else if i % 8 = 4 then aesSubWord t else t
    let x := Nat.xor (w.getD 7 0) t
    x :: aesExpand n (i + 1) (if i % 8 = 0 then aesTimes2 rcon else rcon) (x :: w.take 7)

/-- The words of a byte string, most significant byte first. -/
def beWords : Nat → Bytes → List Nat
  | 0, _ => []
  | n + 1, b => beNat (b.take 4) :: beWords n (b.drop 4)

/-- The 60 round-key words of a 32-byte key. -/
def aesKeys (key : Bytes) : List Nat :=
  let w := beWords 8 key
  w ++ aesExpand 52 8 1 w.reverse

/-- A column after MixColumns. -/
def aesMix (a b c d : Nat) : Nat :=
  let row (a b c d : Nat) : Nat := Nat.xor (Nat.xor (aesTimes2 (Nat.xor a b)) b) (Nat.xor c d)
  wordOf (row a b c d) (row b c d a) (row c d a b) (row d a b c)

/-- SubBytes, ShiftRows, MixColumns but in the last round, and AddRoundKey. -/
def aesRound (last : Bool) (st rk : List Nat) : List Nat :=
  (List.range 4).map (fun c =>
    let b (r : Nat) : Nat := aesSub (wordByte (st.getD ((c + r) % 4) 0) r)
    Nat.xor (if last then wordOf (b 0) (b 1) (b 2) (b 3) else aesMix (b 0) (b 1) (b 2) (b 3)) (rk.getD c 0))

/-- The rounds that the remaining round keys give. -/
def aesRounds : Nat → List Nat → List Nat → List Nat
  | 0, st, _ => st
  | n + 1, st, rk => aesRounds n (aesRound (n == 0) st (rk.take 4)) (rk.drop 4)

/-- Encrypt a 16-byte block, as numbers with the first byte most significant. -/
def aesBlock (rk : List Nat) (block : Nat) : Nat :=
  let st := (List.range 4).map (fun c => Nat.xor (block / 2 ^ (96 - 32 * c) % 2 ^ 32) (rk.getD c 0))
  (aesRounds 14 st (rk.drop 4)).foldl (fun a w => a * 2 ^ 32 + w) 0

def xorBytes (a b : Bytes) : Bytes := List.zipWith (· ^^^ ·) a b

/-! ### GCM -/

/-- Multiply in the field of 2^128 elements, the first bit most significant: the product so far, the multiplicand, and the
bits of the multiplier that remain. -/
def ghashMulLoop : Nat → Nat → Nat → Nat → Nat
  | 0, z, _, _ => z
  | n + 1, z, v, x =>
    ghashMulLoop n (if x / 2 ^ n % 2 = 1 then Nat.xor z v else z)
      (if v % 2 = 1 then Nat.xor (v / 2) (0xE1 * 2 ^ 120) else v / 2) x

def ghashMul (x y : Nat) : Nat := ghashMulLoop 128 0 y x

/-- Blocks of 16 bytes, the last padded with zeros, as numbers. -/
def beBlocks : Nat → Bytes → List Nat
  | 0, _ => []
  | n + 1, b => if b.isEmpty then [] else beNat (b.take 16 ++ List.replicate (16 - (b.take 16).length) 0) :: beBlocks n (b.drop 16)

def ghash (h : Nat) (blocks : List Nat) : Nat := blocks.foldl (fun y x => ghashMul (Nat.xor y x) h) 0

/-- The key stream from a counter block on. -/
def gcmStream (rk : List Nat) (j0 : Nat) : Nat → Nat → Bytes
  | 0, _ => []
  | n + 1, i => beBytes 16 (aesBlock rk (j0 + i)) ++ gcmStream rk j0 n (i + 1)

/-- The tag of a ciphertext. -/
def gcmTag (rk : List Nat) (j0 : Nat) (aad cipher : Bytes) : Bytes :=
  let blocks := beBlocks (aad.length / 16 + 1) aad ++ beBlocks (cipher.length / 16 + 1) cipher
    ++ [8 * aad.length * 2 ^ 64 + 8 * cipher.length]
  beBytes 16 (Nat.xor (ghash (aesBlock rk 0) blocks) (aesBlock rk j0))

/-- Encrypt or decrypt the text alone. -/
def gcmText (rk : List Nat) (j0 : Nat) (text : Bytes) : Bytes := xorBytes text (gcmStream rk j0 (text.length / 16 + 1) 1)

/-- The counter block of a 96-bit nonce. -/
def gcmStart (nonce : Bytes) : Nat := beNat (nonce ++ [0, 0, 0, 1])

/-- AES-256-GCM: the ciphertext with its 16-byte tag. -/
def gcmSeal (key nonce aad plain : Bytes) : Bytes :=
  let rk := aesKeys key
  let c := gcmText rk (gcmStart nonce) plain
  c ++ gcmTag rk (gcmStart nonce) aad c

/-- The plaintext of a ciphertext with its tag; none where the tag fails. -/
def gcmOpen (key nonce aad cipher : Bytes) : Option Bytes :=
  let rk := aesKeys key
  let n := cipher.length - 16
  if gcmTag rk (gcmStart nonce) aad (cipher.take n) = cipher.drop n then some (gcmText rk (gcmStart nonce) (cipher.take n)) else none

/-- The nonce of frames and segments: 32 zero bits and a 64-bit count (11 R250, 15 R349), little-endian (00 R10). -/
def countNonce (count : Nat) : Bytes := leBytes 4 0 ++ leBytes 8 count

/-! ### XTS -/

/-- Multiply a tweak by alpha, the first byte least significant. -/
def xtsNext (t : Nat) : Nat := if 2 * t < 2 ^ 128 then 2 * t else Nat.xor (2 * t - 2 ^ 128) 0x87

def xtsBlocks (rk : List Nat) : Nat → Nat → Bytes → Bytes
  | 0, _, _ => []
  | n + 1, t, b =>
    let mask := leBytes 16 t
    xorBytes (beBytes 16 (aesBlock rk (beNat (xorBytes (b.take 16) mask)))) mask ++ xtsBlocks rk n (xtsNext t) (b.drop 16)

/-- AES-256-XTS of one data unit of whole blocks: the 512-bit key's first half encrypts data, its second the tweak. -/
def xtsEncrypt (key : Bytes) (tweak : Nat) (plain : Bytes) : Bytes :=
  let t := leNat (beBytes 16 (aesBlock (aesKeys (key.drop 32)) (beNat (leBytes 16 tweak))))
  xtsBlocks (aesKeys (key.take 32)) (plain.length / 16) t plain

/-! ### RSA -/

/-- Powers modulo `n`, from the low bits of the exponent. -/
def powModLoop (n : Nat) : Nat → Nat → Nat → Nat → Nat
  | 0, _, _, acc => acc
  | f + 1, b, e, acc =>
    if e = 0 then acc else powModLoop n f (b * b % n) (e / 2) (if e % 2 = 1 then acc * b % n else acc)

def powMod (n b e : Nat) : Nat := powModLoop n 4096 (b % n) e (1 % n)

/-- MGF1 with SHA-512: `n` bytes. -/
def mgf1 (seed : Bytes) (n : Nat) : Bytes :=
  ((List.range (n / 64 + 1)).flatMap (fun i => sha512 (seed ++ beBytes 4 i))).take n

/-- RSA-4096: octets, and bytes of a data block. -/
def rsaBytes : Nat := 512
def rsaBlock : Nat := rsaBytes - 65

/-- The PSS digest of a message and a salt. -/
def pssHash (msg salt : Bytes) : Bytes := sha512 (List.replicate 8 0 ++ sha512 msg ++ salt)

/-- EMSA-PSS with a 64-byte salt and the trailer 0xBC. -/
def pssEncode (msg salt : Bytes) : Bytes :=
  let h := pssHash msg salt
  let db := List.replicate (rsaBlock - 65) 0 ++ [0x01] ++ salt
  let masked := xorBytes db (mgf1 h rsaBlock)
  (masked.headD 0 &&& 0x7F) :: masked.drop 1 ++ h ++ [0xBC]

/-- EMSA-PSS verification. -/
def pssMatches (msg em : Bytes) : Bool :=
  let masked := em.take rsaBlock
  let h := (em.drop rsaBlock).take 64
  let db := xorBytes masked (mgf1 h rsaBlock)
  let db := (db.headD 0 &&& 0x7F) :: db.drop 1
  em.drop (rsaBytes - 1) == [0xBC] && (masked.headD 0).toNat < 128
    && db.take (rsaBlock - 65) == List.replicate (rsaBlock - 65) 0 && (db.drop (rsaBlock - 65)).headD 0 == 1
    && pssHash msg (db.drop (rsaBlock - 64)) == h

/-- The modulus and public exponent of a key block (15 R344). -/
def keyModulus (block : Bytes) : Nat := beNat (block.take 512)
def keyExponent (block : Bytes) : Nat := leNat ((block.drop 512).take 4)

/-- RSASSA-PSS verification: key block, message, signature. -/
def rsaVerify (block msg sig : Bytes) : Bool :=
  let n := keyModulus block
  sig.length == rsaBytes && beNat sig < n && pssMatches msg (beBytes rsaBytes (powMod n (beNat sig) (keyExponent block)))

/-- RSASSA-PSS under a modulus and private exponent, with a salt. -/
def rsaSign (n d : Nat) (msg salt : Bytes) : Bytes := beBytes rsaBytes (powMod n (beNat (pssEncode msg salt)) d)

/-- RSAES-OAEP under a key block, with a 64-byte seed and the empty label. -/
def oaepEncrypt (block msg seed : Bytes) : Bytes :=
  let db := sha512 [] ++ List.replicate (rsaBlock - 65 - msg.length) 0 ++ [0x01] ++ msg
  let masked := xorBytes db (mgf1 seed rsaBlock)
  let em := 0x00 :: xorBytes seed (mgf1 masked 64) ++ masked
  beBytes rsaBytes (powMod (keyModulus block) (beNat em) (keyExponent block))

/-- RSAES-OAEP decryption; none where the ciphertext is not well formed. -/
def oaepDecrypt (n d : Nat) (cipher : Bytes) : Option Bytes :=
  let em := beBytes rsaBytes (powMod n (beNat cipher) d)
  let masked := em.drop 65
  let seed := xorBytes ((em.drop 1).take 64) (mgf1 masked 64)
  let db := xorBytes masked (mgf1 seed rsaBlock)
  let rest := (db.drop 64).dropWhile (· == 0)
  if cipher.length == rsaBytes && beNat cipher < n && em.headD 1 == 0 && db.take 64 == sha512 [] && rest.headD 0 == 1 then
    some (rest.drop 1)
  else none

end Sys2Proof.Machine
end

