-- ==== Sys2Proof/Machine/Wire.lean ====
section
/-! DEFINITION. Frames as a fabric link carries them (11 R246-R250) and frames as the host link carries them (17
R385, R386). -/

namespace Sys2Proof.Machine
open Sys2Proof

/-! ### The frame (11 R246, R247, R249, R250) -/

/-- *Frame header field map*. -/
def frameHeader (f : Frame) : Nat :=
  f.job.toNat * 2 ^ 112 + f.dst.toNat * 2 ^ 90 + f.src.toNat * 2 ^ 68 + f.typ.toNat * 2 ^ 64 + f.cls.toNat * 2 ^ 62
    + f.srcCore.toNat * 2 ^ 52 + f.seq.toNat * 2 ^ 36 + f.more.toNat * 2 ^ 32 + f.issueBell.toNat

/-- The frame of a header and its content. -/
def frameOf (h : Nat) (content : Bytes) : Frame where
  job := BitVec.ofNat 16 (bits h 127 112)
  dst := BitVec.ofNat 22 (bits h 111 90)
  src := BitVec.ofNat 22 (bits h 89 68)
  typ := BitVec.ofNat 4 (bits h 67 64)
  cls := BitVec.ofNat 2 (bits h 63 62)
  srcCore := BitVec.ofNat 10 (bits h 61 52)
  seq := BitVec.ofNat 16 (bits h 51 36)
  more := bits h 32 32 == 1
  issueBell := BitVec.ofNat 32 (bits h 31 0)
  content := content

/-- *Link field map*. -/
def linkWord (l : LinkField) : Nat :=
  l.txSeq.toNat * 2 ^ 40 + l.ackSeq.toNat * 2 ^ 16 + l.nak.toNat * 2 ^ 15 + l.cls.toNat * 2 ^ 6 + l.credits.toNat

def linkOf (w : Nat) : LinkField :=
  ⟨BitVec.ofNat 24 (bits w 63 40), BitVec.ofNat 24 (bits w 39 16), bits w 15 15 == 1, BitVec.ofNat 2 (bits w 7 6),
   BitVec.ofNat 6 (bits w 5 0)⟩

/-- The 208 content bytes. -/
def frameContent (f : Frame) : Bytes := (f.content ++ List.replicate (208 - f.content.length) 0).take 208

/-- Bytes 16-239 of a frame with its count on the link: the content, encrypted, and the tag. -/
def sealFrame (key count : Nat) (f : Frame) : Bytes :=
  gcmSeal (leBytes 32 key) (countNonce count) (leBytes 16 (frameHeader f)) (frameContent f)

/-- The 256 bytes of a frame: header, sealed content, link field and CRC. -/
def wireOf (f : Frame) (sealed : Bytes) (l : LinkField) : Bytes :=
  let b := leBytes 16 (frameHeader f) ++ sealed ++ leBytes 8 (linkWord l)
  b ++ leBytes 8 (crc64 b)

def wireHeader (w : Bytes) : Nat := leNat (w.take 16)
def wireLink (w : Bytes) : LinkField := linkOf (leNat ((w.drop 240).take 8))
def wireCrcGood (w : Bytes) : Bool := w.length == 256 && leNat (w.drop 248) == crc64 (w.take 248)

/-- The frame with the given count in 256 bytes; none where its tag fails. -/
def openFrame (key count : Nat) (w : Bytes) : Option Frame :=
  (gcmOpen (leBytes 32 key) (countNonce count) (w.take 16) ((w.drop 16).take 224)).map (frameOf (wireHeader w))

/-! ### The host frame (17 R385, R386, R388) -/

/-- Cut bytes into runs. -/
def cutBytes (room : Nat) : Nat → Bytes → List Bytes
  | 0, _ => []
  | f + 1, b => if b.isEmpty then [] else b.take room :: cutBytes room f (b.drop room)

/-- Header and content, in clear, of a host frame. -/
structure HostFrame where
  header : Nat
  content : Bytes
  deriving DecidableEq, Repr

/-- *Host frame header field map*. -/
def hostHeader (session kind ring : Nat) (last : Bool) (part length tag : Nat) : Nat :=
  session % 2 ^ 16 * 2 ^ 112 + kind % 2 ^ 8 * 2 ^ 104 + ring % 2 ^ 14 * 2 ^ 90 + last.toNat * 2 ^ 89 + part % 2 ^ 16 * 2 ^ 64
    + length % 2 ^ 13 * 2 ^ 32 + tag % 2 ^ 32

/-- The parts of a message. Each frame of a reply begins with the status word; RING_CREDITS is no reply and holds its pairs
alone (notes/assumptions/8.md). -/
def hostFrames (session kind ring tag word : Nat) (content : Bytes) : List HostFrame :=
  let head := if 0x80 ≤ kind then leBytes 4 word else []
  let runs := if content.isEmpty then [[]] else cutBytes (4096 - head.length) (content.length / 4092 + 1) content
  runs.zipIdx.map (fun e =>
    let c := head ++ e.1
    ⟨hostHeader session kind ring (e.2 + 1 == runs.length) e.2 c.length tag, c⟩)

/-- Content and tag of a host frame on the link: the content is padded with zeros to a multiple of 16 and encrypted with
the session's key and count; a clear frame's tag is zero. -/
def sealHost (key count : Nat) (f : HostFrame) : Bytes :=
  let b := f.content ++ List.replicate ((16 - f.content.length % 16) % 16) 0
  if bits f.header 127 112 = 0 then b ++ List.replicate 16 0
  else gcmSeal (leBytes 32 key) (countNonce count) (leBytes 16 f.header) b

/-- The 48 + P bytes of a host frame: header, sealed content, link field and CRC. -/
def hostWire (f : HostFrame) (sealed : Bytes) (l : LinkField) : Bytes :=
  let b := leBytes 16 f.header ++ sealed ++ leBytes 8 (linkWord l)
  b ++ leBytes 8 (crc64 b)

end Sys2Proof.Machine
end

