-- ==== Sys2Proof/Machine/Ops.lean ====
section
/-! DEFINITION. The named operations over state: memories, configuration fields, the journal, local address translation
and access, cores and their bundles. -/

namespace Sys2Proof.Machine
open Sys2Proof

/-! ### Memories -/

/-- The byte at an address; an unlisted address reads as `d`. -/
def memGet (d : Byte) : Mem → Nat → Byte
  | [], _ => d
  | (b, w) :: t, a => if a < b then d else if a = b then w else memGet d t a

/-- Store a byte, keeping the canonical form. -/
def memSet (d : Byte) : Mem → Nat → Byte → Mem
  | [], a, v => if v = d then [] else [(a, v)]
  | (b, w) :: t, a, v =>
    if a < b then (if v = d then (b, w) :: t else (a, v) :: (b, w) :: t)
    else if a = b then (if v = d then t else (a, v) :: t)
    else (b, w) :: memSet d t a v

/-- `n` bytes from an address. -/
def memRead (d : Byte) (m : Mem) (a : Nat) : Nat → Bytes
  | 0 => []
  | n + 1 => memGet d m a :: memRead d m (a + 1) n

def memWrite (d : Byte) (m : Mem) (a : Nat) : Bytes → Mem
  | [] => m
  | b :: bs => memWrite d (memSet d m a b) (a + 1) bs

/-- Return every byte of [lo, hi) to what an unlisted address reads as. -/
def memClear (m : Mem) (lo hi : Nat) : Mem := m.filter (fun c => !(lo ≤ c.1 && c.1 < hi))

/-- The canonical form: strictly rising addresses and no entry equal to the default. -/
def memWf (d : Byte) : Mem → Bool
  | [] => true
  | [(_, w)] => w != d
  | (a, w) :: (b, v) :: t => w != d && decide (a < b) && memWf d ((b, v) :: t)

/-! ### Replies and statuses (17 R396; each chapter's codes) -/

def codeDataLost : Nat := 0x5003
def codeTargetFenced : Nat := 0x5002
def codeTargetLost : Nat := 0x5001
def codeTranslation : Nat := 0x5005
def codeMisaligned : Nat := 0x5006
def codeRefusedKey : Nat := 0x2001

/-! ### Free values -/

/-- The next free value, and the state that will give another (notes/assumptions/4.md). -/
def takeFree (s : State) : Nat × State := (Config.freeNat s.free, { s with free := s.free + 1 })

/-! ### Configuration fields (16 R369) -/

def cfgNat (s : State) (off n : Nat) : Nat := leNat (memRead 0 s.cfg off n)
def cfgPlace (s : State) : Nat := bits (cfgNat s 0 4) 21 0
/-- CFG_HBM.INTERLEAVE: true for package-interleaved (08 R171). -/
def cfgPackage (s : State) : Bool := bits (cfgNat s 8 4) 0 0 == 1

/-! ### Updates -/

def State.modCore (s : State) (c : CoreId) (f : Core → Core) : State :=
  { s with cores := s.cores.set c (f s.cores[c]) }

def State.modPlan (s : State) (i : Fin 16) (f : Plan → Plan) : State :=
  { s with plans := s.plans.set i (s.plans[i].map f) }

def State.emit (s : State) (o : Out) : State := { s with out := s.out ++ [o] }

/-- Every physical core. -/
def allCores : List CoreId := List.finRange 576

/-- Apply to every core held by a plan. -/
def State.modPlanCores (s : State) (i : Fin 16) (f : Core → Core) : State :=
  { s with cores := s.cores.map (fun k => if k.plan = some i then f k else k) }

/-! ### The fence of local teardown (13 R309) -/

/-- Count `n` events on one counter; it sticks at 2^48 - 1. -/
def Counter.count (k : Counter) (event n : Nat) : Counter :=
  if k.enabled && k.event.toNat == event && !k.ovf then
    if k.value.toNat + n < 2 ^ 48 - 1 then { k with value := BitVec.ofNat 48 (k.value.toNat + n) }
    else { k with value := BitVec.allOnes 48, ovf := true }
  else k

def Core.count (k : Core) (event n : Nat) : Core := { k with counters := k.counters.map (·.count event n) }

/-- Add to a top-down value, which sticks as a counter does (18 R404). -/
def addStick (v : BitVec 48) (n : Nat) : BitVec 48 :=
  if v.toNat + n < 2 ^ 48 - 1 then BitVec.ofNat 48 (v.toNat + n) else BitVec.allOnes 48

/-- Discard the run-ahead buffer and the address side's copies (03 R82); each discarded load counts (18 R404). -/
def Core.discardAhead (k : Core) : Core :=
  let n := k.ahead.buffer.length
  { k with ahead := { AddrSide.reset with synced := false },
           topDown := { k.topDown with spilt := addStick k.topDown.spilt n } }.count 0x006 n

/-- A core stops: its bundle, its far operations and its running ahead end (13 R309 order 1). -/
def Core.stop (k : Core) : Core :=
  { k.discardAhead with run := .stopped, view := none, slotX := false, slotV := false, slotM := false, far := [] }

/-- Stop a unit of the plan and discard its queue. -/
def Cart.stop (k : Cart) : Cart := { k with running := none, queue := [] }
def Reck.stop (k : Reck) : Reck := { k with running := none, queue := [] }

/-- The carts, reckoners and mills of a plan stop. -/
def stopUnits (s : State) (i : Fin 16) : State :=
  { s with carts := s.carts.map (fun k => if k.plan = some i then k.stop else k),
           recks := s.recks.map (fun k => if k.plan = some i then k.stop else k),
           colls := s.colls.filter (fun k => k.plan != i) }

/-- 13 R309 order 1. A second cause for a job in teardown changes nothing. -/
def fenceJob (s : State) (i : Fin 16) (cause : Nat) : State :=
  match s.plans[i] with
  | none => s
  | some p =>
    if p.teardownCause.isSome then s
    else
      (stopUnits (s.modPlanCores i Core.stop) i).modPlan i (fun q =>
        { q with jobState := if q.jobId = 0 then q.jobState else .fenced, teardownCause := some cause,
                 teardownBell := s.bell, stepOpen := false, goHeld := false, reopenBell := none })

/-- The reeves that a member reports to. -/
def reeves (s : State) : List Nat :=
  if s.domain.standby = s.domain.primary then [s.domain.primary] else [s.domain.primary, s.domain.standby]

/-! ### Control messages (13 R316) -/

/-- SEQ of this module's next message of a job. -/
def nextControl (s : State) (job : Nat) : Nat :=
  match s.controlSeq.find? (fun e => e.1 == job) with
  | some e => e.2
  | none => Config.controlFirst

/-- The message that goes next: destinations, code, job, ARG and content. -/
def controlMsg (s : State) (dst : List Nat) (msg job arg : Nat) (content : Bytes) : ControlMsg :=
  ⟨dst, msg, job, nextControl s job, arg, content⟩

/-- The job's message of this number has been used. -/
def stepControl (s : State) (job : Nat) : State :=
  { s with controlSeq := s.controlSeq.filter (fun e => e.1 != job) ++ [(job, nextControl s job + 1)] }

/-- Send a message with the sender's next number of its job. -/
def sendControl (s : State) (dst : List Nat) (msg job arg : Nat) (content : Bytes) : State :=
  (stepControl s job).emit (.control (controlMsg s dst msg job arg content))

/-- Send the answer to the messages of a job that a test picks, and keep it with them. -/
def answerControl (s : State) (pick : Acted → Bool) (dst : List Nat) (msg job arg : Nat) (content : Bytes) : State :=
  let m := controlMsg s dst msg job arg content
  let s := sendControl s dst msg job arg content
  { s with acted := s.acted.map (fun k => if k.job = job ∧ pick k ∧ k.answer = none then { k with answer := some m } else k) }

/-- Act on a message; one that this module has answered is answered again and nothing else. -/
def actOnce (s : State) (k : Acted) (act : State → State) : State :=
  match s.acted.find? (fun e => { e with answer := none } == k) with
  | some e => (match e.answer with
    | some m => s.emit (.control m)
    | none => act s)
  | none => act { s with acted := s.acted ++ [k] }

/-! ### The journal (15 R357, R358) -/

/-- Bytes 0-191 of a record. -/
def recordHead (index bell type job member plan : Nat) (payload : Bytes) : Bytes :=
  leBytes 8 index ++ leBytes 8 bell ++ leBytes 2 type ++ leBytes 2 payload.length ++ leBytes 2 job ++ leBytes 2 member
    ++ leBytes 1 plan ++ leBytes 7 0 ++ payload ++ List.replicate (160 - payload.length) 0

/-- Append one record; every 4,096th record is covered by a signed checkpoint. -/
def journalAppend (s : State) (type job member plan : Nat) (payload : Bytes) : State :=
  let index := s.mod.startCount % 2 ^ 24 * 2 ^ 40 + s.journal.next
  let chain := sha512 (s.journal.chain ++ recordHead index s.bell type job member plan payload)
  let r : JRecord := ⟨index, s.bell, type, job, member, plan, payload, chain⟩
  let j := { s.journal with records := s.journal.records ++ [r], next := s.journal.next + 1, chain := chain }
  let s := { s with counting := { s.counting with control := s.counting.control.map (fun (k : Counter) => k.count 0x405 1) } }
  if s.journal.next % 4096 = 4095 then
    let cp : JCheckpoint := ⟨index, s.bell, chain, s.free⟩
    { s with journal := { j with checkpoints := j.checkpoints ++ [cp] }, free := s.free + 1 }
  else { s with journal := j }

/-- The mode that a count of unacknowledged records asks for (15 R359): a mode ends only below 85 %. -/
def journalModeFor (old n : Nat) : Nat :=
  if 2076180 ≤ n then 2 else if 1887437 ≤ n then max old 1 else if n < 1782579 then 0 else old

/-- At 99 % every job is torn down with cause REFUSED_JOURNAL (15 R359). -/
def journalTeardown (s : State) : State :=
  (List.finRange 16).foldl (fun s i =>
    match s.plans[i] with
    | some p =>
      if p.jobId = 0 ∨ p.teardownCause.isSome then s
      else fenceJob (sendControl s (reeves s) 0x20 p.jobId 0x1008 []) i 0x1008
    | none => s) s

/-- Set the journal's mode from its count; JOURNAL_FULL records every change (15 R359). -/
def journalModes (s : State) : State :=
  let n := s.journal.records.length
  let m := journalModeFor s.journal.mode n
  if m = s.journal.mode then s
  else
    let s' := journalAppend { s with journal := { s.journal with mode := m } } 0x070E 0 0 0xFF
      (leBytes 1 s.journal.mode ++ leBytes 1 m ++ leBytes 4 n)
    if m = 2 then journalTeardown s' else s'

/-- Write one journal record, and the CHECKPOINT record where a signed checkpoint now covers it (15 R358, R360). -/
def journalRaw (s : State) (type job member plan : Nat) (payload : Bytes) : State :=
  let s' := journalAppend s type job member plan payload
  journalModes (if s.journal.next % 4096 = 4095 then
    journalAppend s' 0x0702 0 0 0xFF (leBytes 8 (s.mod.startCount % 2 ^ 24 * 2 ^ 40 + s.journal.next)) else s')

/-- A record about a loaded plan's job. -/
def journalPlan (s : State) (i : Fin 16) (type : Nat) (payload : Bytes) : State :=
  match s.plans[i] with
  | none => journalRaw s type 0 0 i payload
  | some p => journalRaw s type p.jobId p.member i payload

/-! ### HBM geometry (08 R171-R175) -/

/-- A window's key space: window number and offset as one address. -/
def windowSpan : Nat := 2 ^ 41
def pageBytes : Nat := 2 ^ 21

/-- Stack and channel number of a full index (08 R172). -/
def fullChannel (package : Bool) (window i : Nat) : Nat :=
  if package then (4 * (i % 16 % 4) + i % 16 / 4) * 16 + i / 16
  else (4 * window + i % 4) * 16 + i / 4

/-- The channel grants accesses (08 R185). -/
def inService (s : State) (ch : Nat) : Bool :=
  match s.channels[ch]? with
  | some k => k.granting
  | none => false

/-- The channel is in its window's list: a channel that stops granting stays there until the window is formed again
(08 R172, R185). -/
def listed (s : State) (ch : Nat) : Bool :=
  match s.channels[ch]? with
  | some k => k.inService
  | none => false

/-- The channel list of a window (08 R172). -/
def channelList (s : State) (window : Nat) : List Nat :=
  let pk := cfgPackage s
  ((List.range (if pk then 256 else 64)).map (fullChannel pk window)).filter (listed s)

/-- 4.5 GiB. -/
def channelBytes : Nat := 9 * 2 ^ 29

/-- Channel and channel line index of a window offset; an offset beyond the window does not exist (08 R173). -/
def lineOf (s : State) (key : Nat) : Option (Nat × Nat) :=
  let window := key / windowSpan
  let off := key % windowSpan
  let l := channelList s window
  if channelBytes * l.length ≤ off ∨ (cfgPackage s && window != 0) then none
  else
    let blk := off / 4096
    match l[blk % l.length]? with
    | some ch => some (ch, blk / l.length * 64 + off / 64 % 64)
    | none => none

/-! ### Cores, plans and places -/

/-- The physical core that holds a logical core (09 R217). -/
def physicalOf (s : State) (l : Fin 512) : Option CoreId :=
  allCores.find? (fun c => s.coreMap[c] == .mapped l)

/-- The physical core of a plan core; none while its slot has no usable core. -/
def planCorePhys (s : State) (p : Plan) (n : Nat) : Option CoreId :=
  match p.logical[n]? with
  | some l => physicalOf s l
  | none => none

/-- Where a local address leads. -/
inductive Place where
  /-- window key (08 R173) -/
  | hbm (key : Nat)
  | sram (c : CoreId) (off : Nat)
  | granary (bin : Fin 512) (off : Nat)
  deriving DecidableEq, Repr

def baseOwn : Nat := 0x020000000000
def baseShared : Nat := 0x021000000000
def baseGranary : Nat := 0x028000000000
def baseControl : Nat := 0x030000000000
def topHbm : Nat := 0x012000000000
def sramBytes : Nat := 3 * 2 ^ 20
def sharedStride : Nat := 2 ^ 22
def binBytes : Nat := 2 ^ 20

/-- The own local SRAM window and the shared window reach the same bytes for the issuing core (03 R64). -/
def canonAddr (planCore a : Nat) : Nat :=
  if baseOwn ≤ a ∧ a < baseOwn + sramBytes then baseShared + planCore * sharedStride + (a - baseOwn) else a

/-- 03 R63-R65: the place of the `len` bytes of one line from a canonical local address, or the fault of the access. -/
def translate (s : State) (p : Plan) (store : Bool) (a : Nat) (len : Nat := 1) : Except Nat Place :=
  if a < topHbm then
    match p.frames[a / pageBytes]?, p.img.pages[a / pageBytes]? with
    | some (w, f), some d =>
      if store && d.readOnly then .error codeTranslation
      else .ok (.hbm (w * windowSpan + f * pageBytes + a % pageBytes))
    | _, _ => .error codeTranslation
  else if baseShared ≤ a ∧ a < baseShared + 512 * sharedStride then
    let n := (a - baseShared) / sharedStride
    let off := (a - baseShared) % sharedStride
    match p.img.cores[n]? with
    | none => .error codeTranslation
    | some d =>
      if sramBytes ≤ off then .error codeTranslation
      else if off < d.program.length then .error codeTranslation
      else if store && d.roOffset < off + len && off < d.roOffset + d.ro.length then .error codeTranslation
      else
        match planCorePhys s p n with
        | some c => .ok (.sram c off)
        | none => .error codeTargetFenced
  else if baseGranary ≤ a ∧ a < baseGranary + 512 * binBytes then
    let n := (a - baseGranary) / binBytes
    match p.bins[n]?, p.img.bins[n]? with
    | some b, some ro =>
      if store && ro then .error codeTranslation
      else if h : b < 512 then .ok (.granary ⟨b, h⟩ ((a - baseGranary) % binBytes))
      else .error codeTranslation
    | _, _ => .error codeTranslation
  else .error codeTranslation

/-! ### Accesses within one line -/

/-- The words or lines of a range that read uncorrectable. -/
def anyBad (bad : List Nat) (unit a n : Nat) : Bool := bad.any (fun w => w * unit < a + n && a < (w + 1) * unit)

/-- Remove from the list every unit that the range covers whole. -/
def healed (bad : List Nat) (unit a n : Nat) : List Nat := bad.filter (fun w => !(a ≤ w * unit && (w + 1) * unit ≤ a + n))

/-- A unit of the list that the range covers in part. -/
def partlyBad (bad : List Nat) (unit a n : Nat) : Bool := anyBad (healed bad unit a n) unit a n

/-- Read inside one line (08 R179, R191; 12 R286): the bytes, or none where the line or a word is uncorrectable. -/
def readPlace (s : State) (pl : Place) (n : Nat) : Option Bytes :=
  match pl with
  | .hbm k =>
    match lineOf s k with
    | none => none
    | some (ch, _) => if inService s ch && !anyBad s.hbmBad 64 k n then some (memRead 0 s.hbm k n) else none
  | .sram c off =>
    let k := s.cores[c]
    if anyBad k.sramBad 8 off n then none else some (memRead 0 k.sram off n)
  | .granary b off =>
    let k := s.bins[b]
    if anyBad k.bad 8 off n then none else some (memRead 0 k.mem off n)

/-- Write inside one line: none where a partial write meets an uncorrectable line or word. `whole` tells that the
same instruction writes the whole line. A write to a channel out of service is discarded (08 R185). -/
def writePlace (s : State) (pl : Place) (bs : Bytes) (whole : Bool) : Option State :=
  match pl with
  | .hbm k =>
    match lineOf s k with
    | none => some s
    | some (ch, _) =>
      if !inService s ch then some s
      else if whole then some { s with hbm := memWrite 0 s.hbm k bs, hbmBad := s.hbmBad.filter (· != k / 64) }
      else if partlyBad s.hbmBad 64 k bs.length then none
      else some { s with hbm := memWrite 0 s.hbm k bs, hbmBad := healed s.hbmBad 64 k bs.length }
  | .sram c off =>
    let k := s.cores[c]
    if partlyBad k.sramBad 8 off bs.length then none
    else some (s.modCore c (fun k => { k with sram := memWrite 0 k.sram off bs,
                                              sramBad := healed k.sramBad 8 off bs.length }))
  | .granary b off =>
    let k := s.bins[b]
    if partlyBad k.bad 8 off bs.length then none
    else some { s with bins := s.bins.set b { k with mem := memWrite 0 k.mem off bs, bad := healed k.bad 8 off bs.length } }

/-! ### Tallies (14 R328) -/

def tallyP : Nat := 2 ^ 61 - 1
def tallyB0 : Nat := 0x1B873593C2B2AE35
def tallyB1 : Nat := 0x0CC9E2D51F3A6B47

/-- Add the word `w` at index `j` to a tally. -/
def tallyAdd (t : Nat × Nat) (j w : Nat) : Nat × Nat :=
  ((t.1 + (w + 1) * powMod tallyP tallyB0 (j + 1)) % tallyP,
   (t.2 + (w + 1) * powMod tallyP tallyB1 (j + 1)) % tallyP)

/-- The whole value of the 32-bit word at a canonical address, as just written. -/
def wordAt (s : State) (p : Plan) (a : Nat) : Nat :=
  match translate s p false a with
  | .ok (.hbm k) => leNat (memRead 0 s.hbm k 4)
  | .ok (.sram c off) => leNat (memRead 0 s.cores[c].sram off 4)
  | .ok (.granary b off) => leNat (memRead 0 s.bins[b].mem off 4)
  | .error _ => 0

/-- Words of the tally range that a write of `n` bytes at `a` touches. -/
def touchedWords (e : TallyEntry) (a n : Nat) : List Nat :=
  let lo := max a e.base
  let hi := min (a + n) (e.base + 4 * e.words)
  if lo < hi then (List.range ((hi - 1 - e.base) / 4 + 1 - (lo - e.base) / 4)).map (· + (lo - e.base) / 4) else []

/-- Account for one write that a member has applied to byte ranges at canonical addresses of plan `i`: each word that it
touches counts once, with its value after the write. -/
def tallyRanges (s : State) (i : Fin 16) (l : List (Nat × Nat)) : State :=
  match s.plans[i] with
  | none => s
  | some p =>
    if p.stepOpen then
      let one (et : TallyEntry × (Nat × Nat)) : Nat × Nat :=
        if et.1.cls = p.cls then
          ((l.flatMap (fun r => touchedWords et.1 r.1 r.2)).dedup).foldl
            (fun t j => tallyAdd t j (wordAt s p (et.1.base + 4 * j))) et.2
        else et.2
      s.modPlan i (fun q => { q with tallies := (p.img.tallies.zip p.tallies).map one })
    else s

/-- A write of `n` bytes at one address. -/
def tallyWrite (s : State) (i : Fin 16) (a n : Nat) : State := tallyRanges s i [(a, n)]

/-! ### Accesses of any length by plan address -/

/-- Split a range at 64-byte boundaries. -/
def splitLines : Nat → Nat → Nat → List (Nat × Nat)
  | 0, _, _ => []
  | fuel + 1, a, n =>
    if n = 0 then []
    else
      let k := min n (64 - a % 64)
      (a, k) :: splitLines fuel (a + k) (n - k)

/-- Two lists of ranges share a byte. -/
def rangesMeet (a b : List (Nat × Nat)) : Bool :=
  a.any (fun x => b.any (fun y => max x.1 y.1 < min (x.1 + x.2) (y.1 + y.2)))

/-- The result of a read by plan address: bytes, or the first failing address with its status and place. -/
inductive ReadRes where
  | ok (bs : Bytes)
  | fail (status addr : Nat) (pl : Option Place)
  deriving DecidableEq, Repr

/-- Read the pieces in order. -/
def readPieces (s : State) (p : Plan) : List (Nat × Nat) → ReadRes
  | [] => .ok []
  | (a, n) :: t =>
    match translate s p false a with
    | .error e => .fail e a none
    | .ok pl =>
      match readPlace s pl n with
      | none => .fail codeDataLost a (some pl)
      | some bs =>
        match readPieces s p t with
        | .ok r => .ok (bs ++ r)
        | f => f

/-- Read `n` bytes at a canonical plan address. -/
def planRead (s : State) (i : Fin 16) (a n : Nat) : ReadRes :=
  match s.plans[i] with
  | none => .fail codeTranslation a none
  | some p => readPieces s p (splitLines (n / 64 + 2) a n)

/-- The result of a write: the state with what was written, or the failure (the state then has nothing of it). -/
inductive WriteRes where
  | ok (s : State)
  | fail (status addr : Nat) (pl : Option Place)
  deriving DecidableEq, Repr

def writePieces (i : Fin 16) (whole : Nat → Bool) (tally : Bool) : List (Nat × Nat) → Bytes → State → WriteRes
  | [], _, s => .ok s
  | (a, n) :: t, bs, s =>
    match s.plans[i] with
    | none => .fail codeTranslation a none
    | some p =>
      match translate s p true a n with
      | .error e => .fail e a none
      | .ok pl =>
        match writePlace s pl (bs.take n) (n == 64 || whole a) with
        | none => .fail codeDataLost a (some pl)
        | some s' => writePieces i whole tally t (bs.drop n) (if tally then tallyWrite s' i a n else s')

/-- Write bytes at a canonical plan address; `whole a` tells that the line of `a` is written whole by the same
instruction, and `tally` that the write is counted by itself rather than with others of its request (14 R328). -/
def planWrite (s : State) (i : Fin 16) (a : Nat) (bs : Bytes) (whole : Nat → Bool := fun _ => false)
    (tally : Bool := true) : WriteRes :=
  writePieces i whole tally (splitLines (bs.length / 64 + 2) a bs.length) bs s

/-! ### Registers of a core -/

/-- 03 R59: K0 reads as all ones. -/
def Regs.mask (r : Regs) (k : BitVec 3) : KMask := if k = 0 then BitVec.allOnes 4096 else r.k[k.toFin]
def Regs.getS (r : Regs) (i : Nat) : SWord := r.s.getD (i % 32) 0
def Regs.getA (r : Regs) (i : Nat) : AWord := r.a.getD (i % 16) 0
def Regs.getL (r : Regs) (i : Nat) : LWord := r.l.getD (i % 4) 0
def Regs.setS (r : Regs) (i : Nat) (v : SWord) : Regs := { r with s := r.s.setIfInBounds (i % 32) v }
def Regs.setA (r : Regs) (i : Nat) (v : AWord) : Regs := { r with a := r.a.setIfInBounds (i % 16) v }
def Regs.setL (r : Regs) (i : Nat) (v : LWord) : Regs := { r with l := r.l.setIfInBounds (i % 4) v }
/-- 03 R59: a write to K0 changes nothing. -/
def Regs.setK (r : Regs) (i : Nat) (v : KMask) : Regs :=
  if i % 8 = 0 then r else { r with k := r.k.setIfInBounds (i % 8) v }

/-- A group of long registers as one value whose least significant 8,192 bits are the first register (05 R105). -/
def Regs.group (r : Regs) (first : Nat) : Nat → Nat
  | 0 => 0
  | g + 1 => r.group first g + (r.v.getD (first + g) 0).toNat * 2 ^ (8192 * g)

/-- One long register. -/
def Regs.setV (r : Regs) (i : Nat) (v : VReg) : Regs := { r with v := r.v.setIfInBounds i v }

/-- Write a group from one value. -/
def Regs.setGroup (r : Regs) (first : Nat) : Nat → Nat → Regs
  | 0, _ => r
  | g + 1, val => (r.setGroup first g val).setV (first + g) (BitVec.ofNat 8192 (val / 2 ^ (8192 * g)))

def Core.setRegs (k : Core) (f : Regs → Regs) : Core := { k with regs := f k.regs }
/-- 02 R48: flags are set in the step flags. -/
def Core.flag (k : Core) (fl : NumFlags) : Core := { k with flagsStep := k.flagsStep ||| fl }

end Sys2Proof.Machine
end

