-- ==== Sys2Proof/Machine/Report.lean ====
section
/-! DEFINITION. What the module reports: ST_INSTANCES, the admission bits, the module state, the status word,
attention events, counters and the sending of host frames. -/

namespace Sys2Proof.Machine
open Sys2Proof

/-! ### Counters (18 R397-R400) -/

def countControl (s : State) (event n : Nat) : State :=
  { s with counting := { s.counting with control := s.counting.control.map (·.count event n) } }

def countChannel (s : State) (ch : Fin 256) (event n : Nat) : State :=
  { s with counting := { s.counting with
      channels := s.counting.channels.set ch (s.counting.channels[ch].map (·.count event n)) } }

def countMill (s : State) (m : Fin 2) (event n : Nat) : State :=
  { s with counting := { s.counting with
      mills := s.counting.mills.set m (s.counting.mills[m].map (·.count event n)) } }

/-- A refusal counts in the second's summary and on the control die's counters (10 R237; 18 event catalogue). -/
def bump (l : List (Nat × Nat)) (k : Nat) : List (Nat × Nat) :=
  if l.any (fun e => e.1 == k) then l.map (fun e => if e.1 = k then (e.1, e.2 + 1) else e) else l ++ [(k, 1)]

def refusalEvent (code : Nat) : Option Nat :=
  let low := code % 0x1000
  if code / 0x1000 = 1 then some (0x40F + low) else if code / 0x1000 = 2 then some (0x41F + low)
  else if code / 0x1000 = 3 then some (0x42F + low) else none

/-- Count a refusal with a code; `ring` only for an enqueue. -/
def countRefusal (s : State) (code : Nat) : State :=
  match refusalEvent code with
  | some e => countControl s e 1
  | none => s

/-! ### Instances and admission state (01 R19, 10 R230, R235, R236) -/

def usable (u : CoreUse) : Bool :=
  match u with
  | .mapped _ | .spare => true
  | .fenced | .failed => false

def spareCores (s : State) : Nat := s.coreMap.toList.countP (· == .spare)
def channelsIn (s : State) : Nat := s.channels.toList.countP (·.inService)
def cartsIn (s : State) : Nat := s.carts.toList.countP (·.inService)
def recksIn (s : State) : Nat := s.recks.toList.countP (·.inService)
def portsIn (s : State) : Nat := s.ports.toList.countP (fun p => p.width != 0)
def millsIn (s : State) : Nat := s.mills.toList.countP (·.inService)
def binsIn (s : State) : Nat := s.bins.toList.countP (·.inService)
def fullPorts (s : State) : Nat := s.ports.toList.countP (fun p => p.width == 3)

/-- The fields of ST_INSTANCES with the bit number of each field's low bit, from the highest. -/
def instanceFields (s : State) : List (Nat × Nat) :=
  [(47, s.logicalCount), (39, spareCores s), (30, channelsIn s), (24, cartsIn s), (18, recksIn s), (12, portsIn s),
   (10, millsIn s), (0, binsIn s)]

def stInstances (s : State) : Nat := (instanceFields s).foldl (fun n f => n + f.2 * 2 ^ f.1) 0

def loadedPlans (s : State) : List Plan := s.plans.toList.filterMap id

def committedW (s : State) : Nat := 700 + ((loadedPlans s).map (fun p => p.img.hdr.powerW)).sum

/-- 10 R230. -/
def degraded (s : State) (p : Plan) : Bool :=
  channelsIn s < p.img.hdr.basisChannels || fullPorts s < p.img.hdr.basisPorts

def refusingThermal (s : State) : Bool := s.adm.stackHot || !s.adm.hotDies.isEmpty || s.adm.railThermal
def refusingPower (s : State) : Bool := s.adm.capW < committedW s || s.adm.powerLimited
def anyDegraded (s : State) : Bool := (loadedPlans s).any (degraded s)

def admissionBits (s : State) : Nat :=
  (anyDegraded s).toNat * 8 + (refusingPower s).toNat * 4 + (refusingThermal s).toNat * 2 + s.adm.railAtFloor.toNat

def stAdmission (s : State) : Nat := s.adm.capW % 4096 * 2 ^ 32 + committedW s % 4096 * 2 ^ 20 + admissionBits s

/-! ### Module state and the status word (17 R390) -/

/-- RUNNING: a job has launched here and has neither completed its teardown nor had its plan unloaded. -/
def anyLaunched (s : State) : Bool := (loadedPlans s).any (·.launched)

def moduleState (s : State) : Nat :=
  match s.mod.state with
  | .off | .starting => 0
  | .ready => if anyLaunched s then 2 else 1
  | .draining => 3
  | .halted => 4
  | .stopped => 5

def stStart (s : State) : Nat := s.mod.elapsedMs % 2 ^ 32 * 2 ^ 32 + s.mod.failCode * 2 ^ 16 + s.mod.startStep

def stIdentity (s : State) : Nat :=
  s.mod.startCount % 2 ^ 32 * 2 ^ 32 + s.mod.listAbsent.toNat * 2 ^ 11 + s.mod.listFl1.toNat * 2 ^ 10
    + s.mod.cfgFl1.toNat * 2 ^ 9 + s.mod.fwFl1.toNat * 2 ^ 8 + s.mod.stepping.toNat * 16 + s.mod.grade.toNat

def findSession (s : State) (id : Nat) : Option Session := s.host.sessions.find? (fun k => k.id == id)

def statusWord (s : State) (session code : Nat) : Nat :=
  match findSession s session with
  | none => moduleState s * 2 ^ 24
  | some k =>
    s.host.attnCode * 2 ^ 28 + k.sticky.toNat * 2 ^ 27 + moduleState s * 2 ^ 24 + s.host.attnSeq % 256 * 2 ^ 16 + code

def State.modSession (s : State) (id : Nat) (f : Session → Session) : State :=
  { s with host := { s.host with sessions := s.host.sessions.map (fun k => if k.id = id then f k else k) } }

/-- 15 R347: at a multiple of 2^32 frames a direction's key is replaced. -/
def rekey (key count : Nat) : Nat :=
  if count % 2 ^ 32 = 0 then leNat ((sha512 (leBytes 32 key ++ leBytes 8 count)).take 32) else key

def Session.sent (k : Session) : Session :=
  { k with framesOut := k.framesOut + 1, keyOut := rekey k.keyOut (k.framesOut + 1) }

/-- A message of `n` frames was sent. -/
def Session.sentAll (n : Nat) (k : Session) : Session := n.repeat Session.sent k

/-- The bytes up to the link field of a session's frames, each with the key and count that stand when it leaves. -/
def Session.sealAll : Session → List HostFrame → List Bytes
  | _, [] => []
  | k, f :: t => (leBytes 16 f.header ++ sealHost k.keyOut k.framesOut f) :: k.sent.sealAll t

/-- Send a message: on session 0, or on an open session; otherwise it is discarded (15 R354; 17 R384). A module in
FAULT_STOPPED sends none (17 R391). -/
def hostSend (s : State) (session kind tag code : Nat) (content : Bytes) (ring : Nat := 0) : State :=
  if !s.host.up || s.mod.state == .stopped then s
  else if session = 0 then s.emit (.host 0 kind tag (statusWord s 0 0) content ring)
  else if (findSession s session).isSome then
    let w := statusWord s session code
    (s.emit (.host session kind tag w content ring)).modSession session
      (Session.sentAll (hostFrames session kind ring tag w content).length)
  else s

/-- A reply: bit 7 of the KIND is set (17 R385). A refusal is counted (18 event catalogue). -/
def hostReply (s : State) (h : HostHdr) (kind code : Nat) (content : Bytes) (ring : Nat := 0) : State :=
  countRefusal (hostSend s h.session (kind + 0x80) h.tag code content ring) code

/-! ### Attention (17 R392, R393) -/

/-- Raise one attention event. -/
def attention (s : State) (code detail : Nat) : State :=
  let seq := (s.host.attnSeq + 1) % 256
  { s with host := { s.host with
      attnSeq := seq, attnCode := code,
      attn := (s.host.attn ++ [(⟨seq, code, detail, s.bell⟩ : AttnRec)]).drop (s.host.attn.length + 1 - 256),
      sessions := s.host.sessions.map (fun k => { k with sticky := true }) } }

def attentionIf (s : State) (p : Bool) (code detail : Nat) : State := if p then attention s code detail else s

def JobState.code : JobState → Nat
  | .none => 0 | .installed => 1 | .armed => 2 | .running => 3 | .fenced => 4 | .wiping => 5

def jobCode (p : Option Plan) : Nat × Nat :=
  match p with
  | some p => (p.jobId, if p.jobId = 0 then 0 else p.jobState.code)
  | none => (0, 0)

/-- JOB events of one loaded-plan number. -/
def attendJob (o n : Option Plan) (s : State) : State :=
  let a := jobCode o
  let b := jobCode n
  attentionIf s (a.2 != b.2) 4 ((if b.1 = 0 then a.1 else b.1) * 2 ^ 16 + b.2)

def planDetail (i : Nat) (p : Plan) (event : Nat) : Nat := event * 2 ^ 16 + i * 2 ^ 8 + p.listIndex

/-- PLAN events of one loaded-plan number: unloaded, loaded, draining. -/
def attendPlan (i : Nat) (o n : Option Plan) (s : State) : State :=
  match o, n with
  | none, none => s
  | none, some q => attention s 5 (planDetail i q 1)
  | some p, none => attention s 5 (planDetail i p 3)
  | some p, some q =>
    if p.digest != q.digest then attention (attention s 5 (planDetail i p 3)) 5 (planDetail i q 1)
    else attentionIf s (!p.draining && q.draining) 5 (planDetail i q 2)

/-- Raise the attention events of the changes between two states, in the order of the *Attention code table*, and the
REFUSAL_MODE record (10 R237) where bits [3:1] of ST_ADMISSION changed. FAULT_STOPPED reports itself, and a new start has nothing to report. -/
def attend (old s : State) : State :=
  if (old.mod.state != .stopped && s.mod.state == .stopped) || s.mod.state == .starting || s.mod.state == .off then s else
  let a := admissionBits old
  let b := admissionBits s
  let r := if a / 2 != b / 2 then journalRaw s 0x0302 0 0 0xFF (leBytes 1 (a / 2 * 2) ++ leBytes 1 (b / 2 * 2)) else s
  let r := attentionIf r (moduleState old != moduleState s) 1 (moduleState old * 256 + moduleState s)
  let r := attentionIf r (a != b) 2 (a * 256 + b)
  let r := ((instanceFields old).zip (instanceFields s)).foldl
    (fun r f => attentionIf r (f.2.2 < f.1.2) 3 f.1.1) r
  let r := (List.finRange 16).foldl (fun (r : State) (i : Fin 16) => attendJob old.plans[i] s.plans[i] r) r
  let r := (List.finRange 16).foldl (fun (r : State) (i : Fin 16) => attendPlan i old.plans[i] s.plans[i] r) r
  let r := attentionIf r (old.journal.mode != s.journal.mode) 6 s.journal.mode
  let r := attentionIf r (old.adm.capW != s.adm.capW) 7 s.adm.capW
  (List.finRange 32).foldl (fun (r : State) (p : Fin 32) =>
    attentionIf r (old.ports[p].width != s.ports[p].width || old.ports[p].state != s.ports[p].state) 8
      (p * 256 + s.ports[p].width.toNat)) r

/-- The module is sealed and in service. -/
def serving (s : State) : Bool := s.mod.state == .ready || s.mod.state == .draining

/-- An event of the module in service: nothing happens in any other state (20 R448). -/
def happen (s : State) (f : State → State) : Host.Outcome State Fault Refusal :=
  .next (if serving s then attend s (f s) else s)

/-! ### FAULT_STOPPED in service (17 R391; 20 R446) -/

/-- Signed value of a 16-bit sample. -/
def hottest (l : List (BitVec 16)) : BitVec 16 := l.foldl (fun m t => if m.toInt < t.toInt then t else m) (BitVec.ofInt 16 (-32768))

/-- The module enters FAULT_STOPPED: MODULE_STOP is chained; the state is an attention event; one HEARTBEAT reply leaves
on every open session, and no frame after it. During a start only the state and the code change. -/
def faultStop (s : State) (failCode rail phase amps : Nat) : State :=
  if s.mod.state == .stopped then s
  else if s.mod.startStep ≠ 10 then { s with mod := { s.mod with state := .stopped, failCode := failCode } }
  else
    let old := s
    let s := journalRaw s 0x0808 0 0 0xFF
      (leBytes 2 failCode ++ leBytes 1 s.power.flags.toNat ++ leBytes 1 rail ++ leBytes 1 phase ++ leBytes 2 amps
        ++ leBytes 2 (hottest s.sensors.die.toList).toNat ++ leBytes 2 (hottest s.sensors.stack.toList).toNat)
    let s := { s with mod := { s.mod with state := .stopped, failCode := failCode, startStep := 10 }, draining := none }
    let s := attention s 1 (moduleState old * 256 + 5)
    if s.host.up then
      s.host.sessions.foldl (fun s k => s.emit (.host k.id 0x81 0 (statusWord s k.id 0) [])) s
    else s

end Sys2Proof.Machine
end

