-- ==== Sys2Proof/Machine/Jobs.lean ====
section
/-! DEFINITION. What a member does to a job as a whole: trees (12 R269), votes (09 R201-R204), job faults (13 R308), the
fence of local teardown (R309), abandonment of a step (03 R78) and the escalation of lost data (20 R438). -/

namespace Sys2Proof.Machine
open Sys2Proof

/-! ### Trees (12 R269) -/

/-- Trailing zero bits of a positive number below two to the fuel. -/
def tzFuel : Nat → Nat → Nat
  | 0, _ => 0
  | fuel + 1, p => if p % 2 = 0 ∧ p ≠ 0 then 1 + tzFuel fuel (p / 2) else 0

def tz (p : Nat) : Nat := tzFuel 20 p

def parentLoop (n : Nat) : Nat → Nat → Nat → Nat
  | 0, p, _ => p
  | fuel + 1, p, h =>
    let q := if tz (p + 2 ^ h) = h + 1 then p + 2 ^ h else p - 2 ^ h
    if q ≤ n then q else parentLoop n fuel q (h + 1)

/-- The root position: the largest power of two not above n. -/
def rootPos (n : Nat) : Nat := 2 ^ Nat.log2 n
/-- Parent of a position that is not the root's. -/
def parentPos (n p : Nat) : Nat := parentLoop n 20 p (tz p)

/-- Position of a member in tree A (false) or B, and the member at a position. -/
def treePos (b : Bool) (n i : Nat) : Nat := if b then (i + 1) % n + 1 else i + 1
def treeMember (b : Bool) (n q : Nat) : Nat := if b then (q + n - 2) % n else q - 1

def isRoot (b : Bool) (n i : Nat) : Bool := treePos b n i == rootPos n
def treeParent (b : Bool) (n i : Nat) : Option Nat :=
  if isRoot b n i then none else some (treeMember b n (parentPos n (treePos b n i)))
def treeChildren (b : Bool) (n i : Nat) : List Nat :=
  (List.range n).filter (fun m => treeParent b n m == some i)

/-- The node of this module in a tree of its job. -/
def treeNode (b : Bool) (n i : Nat) : TreeNode := ⟨treeParent b n i, treeChildren b n i, [], false⟩

/-! ### Job faults (13 R308) -/

/-- The payload of a JOB_FAULT record (20 R446): the fault's fields, zero but for status and step when no core took
it. -/
def jobFaultPayload (status step attempt planCore : Nat) (r : FaultRec) : Bytes :=
  leBytes 2 status ++ leBytes 4 step ++ leBytes 1 attempt ++ leBytes 2 planCore ++ leBytes 4 r.bundle
    ++ leBytes 1 r.opcode ++ leBytes 1 r.slot ++ leBytes 1 r.reg ++ leBytes 1 r.kind ++ leBytes 2 r.lane
    ++ leBytes 6 r.addr

/-- A member raises a job fault: record, JOB_FAULT to both reeves, and local teardown without waiting (13 R308). -/
def jobFault (s : State) (i : Fin 16) (status planCore : Nat) (r : FaultRec) : State :=
  match s.plans[i] with
  | none => s
  | some p =>
    if p.teardownCause.isSome then s
    else
      let att := if r = FaultRec.reset then 0 else p.attempt
      let s := journalPlan s i 0x0806 (jobFaultPayload status p.step att planCore r)
      let s := if p.jobId = 0 then s else sendControl s (reeves s) 0x20 p.jobId status []
      fenceJob s i status

/-! ### Votes (09 R201-R204) -/

/-- CLASS of a mismatch and of a twin stop (09 R202). -/
def clsMismatch : Nat := 0x1FFF
def clsTwinStop : Nat := 0x1FFE

/-- The *Vote word field map* (09 R202). -/
def Vote.word (job : Nat) (v : Vote) : BitVec 64 :=
  BitVec.ofNat 64 (job % 2 ^ 16 * 2 ^ 48 + v.step % 2 ^ 32 * 2 ^ 16 + v.cls % 2 ^ 13 * 2 ^ 3 + v.attempt % 2 * 4
    + v.early.toNat * 2 + v.replay.toNat)

/-- The vote that a word and its tally lanes carry, and the job of a word. -/
def Vote.ofWord (w : BitVec 64) (t0 t1 : Nat) : Vote :=
  ⟨bits w.toNat 47 16, bits w.toNat 15 3, bits w.toNat 2 2, w.getLsbD 1, w.getLsbD 0, t0, t1⟩
def voteJob (w : BitVec 64) : Nat := bits w.toNat 63 48

/-- The combination of votes (09 R203; 13 R313). A combination that is a mismatch travels with CLASS 0x1FFF
(DESIGN CHOICE, notes/assumptions/14.md: the rule gives the marking of a result only); a replay carries no tally. -/
def Vote.combine (a b : Vote) : Vote where
  step := a.step
  cls := if a.step = b.step ∧ a.cls = b.cls ∧ a.attempt = b.attempt then a.cls else clsMismatch
  attempt := a.attempt
  early := a.early || b.early
  replay := a.replay || b.replay
  t0 := if a.replay || b.replay then 0 else (a.t0 + b.t0) % tallyP
  t1 := if a.replay || b.replay then 0 else (a.t1 + b.t1) % tallyP

def combineAll : List Vote → Option Vote
  | [] => none
  | v :: t => some (t.foldl Vote.combine v)

/-- 14 R329: the step tally. -/
def stepTally (p : Plan) : Nat × Nat :=
  ((p.img.tallies.zip p.tallies).filter (fun e => e.1.cls == p.cls)).foldl
    (fun t e => ((t.1 * tallyB0 + e.2.1 + 1) % tallyP, (t.2 * tallyB1 + e.2.2 + 1) % tallyP)) (0, 0)

def TreeNode.complete (n : TreeNode) (own : Nat) : Bool :=
  (own :: n.children).all (fun m => n.got.any (fun g => g.1 == m))

/-- What a root sends down: the result's vote word, with CLASS 0x1FFE and the cause in REOPEN_BELL for a twin stop
(13 R314). -/
def resultOf (p : Plan) (v : Vote) (reopen : Nat) : Vote × Nat :=
  match p.twinStop with
  | some cause => ({ v with cls := clsTwinStop }, cause)
  | none => (v, reopen)

/-- The node of a plan in tree A or B. -/
def Plan.node (p : Plan) (b : Bool) : TreeNode := if b then p.treeB else p.treeA
def Plan.setNode (p : Plan) (b : Bool) (n : TreeNode) : Plan := if b then { p with treeB := n } else { p with treeA := n }

/-- Forward the node's combination: up to the parent, or down from a root as the result. -/
def forwardVote (s : State) (i : Fin 16) (b : Bool) (v : Vote) (reopen : Nat) : State :=
  match s.plans[i] with
  | none => s
  | some p =>
    let n := p.node b
    match n.parent with
    | some m => (s.emit (.vote b m (Vote.word p.jobId v) v.t0 v.t1)).modPlan i (fun q => q.setNode b { n with sent := true })
    | none =>
      let (w, r) := resultOf p v reopen
      (n.children.foldl (fun s m => s.emit (.result b m (Vote.word p.jobId w) (BitVec.ofNat 64 r) w.t0 w.t1)) s).modPlan i (fun q =>
        { q.setNode b { n with sent := true } with ownResult := some (w, r) })

/-- What a node forwards at once for an early replay: the vote, or the mismatch that it makes with the votes already there
(09 R204, R213). -/
def earlyForward (got : List Vote) (v : Vote) : Vote :=
  match combineAll got with
  | some w => if w.cls = clsMismatch then w else v
  | none => v

/-- A vote reaches this module's node of a tree, from a child or from the module itself. -/
def nodeVote (s : State) (i : Fin 16) (b : Bool) (src : Nat) (v : Vote) : State :=
  match s.plans[i] with
  | none => s
  | some p =>
    let n := p.node b
    if n.sent || n.got.any (fun g => g.1 == src) then s
    else
      let n' := { n with got := n.got ++ [(src, v)] }
      let s := s.modPlan i (fun q => q.setNode b n')
      if v.replay && v.early then forwardVote s i b (earlyForward (n'.got.map (·.2)) v) (s.bell + 50000)
      else if n'.complete p.member then
        match combineAll (n'.got.map (·.2)) with
        | some w => forwardVote s i b w 0
        | none => s
      else s

/-- The module's vote leaves for both trees; a job of one member combines locally (09 R203). -/
def sendModuleVote (s : State) (i : Fin 16) (v : Vote) : State :=
  match s.plans[i] with
  | none => s
  | some p =>
    let s := s.modPlan i (fun q => { q with voteSent := true, earlySent := q.earlySent || v.early })
    if p.members ≤ 1 then
      let (w, r) := resultOf p v (if v.early then s.bell + 50000 else 0)
      s.modPlan i (fun q => { q with ownResult := some (w, r) })
    else nodeVote (nodeVote s i false p.member v) i true p.member v

/-- 09 R204: the module votes an early replay at once. -/
def earlyVote (s : State) (i : Fin 16) (status : Nat) : State :=
  match s.plans[i] with
  | none => s
  | some p =>
    if p.stepOpen && !p.earlySent && !p.voteSent then
      sendModuleVote (s.modPlan i (fun q => { q with replayCause := status })) i
        ⟨p.step, p.cls, p.attempt, true, true, 0, 0⟩
    else s

/-- The class whose range holds a bundle, for a plan core (09 R200). -/
def classAt (p : Plan) (planCore bundle : Nat) : Option Nat :=
  p.img.classes.findIdx? (fun c =>
    match c.ranges[planCore]? with
    | some (f, l) => f ≤ bundle && bundle ≤ l
    | none => false)

/-- A participating core has cast its vote. -/
def Core.hasVoted (k : Core) : Bool :=
  match k.run with
  | .voted | .halting | .idle | .sitsOut => true
  | .running | .abandoned _ | .stopped => false

/-- The range of a class on a plan core is empty (09 R199). -/
def rangeEmpty (p : Plan) (cls planCore : Nat) : Bool :=
  match (p.img.classes[cls]?).bind (fun c => c.ranges[planCore]?) with
  | some (f, l) => decide (l < f)
  | none => true

/-- Cores of a plan. -/
def planCores (s : State) (i : Fin 16) : List Core := s.cores.toList.filter (fun k => k.plan == some i)

/-- The class of the step that opens (09 R199, R200): one at which some core stands, and in which every other core of the
plan that is not idle has an empty range. Where several are so, which one opens is not given (a free value,
notes/assumptions/14.md); where none is, the step opens as the first core's and its vote is a mismatch. -/
def openClass (p : Plan) (ks : List Core) : Option Nat :=
  let at_ := (ks.filterMap (fun k => classAt p k.planCore k.ckpt.bundle)).dedup
  let ok := at_.filter (fun c => ks.all (fun k => classAt p k.planCore k.ckpt.bundle == some c || rangeEmpty p c k.planCore))
  match ok with
  | [] => at_.head?
  | [c] => some c
  | _ => ok[Config.openChoice p.digest p.step % ok.length]?

/-- The module's vote leaves once every participant has voted (09 R201). -/
def tryModuleVote (s : State) (i : Fin 16) : State :=
  match s.plans[i] with
  | none => s
  | some p =>
    let ks := planCores s i
    if p.stepOpen && !p.voteSent && ks.all Core.hasVoted
        && !(s.colls.any (fun k => k.plan == i && k.attempt == p.attempt && !k.issuers.isEmpty && !k.ended)) then
      let active := ks.filter (fun k => k.run != .idle && k.run != .sitsOut)
      let mism := active.any (fun k => classAt p k.planCore k.ckpt.bundle != some p.cls)
      let replay := p.corruptMark || active.any (·.replayVote)
      let t := stepTally p
      let tw : Nat × Nat := if p.twin && !replay then ((p.member + 1) * t.1 % tallyP, (p.member + 1) * t.2 % tallyP) else (0, 0)
      sendModuleVote s i ⟨p.step, if mism then clsMismatch else p.cls, p.attempt, false, replay, tw.1, tw.2⟩
    else s

/-! ### Abandoning a step (03 R78, 09 R204, R213) -/

/-- A service in a record (15 R360): LIST_INDEX and SERVICE of the slot that runs. -/
def serviceRef (p : Plan) : Nat :=
  match p.runs.find? (fun r => !r.ended) with
  | some r => p.listIndex + r.service * 256
  | none => p.listIndex

/-- A participant abandons the step with a "vote replay" status. In attempt 1 it is a second replay of the step: a job
fault with REPLAY_LIMIT (09 R213). -/
def abandonStep (s : State) (i : Fin 16) (status : Nat) (r : FaultRec) (planCore : Nat) : State :=
  match s.plans[i] with
  | none => s
  | some p =>
    if p.attempt = 1 then
      jobFault (journalPlan s i 0x0402 (leBytes 4 p.step ++ leBytes 2 p.cls ++ leBytes 2 (serviceRef p))) i 0x5009 planCore r
    else earlyVote s i status

/-! ### Health and units out (16 R371, R372; 20 R438, R445) -/

/-- A health entry (16 R372). -/
def healthEntry (startCount kind reason unit : Nat) : Nat :=
  startCount % 2 ^ 32 * 2 ^ 32 + kind * 2 ^ 24 + reason * 2 ^ 16 + unit

def addHealth (s : State) (kind reason unit : Nat) : State :=
  { s with health := { s.health with pending := s.health.pending ++ [healthEntry s.mod.startCount kind reason unit] } }

/-- Region entries, far handles, replay caches and binding of a job end (13 R309 order 3). -/
def revokeJob (s : State) (i : Fin 16) (job : Nat) : State :=
  { s with
    regions := s.regions.map (fun e => if e.job.toNat = job ∧ job ≠ 0 then RegionEntry.reset else e),
    endpoint := { s.endpoint with
      caches := s.endpoint.caches.filter (fun k => k.job != job || job == 0),
      halves := s.endpoint.halves.filter (fun k => k.1.job.toNat != job || job == 0) },
    cores := s.cores.map (fun k => if k.plan = some i then { k with fh := .replicate 64 ⟨0, 0, 0⟩ } else k) }

/-- A weight package in progress for a plan that leaves the module is refused (15 R350). -/
def Transfer.leave (i : Fin 16) (t : Transfer) : Transfer :=
  if t.package.any (fun k => k.plan == i) then { t with package := none, failed := some 0x2004 } else t

/-- Free what a plan holds and record PLAN_UNLOADED (01 R27; 13 R309 order 5). -/
def freePlan (s : State) (i : Fin 16) (cause : Nat) : State :=
  match s.plans[i] with
  | none => s
  | some p =>
    let s := journalPlan (revokeJob s i p.jobId) i 0x0203 (leBytes 64 p.digest ++ leBytes 2 cause)
    { s with
      host := { s.host with sessions := s.host.sessions.map (fun k => { k with transfer := k.transfer.map (Transfer.leave i) }) },
      plans := s.plans.set i none,
      cores := s.cores.map (fun k => if k.plan = some i then { Core.reset with
          sram := k.sram, sramBad := k.sramBad, sramUncorrectable := k.sramUncorrectable, sramCorrected := k.sramCorrected, counters := k.counters,
          topDown := k.topDown, fault := k.fault, flagsCommitted := k.flagsCommitted,
          flagsStep := k.flagsStep } else k),
      carts := s.carts.map (fun k => if k.plan = some i then { k with plan := none, running := none, queue := [] } else k),
      recks := s.recks.map (fun k => if k.plan = some i then { k with plan := none, running := none, queue := [] } else k),
      bins := s.bins.map (fun k => if k.holder = some i then { k with holder := none } else k),
      seqSlots := s.seqSlots.map (fun k => if k.plan = some i then SeqSlot.reset else k),
      colls := s.colls.filter (fun k => k.plan != i) }

/-- Tear down the job of a plan by a cause of the module's own; a plan with no job is unloaded at once (08 R185
order 2; 12 R289). -/
def dropPlan (s : State) (i : Fin 16) (cause : Nat) : State :=
  match s.plans[i] with
  | none => s
  | some p => if p.jobId = 0 then freePlan s i cause else jobFault s i cause 0 FaultRec.reset

/-- Drop every loaded plan that a condition picks; the count of jobs torn down. -/
def dropPlans (s : State) (pick : Plan → Bool) (cause : Nat) : State :=
  (List.finRange 16).foldl (fun s i =>
    match s.plans[i] with
    | some p => if pick p then dropPlan s i cause else s
    | none => s) s

def jobsPicked (s : State) (pick : Plan → Bool) : Nat :=
  ((List.finRange 16).filter (fun i =>
    match s.plans[i] with
    | some p => pick p && p.jobId != 0
    | none => false)).length

/-! ### Channel map-out in service (08 R185) -/

/-- The window that a channel serves. -/
def windowOfChannel (s : State) (ch : Nat) : Nat := if cfgPackage s then 0 else ch / 64

/-- Unacknowledged records that have spilled to the reserve: all but the newest 262,144 (15 R359). -/
def Journal.spilled (j : Journal) : List JRecord := j.records.take (j.records.length - 262144)

/-- Where a spilled record stands in copy 0 or 1 (08 R175): the HBM key of its 256 bytes. A copy has 114,688 blocks of 4 KiB,
taken by index. In home mode copy 0 lies in windows 0 and 1 and copy 1 in windows 2 and 3; in package mode copy 1 follows
copy 0, a block later where the number of channels would else put both on one channel. The rule asks only that no channel
holds the same block twice (DESIGN CHOICE, notes/assumptions/48.md). -/
def spillKey (s : State) (copy : Fin 2) (index : Nat) : Nat :=
  let blk := index / 16 % 114688
  let (w, n, b) : Nat × Nat × Nat :=
    if cfgPackage s then
      (0, 262144, if copy = 0 then blk
        else 114688 + (if 114688 % (channelList s 0).length = 0 then 1 else 0) + blk)
    else (2 * copy + blk / 57344, 65536, blk % 57344)
  w * windowSpan + (channelBytes * (channelList s w).length - n * 4096) + b * 4096 + index % 16 * 256

/-- Orders 1 to 3 of the *Map-out sequence table*: the channel grants nothing, every loaded plan with a frame in its window
leaves, and the entry waits for HEALTH_WRITE. MAP_OUT_FILL_END does orders 4 to 6. -/
def mapOut (s : State) (ch : Fin 256) (reason : Nat) : State :=
  if !s.channels[ch].granting then s
  else
    let w := windowOfChannel s ch
    let pick (p : Plan) : Bool := p.frames.any (fun f => f.1 == w)
    let jobs := jobsPicked s pick
    let s := { s with channels := s.channels.set ch { s.channels[ch] with
                        granting := false, outReason := BitVec.ofNat 8 reason } }
    let s := dropPlans s pick codeDataLost
    let s := addHealth s 0 reason ch
    let s := journalRaw s 0x0803 0 0 0xFF (leBytes 1 ch ++ leBytes 1 reason ++ leBytes 2 jobs)
    { s with reforming := s.reforming ++ [w], frozen := [] }

/-- Who read a line (20 R446). -/
inductive Reader where
  | core | cart | reckoner | mill | far | partialWrite | patrol | release
  deriving DecidableEq, Repr

def Reader.code : Reader → Nat
  | .core => 1 | .cart => 2 | .reckoner => 3 | .mill => 4 | .far => 5 | .partialWrite => 6 | .patrol => 7 | .release => 8

/-- Account for an uncorrectable HBM read (08 R179, R185; 20 R446): counts, record, and map-out where R185 asks. A channel
that has stopped granting answers DATA_LOST without reading a line. -/
def hbmLost (s : State) (key : Nat) (i : Option (Fin 16)) (rd : Reader) : State :=
  match lineOf s key with
  | none => s
  | some (ch, line) =>
    if h : ch < 256 then
      let ch : Fin 256 := ⟨ch, h⟩
      let k := s.channels[ch]
      if !k.granting then s else
      let (step, att) : Nat × Nat :=
        match i with
        | some i => (match s.plans[i] with | some p => (p.step, p.attempt) | none => (0, 0))
        | none => (0, 0)
      let s := (match i with
        | some i => journalPlan s i 0x0802 (leBytes 1 ch ++ leBytes 4 line ++ leBytes 1 rd.code ++ leBytes 4 step ++ leBytes 1 att)
        | none => journalRaw s 0x0802 0 0 0xFF (leBytes 1 ch ++ leBytes 4 line ++ leBytes 1 rd.code ++ leBytes 4 0 ++ leBytes 1 0))
      let s := countChannel s ch 0x203 1
      let demand := if rd = .patrol then k.demandLost else k.demandLost + 1
      let again : Bool := rd != .patrol &&
        (match k.lostIn with
         | some (j, t) => (match s.plans[j] with | some q => q.attempt == 1 && q.stepOpen && q.step == t | none => false)
         | none => false)
      let mark : Option (Fin 16 × Nat) :=
        match i with
        | some i => if rd != .patrol && att == 0 then some (i, step) else k.lostIn
        | none => k.lostIn
      let s := { s with channels := s.channels.set ch { k with
                          uncorrected := min 255 (k.uncorrected + 1), demandLost := demand, lostIn := mark } }
      if rd != .patrol && (again || demand ≥ 3) then mapOut s ch 1 else s
    else s

end Sys2Proof.Machine
end

