-- ==== Sys2Proof/Machine/Cart.lean ====
section
/-! DEFINITION. The cart (06 R133-R148): its descriptor, its cells and boxes, the check at issue and the copy. -/

namespace Sys2Proof.Machine
open Sys2Proof

/-! ### The descriptor (06 R134) -/

/-- A dimension entry. -/
structure CartDim where
  dst : Int
  src : Int
  after : Nat
  before : Nat
  count : Nat
  deriving DecidableEq, Repr

/-- A cart descriptor; `dims` holds the dimensions in use, innermost first. -/
structure CartDesc where
  pad : Nat
  dst : Nat
  src : Nat
  stage : Nat
  ind : Bool
  staged : Bool
  padWrite : Bool
  esize : Nat
  dims : List CartDim
  deriving DecidableEq, Repr

def cartDim (v d : Nat) : CartDim :=
  let e := v / 2 ^ (256 + 128 * d)
  ⟨sext 32 (bits e 127 96), sext 32 (bits e 95 64), bits e 63 52, bits e 51 40, bits e 23 0⟩

def cartDesc (b : Bytes) : CartDesc :=
  let v := leNat b
  ⟨bits v 255 192, bits v 175 128, bits v 111 64, bits v 53 32, bits v 9 9 == 1, bits v 8 8 == 1, bits v 7 7 == 1,
   2 ^ bits v 6 4, (List.range (bits v 2 0)).map (cartDim v)⟩

def CartDim.extent (d : CartDim) : Nat := d.before + d.count + d.after

/-! ### Cells (06 R136) -/

/-- A destination cell: its destination and source offsets from the bases, and whether it is valid. -/
structure CartCell where
  dst : Int
  src : Int
  valid : Bool
  deriving DecidableEq, Repr

def cartCells : List CartDim → List CartCell
  | [] => [⟨0, 0, true⟩]
  | d :: ds => (cartCells ds).flatMap (fun o => (List.range d.extent).map (fun j =>
      let i : Int := (j : Int) - d.before
      ⟨o.dst + j * d.dst, o.src + i * d.src, o.valid && decide (0 ≤ i) && decide (i < d.count)⟩))

/-- The cells that the descriptor writes. -/
def CartDesc.written (d : CartDesc) : List CartCell := (cartCells d.dims).filter (fun c => c.valid || d.padWrite)

/-- Base plus offset, modulo 2^48 (03 R59). -/
def cartAddr (base : Nat) (off : Int) : Nat := (((base : Int) + off) % 2 ^ 48).toNat

/-- Bytes of a pad element (06 R134). -/
def CartDesc.padBytes (d : CartDesc) : Bytes := (List.range d.esize).map (fun b => BitVec.ofNat 8 (d.pad / 256 ^ (b % 8)))

/-- The source box: first byte and length (06 R140), before the wrap of its ends. -/
def CartDesc.srcBox (d : CartDesc) (base : Nat) : Int × Nat :=
  let lo := (d.dims.map (fun k => min 0 (((k.count : Int) - 1) * k.src))).sum
  let hi := (d.dims.map (fun k => max 0 (((k.count : Int) - 1) * k.src))).sum
  ((base : Int) + lo, (hi - lo).toNat + d.esize)

/-- The destination box of the written cells. -/
def CartDesc.dstBox (d : CartDesc) : Int × Nat :=
  let first (k : CartDim) : Int := if d.padWrite then 0 else k.before
  let last (k : CartDim) : Int := if d.padWrite then (k.extent : Int) - 1 else (k.before : Int) + k.count - 1
  let lo := (d.dims.map (fun k => min (first k * k.dst) (last k * k.dst))).sum
  let hi := (d.dims.map (fun k => max (first k * k.dst) (last k * k.dst))).sum
  ((d.dst : Int) + lo, (hi - lo).toNat + d.esize)

/-- Window of the *Local address map* that holds an address: HBM, own SRAM, shared SRAM, granary, core control. -/
def windowOf (a : Nat) : Option Nat :=
  if a < topHbm then some 0
  else if baseOwn ≤ a ∧ a < baseOwn + sramBytes then some 1
  else if baseShared ≤ a ∧ a < baseShared + 512 * sharedStride then some 2
  else if baseGranary ≤ a ∧ a < baseGranary + 512 * binBytes then some 3
  else if baseControl ≤ a ∧ a < baseControl + 2 ^ 16 then some 4
  else none

/-- A range by the physical bytes that it reaches: canonical address and length. -/
def physRange (pc : Nat) (lo : Int) (n : Nat) : Nat × Nat := (canonAddr pc (lo % 2 ^ 48).toNat, n)

/-- The copy's boxes meet and it is not a legal staged copy (06 R140). -/
def CartDesc.overlaps (d : CartDesc) (pc base : Nat) : Bool :=
  let (sl, sn) := d.srcBox base
  let (dl, dn) := d.dstBox
  rangesMeet [physRange pc sl sn] [physRange pc dl dn] && !(d.staged && sn ≤ 262144)

/-- 06 R145: the failing status and address of an indirect descriptor at issue. `free` stands for the address of a box
that leaves its window between two ends that translate: it is not given. -/
def CartDesc.issueFault (s : State) (p : Plan) (pc : Nat) (d : CartDesc) (base free : Nat) : Option (Nat × Nat) :=
  let (lo, n) := d.srcBox base
  let a := (lo % 2 ^ 48).toNat
  let b := ((lo + n - 1) % 2 ^ 48).toNat
  let bad (x : Nat) : Bool :=
    match translate s p false (canonAddr pc x) with
    | .error e => e == codeTranslation
    | .ok _ => false
  if bad a then some (codeTranslation, a)
  else if bad b then some (codeTranslation, b)
  else if windowOf a != windowOf b || lo < 0 || 2 ^ 48 ≤ lo + n then some (codeTranslation, free % 2 ^ 48)
  else if d.overlaps pc base then some (0x5004, base)
  else none

/-! ### The copy -/

/-- A failing access: address as generated, status, place. -/
abbrev AccessFault := Nat × Nat × Option Place

/-- Data of a written cell at its destination address, or the fault of its source. -/
def cellData (s : State) (i : Fin 16) (pc : Nat) (d : CartDesc) (base : Nat) (c : CartCell) :
    Nat × Except AccessFault Bytes :=
  let dst := cartAddr d.dst c.dst
  if c.valid then
    let src := cartAddr base c.src
    match planRead s i (canonAddr pc src) d.esize with
    | .ok bs => (dst, .ok bs)
    | .fail st _ pl => (dst, .error (src, st, pl))
  else (dst, .ok d.padBytes)

/-- Write cells in order; those that fail are listed and not written. `whole` joins the cells that cover one HBM line
(08 R179); an SRAM or granary word that reads uncorrectable is written cell by cell, so a cell that covers it in part
loses data though its neighbours complete it (DESIGN CHOICE, notes/assumptions/46.md). -/
def putCells (i : Fin 16) (pc : Nat) (whole : Nat → Bool) :
    List (Nat × Bytes) → State → State × List (Nat × Nat) × List AccessFault
  | [], s => (s, [], [])
  | (a, bs) :: t, s =>
    match planWrite s i (canonAddr pc a) bs whole false with
    | .ok s' => let (s', r, l) := putCells i pc whole t s'; (s', (canonAddr pc a, bs.length) :: r, l)
    | .fail st _ pl => let (s', r, l) := putCells i pc whole t s; (s', r, (a, st, pl) :: l)

/-- Write cells; a unit writes whole blocks of them, so each word counts once in a tally (06 R149; 14 R328). -/
def writeCells (i : Fin 16) (pc : Nat) (whole : Nat → Bool) (cells : List (Nat × Bytes)) (s : State) :
    State × List AccessFault :=
  let (s, r, l) := putCells i pc whole cells s
  (tallyRanges s i r, l)

/-- The line of an address is covered by the cells; it matters only where some line reads uncorrectable. -/
def cellsCover (s : State) (pc : Nat) (cells : List (Nat × Bytes)) (a : Nat) : Bool :=
  !s.hbmBad.isEmpty &&
    (List.range 64).all (fun b => cells.any (fun c =>
      canonAddr pc c.1 ≤ a / 64 * 64 + b && a / 64 * 64 + b < canonAddr pc c.1 + c.2.length))

/-- What the list's elements a number picks. -/
def pickSome {α : Type} (r : Nat) (l : List α) : List α := (l.zipIdx.filter (fun e => r / 2 ^ e.2 % 2 == 1)).map (·.1)

/-- The staging range with the source box: what it would hold, as cells of one byte, and the fault of the read. -/
def stageCells (s : State) (i : Fin 16) (pc : Nat) (d : CartDesc) (base : Nat) : List (Nat × Bytes) × List AccessFault :=
  if d.staged then
    let (lo, n) := d.srcBox base
    match planRead s i (canonAddr pc (lo % 2 ^ 48).toNat) n with
    | .ok bs => ([(baseOwn + d.stage, bs)], [])
    | .fail st a pl => ([], [(a - canonAddr pc (lo % 2 ^ 48).toNat + (lo % 2 ^ 48).toNat, st, pl)])
  else ([], [])

/-- 06 R136, R141: the copy, or the fault that ends it with any subset of the written cells (R145). The copied value
stands also in a byte that a core stored into the destination box since the C.ISSUE, whose committed value R143 leaves
undefined (DESIGN CHOICE, notes/assumptions/46.md). -/
def cartCopy (s : State) (i : Fin 16) (pc : Nat) (d : CartDesc) (base : Nat) : State × Option AccessFault :=
  let cells := d.written.map (cellData s i pc d base)
  let good := cells.filterMap (fun c => match c.2 with | .ok bs => some (c.1, bs) | .error _ => none)
  let badReads := cells.filterMap (fun c => match c.2 with | .ok _ => none | .error f => some f)
  let (stage, badStage) := stageCells s i pc d base
  let cover := cellsCover s pc good
  let (s1, badW) := writeCells i pc cover (stage ++ good) s
  let bad := badStage ++ badReads ++ badW
  if bad.isEmpty then (s1, none)
  else
    let (r, s) := takeFree s
    let (k, s) := takeFree s
    let (s, _) := writeCells i pc cover (pickSome r (stage ++ good)) s
    (s, bad[k % bad.length]?)

/-! ### Load rules of a descriptor (06 R137, R139) -/

/-- Dimensions whose extent exceeds 1, as (magnitude of the stride, extent), by magnitude. -/
def CartDesc.strides (d : CartDesc) : List (Nat × Nat) :=
  ((d.dims.filter (fun k => 1 < k.extent)).map (fun k => (k.dst.natAbs, k.extent))).mergeSort (fun a b => a.1 ≤ b.1)

/-- 06 R137. -/
def disjointFrom (least : Nat) : List (Nat × Nat) → Bool
  | [] => true
  | (m, e) :: t => least ≤ m && (match t with | (m', _) :: _ => m != m' | [] => true) && disjointFrom (m * e) t

/-- Fields, ranges and cells of a descriptor that the plan core `pc` owns. -/
def cartFieldsLegal (b : Bytes) : Bool :=
  let v := leNat b
  let n := bits v 2 0
  bits v 191 176 == 0 && bits v 127 112 == 0 && bits v 63 54 == 0 && bits v 31 10 == 0 && bits v 3 3 == 0
    && bits v 6 4 != 7 && 1 ≤ n && n ≤ 5 && bits v 1023 896 == 0
    && (List.range 5).all (fun d =>
      let e := bits v (383 + 128 * d) (256 + 128 * d)
      if d < n then bits e 39 24 == 0 && bits e 23 0 != 0 else e == 0)

/-- A byte range that a unit of a plan may reach: one window and a translation at every page or byte of its ends. -/
def rangeReach (s : State) (p : Plan) (pc : Nat) (store : Bool) (a n : Nat) : Bool :=
  windowOf a == windowOf (a + n - 1) && (windowOf a).isSome
    && (splitLines (n / 64 + 2) a n).all (fun e =>
      match translate s p store (canonAddr pc e.1) e.2 with
      | .ok _ => true
      | .error _ => false)

/-- The program range of a plan core, and its read-only range, as own-SRAM offsets. -/
def programRange (p : Plan) (pc : Nat) : Nat × Nat := (0, ((p.img.cores[pc]?).map (·.program.length)).getD 0)
def readOnlyRange (p : Plan) (pc : Nat) : Nat × Nat :=
  match p.img.cores[pc]? with
  | some d => (d.roOffset, d.ro.length)
  | none => (0, 0)

/-- The own-SRAM offset of a base word is legal (06 R138). -/
def baseWordLegal (p : Plan) (pc off : Nat) : Bool :=
  off % 8 == 0 && off + 8 ≤ sramBytes && !rangesMeet [(off, 8)] [programRange p pc]

/-- 06 R139 but for the step rule; the *Cart limit table*'s source box of a staged copy (R135) is held here too, whatever
the base (DEDUCED: a larger box would not fit its staging range; notes/assumptions/46.md). -/
def cartLegal (s : State) (p : Plan) (pc : Nat) (b : Bytes) : Bool :=
  let d := cartDesc b
  cartFieldsLegal b && disjointFrom d.esize d.strides && (!d.staged || (d.srcBox 0).2 ≤ 262144)
    && d.written.all (fun c => rangeReach s p pc true (cartAddr d.dst c.dst) d.esize)
    && windowOf (d.dstBox.1 % 2 ^ 48).toNat == windowOf ((d.dstBox.1 + d.dstBox.2 - 1) % 2 ^ 48).toNat
    && (if d.ind then baseWordLegal p pc d.src
        else (d.written.filter (·.valid)).all (fun c => rangeReach s p pc false (cartAddr d.src c.src) d.esize)
          && windowOf ((d.srcBox d.src).1 % 2 ^ 48).toNat
            == windowOf (((d.srcBox d.src).1 + (d.srcBox d.src).2 - 1) % 2 ^ 48).toNat
          && !d.overlaps pc d.src)
    && (!d.staged || (d.stage % 64 == 0 && d.stage + 262144 ≤ sramBytes
          && !rangesMeet [(d.stage, 262144)] [programRange p pc, readOnlyRange p pc]))

/-- Bytes of the written cells: destination, and source of a valid cell. -/
def CartDesc.bytes (d : CartDesc) (base : Nat) : List (Nat × Option Nat) :=
  d.written.flatMap (fun c => (List.range d.esize).map (fun b =>
    (cartAddr d.dst c.dst + b, if c.valid then some (cartAddr base c.src + b) else none)))

/-- 06 R149: the part of the cells in one destination line is an aligned block. -/
def alignedBlock (l : List (Nat × Option Nat)) : Bool :=
  l.length == 64 && (l.all (fun e => e.2.isNone)
    || (match l.head? with
        | some (_, some q) => l.all (fun e =>
            match e.2 with
            | some a => a / 64 == q / 64 && a % 64 == e.1 % 64
            | none => false)
        | _ => false))

/-- Aligned blocks, misaligned blocks and staging lines of a descriptor (06 R149; 18 event catalogue). -/
def CartDesc.blocks (d : CartDesc) (base : Nat) : Nat × Nat × Nat :=
  let bs := d.bytes base
  let lines := (bs.map (fun e => e.1 / 64)).dedup
  let aligned := lines.countP (fun n => alignedBlock (bs.filter (fun e => e.1 / 64 == n)))
  let (lo, n) := d.srcBox base
  (aligned, lines.length - aligned, if d.staged then ((lo % 64).toNat + n + 63) / 64 else 0)

/-- Byte ranges that a descriptor's written cells fill, by physical place. -/
def CartDesc.cellRanges (d : CartDesc) (pc : Nat) : List (Nat × Nat) :=
  d.written.map (fun c => (canonAddr pc (cartAddr d.dst c.dst), d.esize))

end Sys2Proof.Machine
end

