-- ==== Sys2Proof/Machine/Fence.lean ====
section
/-! DEFINITION. Units that leave service (20 R435-R439, R445), the core mapping (09 R217-R219), and a core's response to
a fault (03 R77, R78; 12 R284). -/

namespace Sys2Proof.Machine
open Sys2Proof

/-! ### The core mapping (09 R217) -/

def dieOf (c : CoreId) : Nat := c / 144

/-- Usable physical cores of a die, lowest first. -/
def usableOn (s : State) (d : Nat) : List CoreId := allCores.filter (fun c => dieOf c == d && usable s.coreMap[c])

/-- Every compute die has one quarter of the count in usable cores. -/
def supports (s : State) (n : Nat) : Bool := (List.range 4).all (fun d => n / 4 ≤ (usableOn s d).length)

/-- Map logical index i of die d to the (i + 1)-th lowest usable core of the die; the other usable cores are spares. -/
def rebuildMap (s : State) (n : Nat) : State :=
  { s with
    logicalCount := n,
    coreMap := Vector.ofFn (fun c : CoreId =>
      if usable s.coreMap[c] then
        let k := (usableOn s (dieOf c)).idxOf c
        if h : k < n / 4 ∧ dieOf c * 128 + k < 512 then .mapped ⟨dieOf c * 128 + k, h.2⟩ else .spare
      else s.coreMap[c]) }

/-- The lowest-numbered spare of a die that no substitution has taken. -/
def spareOn (s : State) (d : Nat) : Option CoreId :=
  allCores.find? (fun c => dieOf c == d && s.coreMap[c] == .spare && !s.subs.any (fun u => u.spare == c))

def sparesOn (s : State) (d : Nat) : Nat :=
  allCores.countP (fun c => dieOf c == d && s.coreMap[c] == .spare && !s.subs.any (fun u => u.spare == c))

/-- 09 R219. The rebuilt map frees logical slots, so SPARE_CORES rises, where 01 R19 has no field but FABRIC_PORTS rise in
service: the two rules conflict, and R217's map and R219 are followed (DESIGN CHOICE, notes/assumptions/45.md). -/
def stepDown (s : State) : State :=
  let old := s.logicalCount
  let s := { dropPlans s (fun _ => true) 0x5010 with subs := [] }
  match [448, 384].find? (fun n => n < old && supports s n) with
  | some n => journalRaw (rebuildMap s n) 0x0406 0 0 0xFF (leBytes 2 old ++ leBytes 2 n)
  | none => faultStop s 0x0006 0xFF 0 0

/-! ### Fencing a core (20 R435, R436; 09 R218) -/

/-- Module firmware takes a core out of plain mode (05 R132). -/
def Core.leavePlain (k : Core) : Core := { k with plain := false, plainBank := 0 }

/-- The logical slot passes to a spare in ST_CORE_MAP only, or the module steps down. -/
def passSlot (s : State) (d : Nat) (l : Fin 512) : State :=
  match spareOn s d with
  | some sp => ({ s with coreMap := s.coreMap.set sp (.mapped l) } : State).modCore sp Core.leavePlain
  | none => stepDown s

/-- A cart that stops at its next block (06 R147): its descriptor may have written any part of its cells. -/
def cartCut (s : State) (n : Fin 32) : State :=
  match s.carts[n].plan, s.carts[n].running with
  | some i, some j =>
    (match s.plans[i] with
     | none => s
     | some p =>
       match p.img.cartDesc[j.desc]? with
       | none => s
       | some b =>
         let d := cartDesc b
         let pc := s.cores[j.core].planCore
         let cells := d.written.map (cellData s i pc d (j.base.getD d.src))
         let good := cells.filterMap (fun c => match c.2 with | .ok bs => some (c.1, bs) | .error _ => none)
         let stage := (stageCells s i pc d (j.base.getD d.src)).1
         let (r, s) := takeFree s
         (writeCells i pc (fun _ => false) (pickSome r (stage ++ good)) s).1)
  | _, _ => s

/-- Carts of a plan that a test picks stop where they are. -/
def cutCarts (s : State) (i : Fin 16) (pick : Nat → Bool) : State :=
  (List.finRange 32).foldl (fun (s : State) (n : Fin 32) =>
    if s.carts[n].plan = some i ∧ pick n then
      let s := cartCut s n
      { s with carts := s.carts.set n s.carts[n].stop }
    else s) s

/-- The carts and reckoners of a plan core stop with their queues (06 R147). -/
def stopOwned (s : State) (i : Fin 16) (planCore : Nat) : State :=
  match s.plans[i] with
  | none => s
  | some p =>
    let own (l : List (Nat × Nat)) (n : Nat) : Bool := l.any (fun e => e.1 == n && e.2 == planCore)
    let s := cutCarts s i (own p.img.cartOwner)
    { s with
      recks := Vector.ofFn (fun n : Fin 32 =>
        if s.recks[n].plan = some i ∧ own p.img.reckOwner n then s.recks[n].stop else s.recks[n]) }

/-- A fenced core that was the spare of a substitution (20 R448). -/
def fenceSpare (s : State) (c : CoreId) : State :=
  match s.subs.find? (fun u => u.spare == c) with
  | none => s
  | some u =>
    let s := { s with subs := s.subs.filter (fun v => v.spare != c) }
    passSlot (dropPlan s u.plan 0x5010) (dieOf c) u.logical

/-- What follows the fence of a core that holds a logical slot. -/
def fenceSlot (s : State) (c : CoreId) (l : Fin 512) (i? : Option (Fin 16)) (cause : Nat) : State :=
  match i? with
  | none => passSlot s (dieOf c) l
  | some i =>
    match s.plans[i] with
    | none => passSlot s (dieOf c) l
    | some p =>
      if p.teardownCause.isSome then passSlot s (dieOf c) l
      else if cause = 3 then passSlot (dropPlan s i codeDataLost) (dieOf c) l
      else
        match spareOn s (dieOf c) with
        | none => stepDown s
        | some sp =>
          let s := ({ s with subs := s.subs ++ [⟨c, sp, l, i⟩] } : State).modCore sp Core.leavePlain
          if p.stepOpen && !p.voteSent then abandonStep s i codeTargetFenced FaultRec.reset 0 else s

/-- A core stops for its fence: a vote that it has cast stands (09 R213). -/
def Core.fence (k : Core) : Core :=
  { k.stop with run := match k.run with
                  | .running | .abandoned _ | .stopped => .stopped
                  | r => r }

/-- Fence a core for a cause of the *Fence cause table*. The status that the record of a cause other than 3 carries is
not given: a free value (notes/assumptions/14.md). -/
def fenceCore (s : State) (c : CoreId) (cause : Nat) : State :=
  if !usable s.coreMap[c] then s
  else
    let use := s.coreMap[c]
    let i? := s.cores[c].plan
    let logical := match use with
      | .mapped l => l.val
      | _ => 0xFFFF
    let step := match i? with
      | some i => (match s.plans[i] with | some p => p.step | none => 0)
      | none => 0
    let left := sparesOn s (dieOf c) - 1
    let (status, s) := if cause = 3 then (codeDataLost, s) else takeFree s
    -- the carts stop at their next block: what they have moved into or out of the core's SRAM stands
    let s := (match use, i? with
      | .mapped _, some i => stopOwned s i s.cores[c].planCore
      | _, _ => s)
    let s := { s with coreMap := s.coreMap.set c .fenced }.modCore c Core.fence
    let s := addHealth s 1 1 c
    let payload := leBytes 2 c ++ leBytes 2 logical ++ leBytes 1 cause ++ leBytes 2 status ++ leBytes 4 step
      ++ leBytes 1 left
    let s := match i? with
      | some i => journalPlan s i 0x0801 payload
      | none => journalRaw s 0x0801 0 0 0xFF payload
    match use with
    | .mapped l => fenceSlot s c l i? cause
    | _ => if s.subs.any (fun u => u.spare == c) then fenceSpare s c else if supports s s.logicalCount then s else stepDown s

/-! ### Lost data and its escalation (20 R438, R439) -/

def planStep (s : State) (i : Option (Fin 16)) : Nat × Nat :=
  match i with
  | some i => (match s.plans[i] with | some p => (p.step, p.attempt) | none => (0, 0))
  | none => (0, 0)

def journalOpt (s : State) (i : Option (Fin 16)) (type : Nat) (payload : Bytes) : State :=
  match i with
  | some i => journalPlan s i type payload
  | none => journalRaw s type 0 0 0xFF payload

/-- An uncorrectable read of a core's SRAM that is not a patrol read (08 R191; 20 R435 cause 3). -/
def sramLost (s : State) (c : CoreId) (off : Nat) (i : Option (Fin 16)) : State :=
  let k := s.cores[c]
  let (step, att) := planStep s i
  let s := journalOpt s i 0x0804 (leBytes 1 1 ++ leBytes 2 c ++ leBytes 4 off ++ leBytes 1 0 ++ leBytes 4 step)
  let n := k.sramUncorrectable + 1
  let again := att == 1 && i.isSome && k.sramLostStep == some step
  let s := s.modCore c (fun k => { k with sramUncorrectable := n,
                                          sramLostStep := if att = 0 && i.isSome then some step else k.sramLostStep })
  if again || n ≥ 3 then fenceCore s c 3 else s

/-- A unit other than a core leaves service for good (20 R438): KIND, unit, the plans that hold it and their cause. -/
def unitOut (s : State) (kind unit : Nat) (pick : Plan → Bool) (cause : Nat) : State :=
  let jobs := jobsPicked s pick
  let s := dropPlans s pick cause
  journalRaw (addHealth s kind 1 unit) 0x0805 0 0 0xFF (leBytes 1 kind ++ leBytes 2 unit ++ leBytes 1 1 ++ leBytes 2 jobs)

/-- 12 R289: a third uncorrectable word takes the bin out. -/
def binOut (s : State) (b : Fin 512) : State :=
  let s := { s with bins := s.bins.set b { s.bins[b] with inService := false } }
  let s := unitOut s 4 b (fun p => p.bins.contains b.val) codeDataLost
  journalRaw s 0x0506 0 0 0xFF (leBytes 2 b)

/-- An uncorrectable granary word (12 R286, R289, R290). -/
def granaryLost (s : State) (b : Fin 512) (off : Nat) (patrol : Bool) (i : Option (Fin 16)) : State :=
  let (step, _) := planStep s i
  let s := journalOpt s i 0x0804
    (leBytes 1 3 ++ leBytes 2 b ++ leBytes 4 off ++ leBytes 1 patrol.toNat ++ leBytes 4 step)
  let d : Fin 2 := ⟨b / 256 % 2, by omega⟩
  let words := if s.bins[b].lostWords.contains (off / 8) then s.bins[b].lostWords else s.bins[b].lostWords ++ [off / 8]
  let s := { s with
    granary := s.granary.set d { s.granary[d] with uncorrected := min 255 (s.granary[d].uncorrected + 1) },
    bins := s.bins.set b { s.bins[b] with lostWords := words } }
  if 3 ≤ words.length && s.bins[b].inService then binOut s b else s

/-- Account for an uncorrectable read at a place, with its escalation. -/
def placeLost (s : State) (pl : Option Place) (i : Option (Fin 16)) (rd : Reader) : State :=
  match pl with
  | some (.hbm key) => hbmLost s key i rd
  | some (.sram c off) => sramLost s c (off / 8 * 8) i
  | some (.granary b off) => granaryLost s b (off / 8 * 8) false i
  | none => s

/-! ### A core's fault (03 R77, R78) -/

/-- What the *Core fault action table* and 12 R284 handle as "vote replay". -/
def votesReplay (p : Plan) (status : Nat) : Bool :=
  status == codeDataLost || status == codeTargetFenced ||
    (p.corruptMark && (status == codeTranslation || status == codeMisaligned))

/-- Take the fault on the core: record it, discard what ran ahead, and abandon or stop. -/
def coreFaultAct (s : State) (c : CoreId) (i : Fin 16) (r : FaultRec) : State :=
  let s := s.modCore c (fun k => { k.discardAhead with fault := r, view := none })
  match s.plans[i] with
  | none => s
  | some p =>
    if p.teardownCause.isSome then s
    else if votesReplay p r.status then
      let s := s.modCore c (fun k => { k with run := .abandoned r.status, replayVote := true })
      abandonStep s i r.status r s.cores[c].planCore
    else jobFault (s.modCore c Core.stop) i r.status s.cores[c].planCore r

/-- A fault of a core, met by a reader of its work: the escalation of lost data first (20 R439), then the fault's own
action. -/
def coreFaultBy (rd : Reader) (s : State) (c : CoreId) (status bundle op reg slot lane kind addr : Nat)
    (pl : Option Place) : State :=
  match s.cores[c].plan with
  | none => s
  | some i =>
    let (step, _) := planStep s (some i)
    let r : FaultRec := ⟨s.bell, step, bundle, status, op, reg, slot, lane, kind, addr⟩
    attend s (coreFaultAct (if status = codeDataLost then placeLost s pl (some i) rd else s) c i r)

/-- A fault of a slot instruction. -/
def coreFault (s : State) (c : CoreId) (status bundle op reg slot lane kind addr : Nat) (pl : Option Place) : State :=
  coreFaultBy .core s c status bundle op reg slot lane kind addr pl

end Sys2Proof.Machine
end

