-- ==== Sys2Proof/Machine/Uses.lean ====
section
/-! DEFINITION. What a slot instruction uses and waits for: registers (03 R56, R58), the byte ranges of outstanding
operations (R73), its requests (R75), and the readiness of a whole bundle, which never issues in part (R56). -/

namespace Sys2Proof
open Sys2Proof.Machine

/-! ### Operands -/

def CForm.sa (f : CForm) (r : Regs) : SWord := r.getS f.a.toNat
def CForm.sb (f : CForm) (r : Regs) : SWord := r.getS f.b.toNat
def CForm.sd (f : CForm) (r : Regs) : SWord := r.getS f.d.toNat
def CForm.aa (f : CForm) (r : Regs) : AWord := r.getA f.a.toNat
def CForm.ab (f : CForm) (r : Regs) : AWord := r.getA f.b.toNat
def CForm.immInt (f : CForm) : Int := f.imm.toInt

end Sys2Proof

namespace Sys2Proof.Machine
open Sys2Proof

/-! ### Registers in use -/

/-- A register or register group that an instruction reads or writes. -/
inductive RegRef where
  | s (n : Nat)
  | v (first count : Nat)
  | t (n : Nat)
  deriving DecidableEq, Repr

def RegRef.overlaps : RegRef → RegRef → Bool
  | .s a, .s b => a == b
  | .t a, .t b => a == b
  | .v a m, .v b n => a < b + n && b < a + m
  | _, _ => false

/-- Registers that an outstanding local load will write (03 R75). -/
def Move.dests (m : Move) : List RegRef :=
  if m.op = 0x0C then [.s m.reg]
  else if m.op = 0x10 then [.t m.reg]
  else if m.op ∈ [0x01, 0x02, 0x05, 0x08] then (m.elems.map (fun e => m.reg + e.dst / 8192)).dedup.map (fun r => .v r 1)
  else []

/-- Registers that a far operation's reply will write (11 R256). -/
def FarOp.dests (o : FarOp) : List RegRef :=
  if o.op = 0x18 then [.v o.reg 1] else if o.op = 0x1A ∧ !o.discard then [.s o.reg] else []

/-- No write in progress of work before number `n` touches a register in use (03 R56). -/
def Core.settled (k : Core) (n : Nat) (uses : List RegRef) : Bool :=
  k.moves.all (fun m => n ≤ m.id || m.dests.all (fun d => uses.all (fun u => !d.overlaps u)))
  && k.far.all (fun o => n ≤ o.id || o.dests.all (fun d => uses.all (fun u => !d.overlaps u)))

/-! ### Operations that have not taken effect (03 R73, R75) -/

/-- The move stores (M.SCADD and its kin among them). -/
def storeOp (op : Nat) : Bool := [0x03, 0x04, 0x06, 0x09, 0x0A, 0x0B, 0x0D, 0x0E, 0x11].contains op

/-- Byte ranges by canonical address. -/
def Move.ranges (pc : Nat) (m : Move) : List (Nat × Nat) := m.elems.map (fun e => (canonAddr pc e.addr, e.n))

def CopyOp.srcRange (pc : Nat) (k : CopyOp) : List (Nat × Nat) := [(canonAddr pc k.src, 64 * k.blocks)]
def CopyOp.dstRange (pc : Nat) (k : CopyOp) : List (Nat × Nat) := [(canonAddr pc k.dst, 64 * k.blocks)]

/-- 03 R73: no earlier operation of the core that has not taken effect overlaps these reads and writes. -/
def Core.clear (k : Core) (id : Nat) (reads writes : List (Nat × Nat)) : Bool :=
  let pc := k.planCore
  k.moves.all (fun m => id ≤ m.id ||
    (!rangesMeet (m.ranges pc) writes && !(storeOp m.op && rangesMeet (m.ranges pc) reads)))
  && k.copies.all (fun m => id ≤ m.id ||
    (!rangesMeet (m.dstRange pc) (reads ++ writes) && !rangesMeet (m.srcRange pc) writes))

/-- Every local store of work before number `id` has been applied. -/
def Core.storesDone (k : Core) (id : Nat) : Bool :=
  k.moves.all (fun m => id ≤ m.id || !storeOp m.op) && k.copies.all (fun m => id ≤ m.id)

/-- Requests outstanding, at most 256: what a longer move or copy needs beyond them waits within it. -/
def Core.requests (k : Core) : Nat :=
  min 256 ((k.moves.map (·.requests)).sum + (k.copies.map (·.blocks)).sum + k.far.length)

/-- Every memory operation, descriptor and M.COPY of the core has completed or failed. -/
def Core.quiet (k : Core) : Bool := k.moves.isEmpty && k.copies.isEmpty && k.issued.isEmpty && k.far.isEmpty

/-! ### C slot -/

/-- The *Condition code table*, integer test. -/
def condInt (cond : BitVec 3) (a b : SWord) : Bool :=
  match cond.toNat with
  | 0 => a == b
  | 1 => a != b
  | 2 => a.slt b
  | 3 => !a.slt b
  | 4 => a.ult b
  | _ => !a.ult b

def usesA (f : CForm) : List RegRef := [.s f.a.toNat]
def usesAB (f : CForm) : List RegRef := [.s f.a.toNat, .s f.b.toNat]

/-- Registers that a C-slot instruction uses (03 R68). -/
def cUses (op : Nat) (f : CForm) : List RegRef :=
  let d : RegRef := .s f.d.toNat
  let us : List RegRef := if f.useS then usesA f else []
  if op ∈ [0x01, 0x02, 0x03, 0x04, 0x05, 0x06, 0x07, 0x08, 0x09, 0x0D, 0x10, 0x11, 0x12, 0x13, 0x14, 0x16, 0x17, 0x18] then
    d :: usesAB f
  else if op ∈ [0x0A, 0x15, 0x19, 0x1A] then d :: usesA f
  else if op ∈ [0x0B, 0x0C, 0x26] then [d]
  else if op = 0x25 then usesA f
  else if op ∈ [0x28, 0x32, 0x39] then us
  else if op = 0x31 then usesAB f
  else if op = 0x38 then [.s f.b.toNat]
  else if op ∈ [0x40, 0x41, 0x42, 0x43, 0x44] then d :: us
  else []

/-- The fault of C.WAITF's address (03 R68): the window and the program range first, then alignment. -/
def waitFault (p : Plan) (planCore a : Nat) : Option Nat :=
  let prog := match p.img.cores[planCore]? with | some d => d.program.length | none => 0
  if a < baseOwn ∨ baseOwn + sramBytes < a + 8 ∨ a - baseOwn < prog then some codeTranslation
  else if a % 8 ≠ 0 then some codeMisaligned
  else none

/-! ### X slot -/

/-- The registers an X.MMA uses. -/
def mmaUses (p : Pairing) (f : XForm) : List RegRef :=
  [.t f.td.toNat, .t f.ta.toNat, .t f.tb.toNat]
    ++ (if p.vsa = 0 then [] else [.v f.vsa.toNat p.vsa]) ++ (if p.vsb = 0 then [] else [.v f.vsb.toNat p.vsb])

def xMoveUses (f : XForm) : List RegRef := [.t f.td.toNat, .v f.vr.toNat (grpSize f.grp)]

/-- Registers that an X-slot instruction uses. -/
def xUses (op : Nat) (f : XForm) : List RegRef :=
  if op = 0x01 then (match pairing f.pair.toNat with | some p => mmaUses p f | none => [])
  else if op = 0x02 then [.t f.td.toNat]
  else if op = 0x03 then [.t f.td.toNat, .t f.ta.toNat]
  else if op = 0x04 ∨ op = 0x05 then xMoveUses f
  else []

/-! ### V slot -/

def groupUse (g : GroupRef) : RegRef := .v g.first g.size

/-- Registers that an instruction of form VE uses. -/
def veUses (op : Nat) (f : VEForm) (fs fd : Fmt) : List RegRef :=
  (f.dstGroup op fd).toList.map groupUse ++ (f.srcGroups op fs fd).map groupUse
    ++ (if f.sb then [.s f.vb.toNat] else []) ++ (if op = 0x21 then [.s f.vc.toNat] else [])

/-- A chain entry's fields. -/
structure ChainEntry where
  outScale : Nat
  sat : Bool
  fmtO : Nat
  fmtI : List Nat
  wide : Bool
  /-- (SOP, SELA, SELB, SELC) -/
  stages : List (Nat × Nat × Nat × Nat)
  deriving DecidableEq, Repr

def chainEntry (w : BitVec 320) : ChainEntry :=
  let f (hi lo : Nat) : Nat := bits w.toNat hi lo
  { outScale := f 29 25, sat := f 24 24 == 1, fmtO := f 23 20, fmtI := [f 7 4, f 11 8, f 15 12, f 19 16],
    wide := f 3 3 == 1,
    stages := (List.range (f 2 0 + 1)).map (fun k =>
      let b := 64 + 32 * k
      (f (b + 31) (b + 26), f (b + 25) (b + 20), f (b + 19) (b + 14), f (b + 13) (b + 8))) }

def ChainEntry.prec (e : ChainEntry) : Fmt := if e.wide then .binary64 else .binary32
def ChainEntry.fp (e : ChainEntry) : FFmt := if e.wide then fmtB64 else fmtB32

/-- Inputs that a selector names. -/
def ChainEntry.inputs (e : ChainEntry) : List Nat :=
  (List.range 4).filter (fun k => e.stages.any (fun s => s.2.1 == k || (s.1 ∈ [1, 2, 3, 4, 6, 7, 0xA, 0xB, 0x11] && s.2.2.1 == k)
    || (s.1 ∈ [4, 0xA, 0xB] && s.2.2.2 == k)))

/-- The input groups of a chain, by input number. -/
def chainGroups (f : VCForm) (e : ChainEntry) : List (Option (Fmt × GroupRef)) :=
  ([f.i0, f.i1, f.i2, f.i3].zip e.fmtI).zipIdx.map (fun p =>
    if e.inputs.contains p.2 then (Fmt.ofCode p.1.2).map (fun t => (t, ⟨p.1.1.toNat, t.width, countOf f.count⟩)) else none)

def sRef (sel : Nat) : List RegRef := if 0x20 ≤ sel then [.s (sel - 0x20)] else []

def chainUses (f : VCForm) (e : ChainEntry) (fo : Fmt) : List RegRef :=
  (chainGroups f e).filterMap (fun g => g.map (fun q => groupUse q.2))
    ++ (if f.nowr then [] else [.v f.vd.toNat (GroupRef.size ⟨0, fo.width, countOf f.count⟩)])
    ++ e.stages.flatMap (fun s => sRef s.2.1 ++ sRef s.2.2.1 ++ sRef s.2.2.2)

/-- The source group of a form VR. -/
def vrSource (f : VRForm) (fs : Fmt) : GroupRef := ⟨f.va.toNat, fs.width, countOf f.count⟩
def vrDest (f : VRForm) (fs : Fmt) : GroupRef := ⟨f.vd.toNat, fs.width, countOf f.count⟩

/-- Registers that an instruction of form VR uses. -/
def vrUses (op : Nat) (f : VRForm) (fs : Fmt) : List RegRef :=
  if op = 0x38 then [groupUse (vrSource f fs)]
  else if op ∈ [0x39, 0x3A, 0x41] then [groupUse (vrSource f fs), .s f.vd.toNat]
  else if op ∈ [0x3C, 0x3D, 0x3E] then [.t f.ta.toNat, groupUse (vrDest f fs)]
  else if op ∈ [0x40, 0x42, 0x44] then [groupUse (vrDest f fs), .s f.sb.toNat]
  else [.s f.vd.toNat]

/-- Registers that the V-slot instruction of a word uses on a core. -/
def vUses (k : Core) (w : BitVec 64) : List RegRef :=
  let op := slotOpcode w
  if op = 0 then []
  else if op = 0x30 then
    let f := VCForm.ofWord w
    (match k.chains[f.chain.toNat]? with
     | some e => (match Fmt.ofCode (chainEntry e).fmtO with | some fo => chainUses f (chainEntry e) fo | none => [])
     | none => [])
  else if op < 0x30 then
    let f := VEForm.ofWord w
    (match Fmt.ofCode f.fmt.toNat, f.dstFmt op with | some fs, some fd => veUses op f fs fd | _, _ => [])
  else
    let f := VRForm.ofWord w
    (match Fmt.ofCode f.fmt.toNat with | some fs => vrUses op f fs | none => [])

/-! ### M slot -/

/-- Base plus signed offset, modulo 2^48 (03 R59). -/
def mvBase (f : MVForm) (r : Regs) : AWord := r.getA f.ab.toNat + f.offs.signExtend 48

/-- Registers that an instruction of form MV uses. -/
def mvUses (op : Nat) (f : MVForm) : List RegRef :=
  let g := grpSize f.grp
  if op ∈ [0x0C, 0x0D, 0x0E] then [.s f.reg.toNat]
  else if op ∈ [0x10, 0x11] then [.t f.reg.toNat]
  else if op ∈ [0x05, 0x06] then [.v f.reg.toNat (g * nfFields f.nf)]
  else if op = 0x14 then []
  else [.v f.reg.toNat g]

def mgUses (f : MGForm) : List RegRef := [.v f.vd.toNat (grpSize f.grp), groupUse f.indexGroup]

def farUses (op : Nat) (f : MFForm) : List RegRef :=
  if op = 0x18 ∨ op = 0x19 then [.v f.reg.toNat 1]
  else if op = 0x1A then [.s f.reg.toNat, .s f.sb.toNat] ++ (if f.aop = 4 then [.s (f.sb.toNat + 1)] else [])
  else [.s f.reg.toNat]

/-- Registers that the M-slot instruction of a word uses. -/
def mUses (w : BitVec 64) : List RegRef :=
  let op := slotOpcode w
  if op ∈ [0x00, 0x1C, 0x1F] then []
  else if op ∈ [0x08, 0x09, 0x0A, 0x0B] then mgUses (MGForm.ofWord w)
  else if op ∈ [0x18, 0x19, 0x1A, 0x1B] then farUses op (MFForm.ofWord w)
  else mvUses op (MVForm.ofWord w)

/-! ### The core control window (03 R66) -/

def controlBytes : Nat := 0x10000
def inControl (a n : Nat) : Bool := baseControl < a + n && a < baseControl + controlBytes

/-- The load reads NUM_FLAGS or a DC register, which waits for all earlier work. -/
def controlWaits (off n : Nat) : Bool := (off < 0x14 && 0x10 < off + n) || (off < 0xA0 && 0x20 < off + n)

/-! ### A whole bundle (03 R56) -/

/-- A slot of the bundle at which the core stands. -/
def Core.slotWord (k : Core) (sl : Slot) : BitVec 64 :=
  bundleSlot (BitVec.ofNat 256 (leNat (memRead 0 k.sram (32 * k.bundle) 32))) sl

/-- The word that C.WAITF waits for, as earlier work of the core leaves it: none while an earlier operation that
overlaps it has not taken effect (03 R73). -/
def Core.flagWord (k : Core) (a : Nat) : Option SWord :=
  if k.clear k.openId [(canonAddr k.planCore a, 8)] [] then some (BitVec.ofNat 64 (leNat (memRead 0 k.sram (a - baseOwn) 8)))
  else none

/-- Local address of C.WAITF. -/
def flagAddr (f : CForm) (r : Regs) : Nat := (f.aa r + f.imm.signExtend 48).toNat

/-- The flag for which C.WAITF waits is there, or its wait ends in a fault. -/
def Core.flagThere (k : Core) (p : Plan) (f : CForm) (r : Regs) : Bool :=
  let a := flagAddr f r
  (waitFault p k.planCore a).isSome || anyBad k.sramBad 8 (a - baseOwn) 8
    || (match k.flagWord a with | some w => condInt f.cond w (f.sb r) | none => false)

/-- The count for which C.WAITDC waits has been reached. -/
def Core.countThere (k : Core) (f : CForm) (r : Regs) : Bool :=
  let n : DCWord := if f.useS then (f.sa r).setWidth 32 else f.imm
  !(k.dc[f.d.toNat % 16]'(Nat.mod_lt _ (by decide)) - n).msb

/-- Places left in the queue of the unit to which C.ISSUE issues, and of the core's sixteen descriptors (03 R83). -/
def issuePlace (s : State) (p : Plan) (k : Core) (f : CForm) : Bool :=
  let n := f.imm.toNat % 2 ^ 16
  k.issued.length < 16
    && (if f.unit = 0 then
        (match p.img.cartOf[n]? with
         | some u => if h : u < 32 then s.carts[u].queue.length + s.carts[u].running.isSome.toNat < 16 else true
         | none => true)
      else if f.unit = 1 then
        (match p.img.reckOf[n]? with
         | some u => if h : u < 32 then s.recks[u].queue.length + s.recks[u].running.isSome.toNat < 16 else true
         | none => true)
      else true)

/-- The C slot can issue with the bundle. C.HARV and C.HALT issue, and wait as their own effect (03 R85). -/
def cReady (s : State) (p : Plan) (k : Core) (w : BitVec 64) : Bool :=
  let f := CForm.ofWord w
  let op := slotOpcode w
  if op = 0x38 then k.flagThere p f k.regs
  else if op = 0x39 then k.countThere f k.regs
  else if op = 0x3A then issuePlace s p k f
  else true

/-- The M slot can issue with the bundle: its requests find a place, and what a fence or a load of the core control
window waits for is done. -/
def mReady (k : Core) (w : BitVec 64) : Bool :=
  let op := slotOpcode w
  let f := MVForm.ofWord w
  if op = 0x00 then true
  else if op = 0x1C then k.far.isEmpty
  else if op = 0x1F then k.storesDone k.openId
  else if op = 0x0C ∧ inControl (mvBase f k.regs).toNat 1 then
    !controlWaits ((mvBase f k.regs).toNat - baseControl) (ewBytes f.ew) || k.quiet
  else k.requests < 256

/-- The bundle at which the core stands may issue: no slot of it has issued yet and all four can, or one has (03 R56). -/
def bundleReady (s : State) (p : Plan) (k : Core) : Bool :=
  (k.slotX || k.slotV || k.slotM)
  || (k.settled k.openId (cUses (slotOpcode (k.slotWord .c)) (CForm.ofWord (k.slotWord .c))
        ++ xUses (slotOpcode (k.slotWord .x)) (XForm.ofWord (k.slotWord .x)) ++ vUses k (k.slotWord .v)
        ++ mUses (k.slotWord .m))
      && cReady s p k (k.slotWord .c) && mReady k (k.slotWord .m))

end Sys2Proof.Machine
end

