-- ==== Sys2Proof/Machine/Bundle.lean ====
section
/-! DEFINITION. Issue of a bundle's slots (03 R55, R56): the operand view, waits on writes in progress, the close of a
bundle and the loop rules (R69), flags and watches (02 R48; 14 R334). -/

namespace Sys2Proof.Machine
open Sys2Proof

/-! ### Loops and the next bundle (03 R69) -/

/-- The bundle after a body may start the next pass of the innermost loop, or end it. -/
def nextBundle : Nat → List Loop → Regs → Nat × List Loop × Regs
  | n, [], r => (n, [], r)
  | n, lp :: rest, r =>
    if n = lp.first + lp.len then
      let pass := (r.getL lp.ctr).toNat + 1
      if pass < lp.count then (lp.first, lp :: rest, r.setL lp.ctr (BitVec.ofNat 20 pass)) else nextBundle n rest r
    else (n, lp :: rest, r)

/-- Where a bundle leads. -/
inductive Flow where
  | next
  | jump (target : Nat)
  | loop (ctr : Fin 4) (len count : Nat)
  deriving DecidableEq, Repr

def Core.follow (k : Core) (fl : Flow) : Core :=
  match fl with
  | .next =>
    let (b, ls, r) := nextBundle (k.bundle + 1) k.loops k.regs
    { k with bundle := b, loops := ls, regs := r }
  | .jump t => { k with bundle := t }
  | .loop ctr len count =>
    let r := k.regs.setL ctr 0
    if count = 0 then
      let (b, ls, r) := nextBundle (k.bundle + 1 + len) k.loops r
      { k with bundle := b, loops := ls, regs := r }
    else { k with bundle := k.bundle + 1, loops := ⟨ctr, k.bundle + 1, len, count⟩ :: k.loops, regs := r }

/-- 18 R404: a bundle of `work` slots other than no-ops has issued. -/
def TopDown.bundle (t : TopDown) (work : Nat) : TopDown :=
  { t with kept := addStick t.kept work, spilt := addStick t.spilt (4 - work), attempt := addStick t.attempt work }

/-- The open bundle has issued; the core goes on as `fl` says. -/
def Core.close (k : Core) (fl : Flow) : Core :=
  let k := { k with view := none, slotX := false, slotV := false, slotM := false, flagSeen := false,
                    topDown := k.topDown.bundle k.work }
  ({ k.follow fl with closed := k.closed + 1 }).count 0x001 1

def Core.openBundle (k : Core) : Core :=
  { k with view := some k.regs, slotX := false, slotV := false, slotM := false, flagSeen := false, work := 0, openId := k.nextId,
           openFlags := k.flagsStep ||| k.flagsCommitted }

def Core.slotTaken (k : Core) : Slot → Bool
  | .c => false | .x => k.slotX | .v => k.slotV | .m => k.slotM

/-- A slot of the open bundle has issued. -/
def Core.mark (k : Core) (sl : Slot) (op : Nat) : Core :=
  let k := { k with work := k.work + (if op = 0 then 0 else 1) }
  match sl with
  | .c => k | .x => { k with slotX := true } | .v => { k with slotV := true } | .m => { k with slotM := true }

/-- The core as a slot instruction finds it: a second instruction of one slot closes the open bundle, and the first
of a bundle opens it with the operand view (03 R56). -/
def Core.intoBundle (k : Core) (sl : Slot) : Core :=
  let k := if k.view.isSome && k.slotTaken sl then k.close .next else k
  if k.view.isNone then k.openBundle else k

/-! ### Issue -/

/-- What a slot instruction issues with: its core, the loaded plan, and the operand view of its bundle. -/
structure Issue where
  c : CoreId
  i : Fin 16
  p : Plan
  rd : Regs

/-- The core executes bundles of the open step of its plan. -/
def executing (s : State) (c : CoreId) : Option (Fin 16 × Plan) :=
  let k := s.cores[c]
  match k.plan with
  | none => none
  | some i =>
    match s.plans[i] with
    | none => none
    | some p => if k.run = .running ∧ p.stepOpen ∧ p.teardownCause.isNone ∧ serving s then some (i, p) else none

/-- A word of the bundle reads uncorrectable: KIND 7. The opcode and register field cannot be read (free values). -/
def fetchFault (s : State) (c : CoreId) : State :=
  let k := s.cores[c]
  let (op, s) := takeFree s
  let (reg, s) := takeFree s
  coreFault s c codeDataLost k.bundle (op % 256) (reg % 64) 0 0 7 (baseOwn + 32 * k.bundle)
    (some (.sram c (32 * k.bundle)))

/-- A slot of the bundle issues. With the first slot the whole bundle has issued: the C slot's wait for a flag, which the
program holds there, is met (`bundleReady`). -/
def Core.begin (k : Core) (sl : Slot) (op : Nat) : Core :=
  let first := !(k.slotX || k.slotV || k.slotM)
  { k.mark sl op with flagSeen := if first then slotOpcode (k.slotWord .c) == 0x38 else k.flagSeen }

/-- Issue one slot instruction (03 R56): nothing happens while the core does not execute, while a slot of the bundle
cannot issue, while an operand's write is in progress, or while the body answers that it waits. -/
def issue (s : State) (c : CoreId) (sl : Slot) (op : Nat) (uses : List RegRef)
    (body : State → Issue → Option State) : State :=
  match executing s c with
  | none => s
  | some (i, p) =>
    let k := s.cores[c].intoBundle sl
    let s' := s.modCore c (fun _ => k.begin sl op)
    if anyBad k.sramBad 8 (32 * k.bundle) 32 then fetchFault s' c
    else if !bundleReady s p k || !k.settled k.openId uses then s
    else (body s' ⟨c, i, p, k.view.getD k.regs⟩).getD s

/-- Close the open bundle, unless the instruction took the core out of its program. -/
def closeBundle (s : State) (c : CoreId) (fl : Flow) : State :=
  if s.cores[c].run = .running then s.modCore c (·.close fl) else s

/-- Issue a C-slot instruction, which ends its bundle. -/
def issueC (s : State) (c : CoreId) (op : Nat) (uses : List RegRef)
    (body : State → Issue → Option (State × Flow)) : State :=
  issue s c .c op uses (fun s x => (body s x).map (fun r => closeBundle r.1 c r.2))

/-- The outcome of a slot instruction: an operand form that no loaded program holds is refused (03 R57). -/
def whenLegal (legal : Bool) (s : State) : Host.Outcome State Fault Refusal :=
  if legal then .next s else .refused .illFormed

/-! ### Flags and watches (02 R48; 14 R332-R334) -/

/-- Level of a watch. -/
def Plan.level (p : Plan) (watch : Nat) : Nat := bits p.widen.toNat (2 * watch + 1) (2 * watch)

/-- Watches that an instruction of a core fires with its flags. -/
def firedWatches (p : Plan) (k : Core) (fl : NumFlags) : List Nat :=
  ((p.img.watches.filter (fun w => w.cls == p.cls && w.planCore == k.planCore && w.first ≤ k.bundle && k.bundle ≤ w.last
    && (w.trigger &&& fl) != 0 && w.from_ + p.level w.watch < 2)).map (·.watch)).dedup

/-- A core sets flags in a plan's program; a watch that fires makes it abandon the step. The cause that the replay's
record carries is not given: a free value. -/
def raiseIn (s : State) (c : CoreId) (i : Fin 16) (p : Plan) (fl : NumFlags) : State :=
  let s := s.modCore c (·.flag fl)
  let k := s.cores[c]
  let ws := firedWatches p k fl
  if ws.isEmpty then s
  else
    let (cause, s) := takeFree s
    let s := s.modCore c (fun k => { k.discardAhead with
      view := none, run := .abandoned (cause % 65536), replayVote := true, fired := (k.fired ++ ws).dedup })
    attend s (abandonStep s i (cause % 65536) FaultRec.reset 0)

/-- An X-slot instruction sets flags. -/
def raiseFlags (s : State) (x : Issue) (fl : NumFlags) : State := raiseIn s x.c x.i x.p fl

/-! ### Register writes -/

def setRegs (s : State) (c : CoreId) (f : Regs → Regs) : State := s.modCore c (·.setRegs f)

/-- Work of an earlier bundle writes registers: the open bundle's operand view has them too. -/
def Core.lateRegs (k : Core) (id : Nat) (f : Regs → Regs) : Core :=
  { k with regs := f k.regs, view := if id < k.openId then k.view.map f else k.view }

def Core.lateFlags (k : Core) (id : Nat) (fl : NumFlags) : Core :=
  { k.flag fl with openFlags := if id < k.openId then k.openFlags ||| fl else k.openFlags }

end Sys2Proof.Machine
end

