-- ==== Sys2Proof/Machine/Access.lean ====
section
/-! DEFINITION. Errors found in memory (08 R178-R180, R191; 12 R286), far operations waiting to leave the core (11
R259-R262), and the run of a local move over its elements (03 R73, R76). -/

namespace Sys2Proof.Machine
open Sys2Proof

/-! ### Errors found -/

/-- A line or word turns out uncorrectable; it stays so until it is written. -/
def markLost (s : State) (pl : Place) : State :=
  let put (l : List Nat) (n : Nat) : List Nat := if l.contains n then l else l ++ [n]
  match pl with
  | .hbm k => { s with hbmBad := put s.hbmBad (k / 64) }
  | .sram c off => s.modCore c (fun k => { k with sramBad := put k.sramBad (off / 8) })
  | .granary b off => { s with bins := s.bins.set b { s.bins[b] with bad := put s.bins[b].bad (off / 8) } }

/-- Count a corrected error of class 0, by its place in the CORRECTED_SUMMARY record (20 R441, R446). -/
def countCorrected (s : State) (kind : Fin 7) : State :=
  { s with counting := { s.counting with
      corrected := s.counting.corrected.set kind (s.counting.corrected[kind] + 1) } }

/-- A read at a place was corrected. -/
def markCorrected (s : State) (pl : Place) : State :=
  match pl with
  | .hbm k =>
    (match lineOf s k with
     | some (ch, _) =>
       if h : ch < 256 then
         let ch : Fin 256 := ⟨ch, h⟩
         countChannel (countCorrected { s with channels := s.channels.set ch { s.channels[ch] with
           corrected := min 0xFFFF (s.channels[ch].corrected + 1) } } 0) ch 0x202 1
       else s
     | none => s)
  | .sram c _ =>
    let n := s.bell / 1000000000
    countCorrected (s.modCore c (fun k => { k with
      sramCorrected := (n, if k.sramCorrected.1 = n then k.sramCorrected.2 + 1 else 1) })) 1
  | .granary b _ =>
    let d : Fin 2 := ⟨b / 256 % 2, Nat.mod_lt _ (by decide)⟩
    countCorrected { s with granary := s.granary.set d { s.granary[d] with
      corrected := min 0xFFFF (s.granary[d].corrected + 1) } } 3

/-- Plan addresses inside a list of ranges. -/
def within (r : List (Nat × Nat)) (l : List Nat) : List Nat := l.filter (fun a => r.any (fun x => x.1 ≤ a && a < x.1 + x.2))

/-- What an access finds of the errors of the memory it reads: plan addresses whose line or word is corrected, and whose
line or word is uncorrectable. -/
def noteErrors (s : State) (p : Plan) (corrected lost : List Nat) : State :=
  let at_ (g : State → Place → State) (s : State) (a : Nat) : State :=
    match translate s p false a with
    | .ok pl => g s pl
    | .error _ => s
  lost.foldl (at_ markLost) (corrected.foldl (at_ markCorrected) s)

/-! ### Local moves -/

/-- KIND of a move's fault (03 R77). -/
def moveKind (op : Nat) : Nat :=
  if op = 0x08 then 3 else if op ∈ [0x09, 0x0A, 0x0B] then 4 else if storeOp op then 2 else 1

/-- A move may take effect (03 R73). -/
def Core.moveReady (k : Core) (m : Move) : Bool :=
  let r := m.ranges k.planCore
  (if storeOp m.op then k.clear m.id [] r else k.clear m.id r []) && (m.op != 0x0E || k.storesDone m.id)

/-- An element's fault: element, status, and where data was lost. -/
abbrev ElemFault := Elem × Nat × Option Place

/-- A store's element writes its line whole when the instruction's elements cover all of it. It matters only where some
line reads uncorrectable. -/
def coversLine (s : State) (pc : Nat) (elems : List Elem) (a : Nat) : Bool :=
  !s.hbmBad.isEmpty &&
    (let r := elems.map (fun e => (canonAddr pc e.addr, e.n))
     (List.range 64).all (fun b => r.any (fun x => x.1 ≤ a / 64 * 64 + b && a / 64 * 64 + b < x.1 + x.2)))

/-- What a move needs of its core while it runs. -/
structure MoveCtx where
  c : CoreId
  i : Fin 16
  pc : Nat
  id : Nat
  op : Nat
  elems : List Elem

/-- Target ← target + lane, rounded once (03 R73). -/
def scatterAdd (flush : Bool) (n : Nat) (target lane : Nat) : Nat × NumFlags :=
  if n = 8 then fmtB64.add flush target lane else fmtB32.add flush target lane

/-- One element: the state and, for a load, the value; or the fault. -/
def runElem (x : MoveCtx) (s : State) (e : Elem) : Except (Nat × Option Place) (State × Nat) :=
  let a := canonAddr x.pc e.addr
  if e.addr % e.n ≠ 0 then .error (codeMisaligned, none)
  else if !storeOp x.op then
    match planRead s x.i a e.n with
    | .ok bs => .ok (s, leNat bs)
    | .fail st _ pl => .error (st, pl)
  else if x.op = 0x0A ∨ x.op = 0x0B then
    match planRead s x.i a e.n with
    | .fail st _ pl => .error (st, pl)
    | .ok bs =>
      let (v, fl) := scatterAdd s.cores[x.c].subFlush e.n (leNat bs) e.data
      match planWrite s x.i a (leBytes e.n v) with
      | .ok s' => .ok (s'.modCore x.c (·.lateFlags x.id fl), 0)
      | .fail st _ pl => .error (st, pl)
  else
    match planWrite s x.i a (leBytes e.n e.data) (coversLine s x.pc x.elems) (x.op == 0x09) with
    | .ok s' => .ok (s', 0)
    | .fail st _ pl => .error (st, pl)

/-- Elements in order, up to the first fault (03 R76). -/
def runElems (x : MoveCtx) : List Elem → State → State × List (Elem × Nat) × Option ElemFault
  | [], s => (s, [], none)
  | e :: t, s =>
    match runElem x s e with
    | .error (st, pl) => (s, [], some (e, st, pl))
    | .ok (s', v) =>
      let (s'', l, f) := runElems x t s'
      (s'', (e, v) :: l, f)

/-- Records of M.LDF and M.STF in order: a lane completes with all its fields or with none (03 R76). -/
def runLanes (x : MoveCtx) : List (List Elem) → State → State × List (Elem × Nat) × Option ElemFault
  | [], s => (s, [], none)
  | g :: t, s =>
    match runElems x g s with
    | (_, _, some f) => (s, [], some f)
    | (s', l, none) =>
      let (s'', l', f) := runLanes x t s'
      (s'', l ++ l', f)

/-- Elements by lane. -/
def byLane (l : List Elem) : List (List Elem) := (l.map (·.lane)).dedup.map (fun i => l.filter (fun e => e.lane == i))

/-- The elements of a move in its order. -/
def runOrder (x : MoveCtx) (l : List Elem) (s : State) : State × List (Elem × Nat) × Option ElemFault :=
  if x.op = 0x05 ∨ x.op = 0x06 then runLanes x (byLane l) s else runElems x l s

/-- The stores of a move other than a scatter write line by line: each word counts once in a tally (03 R75; 14 R328). -/
def tallyMove (x : MoveCtx) (r : State × List (Elem × Nat) × Option ElemFault) : State × List (Elem × Nat) × Option ElemFault :=
  if [0x03, 0x04, 0x06, 0x0D, 0x0E, 0x11].contains x.op then
    (tallyRanges r.1 x.i (r.2.1.map (fun e => (canonAddr x.pc e.1.addr, e.1.n))), r.2)
  else r

/-- A list in the order that a number picks. -/
def shuffle {α : Type} : Nat → Nat → List α → List α
  | 0, _, _ => []
  | n + 1, r, l =>
    match l[r % l.length]? with
    | some a => a :: shuffle n (r / l.length) (l.eraseIdx (r % l.length))
    | none => []

/-- Run a move's elements. M.SCADDU takes them in an order that is not defined; a fault of M.TST leaves any subset of
its lines stored (03 R73, R76): both orders are free. -/
def runMove (x : MoveCtx) (s : State) : State × List (Elem × Nat) × Option ElemFault :=
  if x.op = 0x0B then
    let (r, s) := takeFree s
    runElems x (shuffle x.elems.length r x.elems) s
  else
    match runOrder x x.elems s with
    | (s', l, none) => tallyMove x (s', l, none)
    | (s', l, some f) =>
      if x.op = 0x11 then
        let (r, s) := takeFree s
        tallyMove x (runElems x (shuffle x.elems.length r x.elems) s)
      else tallyMove x (s', l, some f)

/-! ### Loaded data into registers -/

/-- A long register with `n` bytes replaced at a bit. -/
def putBits (v : VReg) (off n val : Nat) : VReg :=
  let w := 8 * n
  BitVec.ofNat 8192 (v.toNat % 2 ^ off + val % 2 ^ w * 2 ^ off + v.toNat / 2 ^ (off + w) * 2 ^ (off + w))

/-- The registers after the loaded elements of a move. -/
def loadRegs (op reg : Nat) (l : List (Elem × Nat)) (r : Regs) : Regs :=
  if op = 0x0C then l.foldl (fun r e => r.setS reg (BitVec.ofNat 64 e.2)) r
  else if op = 0x10 then
    { r with t := r.t.setIfInBounds (reg % 8) (BitVec.ofNat 131072 ((l.map (·.2)).foldr (fun v a => v + 2 ^ 512 * a) 0)) }
  else l.foldl (fun r e => r.setV (reg + e.1.dst / 8192)
      (putBits (r.v.getD (reg + e.1.dst / 8192) 0) (e.1.dst % 8192) e.1.n e.2)) r

/-- A load's data reaches its registers: lanes below a fault hold their values; M.TLD is whole or nothing. -/
def deliver (s : State) (c : CoreId) (id op reg : Nat) (l : List (Elem × Nat)) (faulted : Bool) : State :=
  if storeOp op || (op == 0x10 && faulted) then s
  else s.modCore c (·.lateRegs id (loadRegs op reg l))

/-! ### Far operations leave the core (11 R259-R262) -/

def FarOp.isWrite (o : FarOp) : Bool := o.op != 0x18

/-- An earlier operation without a reply holds this one back. -/
def farHeldBy (o e : FarOp) : Bool :=
  64 ≤ (o.seq - e.seq).toNat
  || (e.place == o.place && (e.isWrite || o.isWrite) && e.addr < o.addr + o.len && o.addr < e.addr + e.len)
  || (o.op == 0x1B && e.isWrite)

/-- Send every far operation that nothing holds back, in order. -/
def releaseFar (s : State) (c : CoreId) : State :=
  let k := s.cores[c]
  let one (acc : List FarOp × List FarOp) (o : FarOp) : List FarOp × List FarOp :=
    if o.issued.isSome || acc.1.any (farHeldBy o) || (o.op == 0x1B && !k.storesDone o.id) then (acc.1 ++ [o], acc.2)
    else (acc.1 ++ [{ o with issued := some s.bell }], acc.2 ++ [{ o with issued := some s.bell }])
  let (l, sent) := k.far.foldl one ([], [])
  let s := s.modCore c (fun k => { k with far := l })
  sent.foldl (fun s o => s.emit (.farRequest o.place o.job.toNat k.planCore o s.bell)) s

/-! ### The end of a move -/

/-- ADDR of a move's fault (03 R77): the address that the lane generated; M.TLD and M.TST generate one for the tile. -/
def faultAddr (op : Nat) (elems : List Elem) (a : Nat) : Nat :=
  if op = 0x10 ∨ op = 0x11 then (match elems with | e :: _ => e.addr | [] => a) else a

/-- HBM lines among the places that an M-slot instruction has reached: each line counts once for the instruction
(notes/assumptions/25.md). -/
def hbmLines (l : List Nat) : Nat := ((l.filter (· < topHbm)).map (· / 64)).dedup.length

/-- HBM_LINES_READ and HBM_LINES_WRITTEN of a core: the plan addresses that its M slot read and wrote (18 event
catalogue). -/
def Core.countLines (k : Core) (read written : List Nat) : Core :=
  let add (event : Nat) (l : List Nat) (k : Core) : Core := if hbmLines l = 0 then k else k.count event (hbmLines l)
  add 0x0C1 written (add 0x0C0 read k)

/-- Perform a move, deliver what it loads, and take its fault. -/
def finishMove (s : State) (c : CoreId) (i : Fin 16) (m : Move) : State :=
  let (s, l, f) := runMove ⟨c, i, s.cores[c].planCore, m.id, m.op, m.elems⟩ s
  let done := l.map (fun e => canonAddr s.cores[c].planCore e.1.addr)
  let s := s.modCore c (·.countLines (if storeOp m.op ∧ m.op ≠ 0x0A ∧ m.op ≠ 0x0B then [] else done)
    (if storeOp m.op then done else []))
  let s := releaseFar (deliver s c m.id m.op m.reg l f.isSome) c
  match f with
  | none => s
  | some (e, st, pl) => coreFault s c st m.bundle m.op m.reg 3 e.lane (moveKind m.op) (faultAddr m.op m.elems e.addr) pl

end Sys2Proof.Machine
end

