-- ==== Sys2Proof/Machine/Reckoner.lean ====
section
/-! DEFINITION. The reckoner (07 R151-R167): problem classes, fixed-point arithmetic, factorisation, iteration, outcome
tests, records, and the load rules of classes and descriptors. -/

namespace Sys2Proof.Machine
open Sys2Proof

/-! ### Fixed point (07 R154-R156)

Every exact value of a solve is an integer in units of 2^-256: no product or sum of the chapter needs more than 252
fraction bits. -/

/-- Width and fraction bits of a format byte. -/
structure QFmt where
  w : Nat
  n : Nat
  deriving DecidableEq, Repr

def QFmt.ofByte (b : Nat) : QFmt := ⟨if b / 128 % 2 = 1 then 64 else 32, b % 64⟩
/-- Q31.32. -/
def q31_32 : QFmt := ⟨64, 32⟩
/-- Q1.30. -/
def q1_30 : QFmt := ⟨32, 30⟩

/-- The real value of a slot: its low W bits, as two's complement. -/
def QFmt.val (F : QFmt) (slot : Nat) : Int := sext F.w slot * 2 ^ (256 - F.n)
def QFmt.least (F : QFmt) : Int := -(2 ^ (F.w - 1)) * 2 ^ (256 - F.n)
def QFmt.most (F : QFmt) : Int := (2 ^ (F.w - 1) - 1) * 2 ^ (256 - F.n)

/-- The slot of a value that the format holds. -/
def QFmt.slot (F : QFmt) (v : Int) : Bytes := leBytes 8 ((v / 2 ^ (256 - F.n)) % 2 ^ 64).toNat

def rmul (a b : Int) : Int := a * b / 2 ^ 256

/-- Round to the nearest integer a sign and a ratio, ties to even, then saturate; the value and SATURATED. -/
def QFmt.fit (F : QFmt) (neg : Bool) (num den : Nat) : Int × Bool :=
  let v := sgn neg (rneDiv num den) * 2 ^ (256 - F.n)
  if v < F.least then (F.least, true) else if F.most < v then (F.most, true) else (v, false)

/-- rnd (e, F). -/
def QFmt.rnd (F : QFmt) (e : Int) : Int × Bool := F.fit (e < 0) e.natAbs (2 ^ (256 - F.n))

/-- quot (a, b, F), for a divisor that is not zero. -/
def QFmt.quot (F : QFmt) (a b : Int) : Int × Bool :=
  F.fit ((a < 0) != (b < 0)) (a.natAbs * 2 ^ F.n) b.natAbs

/-! ### Problem classes (07 R153) -/

/-- A class as read. Positions of arrays count bytes from the start of the class. -/
structure QpClass where
  n : Nat
  m : Nat
  nnzP : Nat
  nnzA : Nat
  perSolve : Bool
  check : Nat
  cap : Nat
  fp : QFmt
  fa : QFmt
  fl : QFmt
  fd : QFmt
  fdi : QFmt
  frho : QFmt
  fri : QFmt
  alpha : Int
  sigma : Int
  delta : Int
  epsPri : Int
  epsDua : Int
  epsPinf : Int
  epsDinf : Int
  fx : List QFmt
  fg : List QFmt
  fz : List QFmt
  fy : List QFmt
  rho : List Int
  order : List Nat
  pPtr : List Nat
  pRow : List Nat
  aPtr : List Nat
  aRow : List Nat
  /-- bytes of P_VAL and A_VAL; empty under PER_SOLVE -/
  vals : Bytes
  /-- 64-bit structure signature (R162) -/
  signature : Nat
  deriving DecidableEq, Repr

/-- Numbers of `w` bytes from a byte string. -/
def leList (w : Nat) : Nat → Bytes → List Nat
  | 0, _ => []
  | k + 1, b => leNat (b.take w) :: leList w k (b.drop w)

def up8 (x : Nat) : Nat := (x + 7) / 8 * 8

/-- Start of each array of the *Class body table*, from (entries, bytes each). -/
def bodyStarts (at_ : Nat) : List (Nat × Nat) → List Nat
  | [] => [at_]
  | (k, w) :: t => at_ :: bodyStarts (up8 (at_ + k * w)) t

def qpShape (n m nnzP nnzA : Nat) (perSolve : Bool) : List (Nat × Nat) :=
  [(n, 1), (n, 1), (m, 1), (m, 1), (m, 8), (n + m, 2), (n + 1, 4), (nnzP, 2), (n + 1, 4), (nnzA, 2)]
    ++ (if perSolve then [] else [(nnzP, 8), (nnzA, 8)])

def qpClass (b : Bytes) : QpClass :=
  let h := leNat (b.take 96)
  let n := bits h 46 37
  let m := bits h 57 47
  let nnzP := bits h 75 58
  let nnzA := bits h 95 76
  let per := bits h 96 96 == 1
  let st := bodyStarts 96 (qpShape n m nnzP nnzA per)
  let arr (k w c : Nat) : List Nat := leList w c (b.drop (st.getD k 0))
  let fmts (k c : Nat) : List QFmt := (arr k 1 c).map QFmt.ofByte
  let fmt (lo : Nat) : QFmt := QFmt.ofByte (bits h (lo + 7) lo)
  let frho := fmt 336
  let raw (k w c : Nat) : Bytes := (b.drop (st.getD k 0)).take (w * c)
  let sig := leNat ((sha512 (leBytes 2 n ++ leBytes 2 m ++ leBytes 4 nnzP ++ leBytes 4 nnzA ++ raw 6 4 (n + 1)
    ++ raw 7 2 nnzP ++ raw 8 4 (n + 1) ++ raw 9 2 nnzA ++ raw 0 1 n ++ raw 1 1 n ++ raw 2 1 m ++ raw 3 1 m)).take 8)
  { n := n, m := m, nnzP := nnzP, nnzA := nnzA, perSolve := per, check := bits h 111 104, cap := bits h 127 112,
    fp := fmt 296, fa := fmt 304, fl := fmt 312, fd := fmt 320, fdi := fmt 328, frho := frho, fri := fmt 344,
    alpha := q1_30.val (bits h 383 352), sigma := (fmt 296).val (bits h 447 384), delta := (fmt 320).val (bits h 511 448),
    epsPri := q31_32.val (bits h 575 512), epsDua := q31_32.val (bits h 639 576),
    epsPinf := q31_32.val (bits h 703 640), epsDinf := q31_32.val (bits h 767 704),
    fx := fmts 0 n, fg := fmts 1 n, fz := fmts 2 m, fy := fmts 3 m,
    rho := (arr 4 8 m).map frho.val, order := arr 5 2 (n + m), pPtr := arr 6 4 (n + 1), pRow := arr 7 2 nnzP,
    aPtr := arr 8 4 (n + 1), aRow := arr 9 2 nnzA,
    vals := if per then [] else raw 10 8 nnzP ++ raw 11 8 nnzA, signature := sig }

/-- Column of the `k`-th stored entry. -/
def colOf (ptr : List Nat) (k : Nat) : Nat := ((ptr.drop 1).findIdx (fun e => k < e))

/-- Entries (row, column, value) of P's upper triangle and of A, from their value slots. -/
def QpClass.pEntries (q : QpClass) (vals : Bytes) : List (Nat × Nat × Int) :=
  (q.pRow.zip (leList 8 q.nnzP vals)).zipIdx.map (fun e => (e.1.1, colOf q.pPtr e.2, q.fp.val e.1.2))
def QpClass.aEntries (q : QpClass) (vals : Bytes) : List (Nat × Nat × Int) :=
  (q.aRow.zip (leList 8 q.nnzA (vals.drop (8 * q.nnzP)))).zipIdx.map (fun e =>
    (e.1.1, colOf q.aPtr e.2, q.fa.val e.1.2))

/-! ### Factorisation (07 R156, R157) -/

/-- RI_j, with SATURATED. -/
def QpClass.ri (q : QpClass) : List Int × Bool :=
  let l := q.rho.map (fun r => q.fri.quot (2 ^ 256) r)
  (l.map (·.1), l.any (·.2))

/-- An entry of the KKT matrix by KKT indices. -/
def kkt (q : QpClass) (ri : List Int) (P A : List (Nat × Nat × Int)) (a b : Nat) : Int :=
  let i := min a b
  let k := max a b
  let at_ (l : List (Nat × Nat × Int)) (r c : Nat) : Int :=
    match l.find? (fun e => e.1 == r && e.2.1 == c) with | some e => e.2.2 | none => 0
  if k < q.n then at_ P i k + (if i = k then q.sigma else 0)
  else if i < q.n then at_ A (k - q.n) i
  else if i = k then -(ri.getD (k - q.n) 0) else 0

/-- The factor: rows of L (row r has its entries for columns 0 to r - 1), D and DI; SATURATED and PIVOT_FLOORED. An
entry outside the symbolic fill comes out as zero. -/
structure Factor where
  rows : List (List Int)
  d : List Int
  di : List Int
  sat : Bool
  floored : Bool
  deriving DecidableEq, Repr

def dot3 : List Int → List Int → List Int → Int
  | a :: as, b :: bs, c :: cs => rmul (rmul a b) c + dot3 as bs cs
  | _, _, _ => 0

def dot2 : List Int → List Int → Int
  | a :: as, b :: bs => rmul a b + dot2 as bs
  | _, _ => 0

/-- Elimination of position `p`. -/
def factorStep (q : QpClass) (ri : List Int) (P A : List (Nat × Nat × Int)) (f : Factor) (p : Nat) : Factor :=
  let k := q.order.getD p 0
  let lp := f.rows.getD p []
  let (d, s1) := q.fd.rnd (kkt q ri P A k k - dot3 lp lp f.d)
  let low : Bool := decide (d.natAbs < q.delta.natAbs)
  let d := if low then (if 0 < d ∨ (d = 0 ∧ k < q.n) then q.delta else -q.delta) else d
  let (di, s2) := q.fdi.quot (2 ^ 256) d
  let col := f.rows.zipIdx.map (fun e =>
    if e.2 ≤ p then (e.1, false)
    else
      let t := kkt q ri P A (q.order.getD e.2 0) k - dot3 e.1 lp f.d
      let (l, s) := q.fl.rnd (rmul t di)
      (e.1 ++ [l], s))
  { rows := col.map (·.1), d := f.d ++ [d], di := f.di ++ [di], sat := f.sat || s1 || s2 || col.any (·.2),
    floored := f.floored || low }

def factorise (q : QpClass) (ri : List Int) (P A : List (Nat × Nat × Int)) : Factor :=
  (List.range (q.n + q.m)).foldl (factorStep q ri P A) ⟨List.replicate (q.n + q.m) [], [], [], false, false⟩

/-! ### Iteration (07 R158, R159) -/

def QpClass.fb (q : QpClass) (k : Nat) : QFmt := if k < q.n then q.fg.getD k ⟨32, 0⟩ else q.fz.getD (k - q.n) ⟨32, 0⟩
def QpClass.fs (q : QpClass) (k : Nat) : QFmt := if k < q.n then q.fx.getD k ⟨32, 0⟩ else q.fy.getD (k - q.n) ⟨32, 0⟩

/-- Forward substitution: w in elimination order. -/
def forwardSub (q : QpClass) (f : Factor) (b : List Int) : List Int × Bool :=
  (List.range (q.n + q.m)).foldl (fun a p =>
    let (v, s) := (q.fb (q.order.getD p 0)).rnd (b.getD (q.order.getD p 0) 0 - dot2 (f.rows.getD p []) a.1)
    (a.1 ++ [v], a.2 || s)) ([], false)

/-- Backward substitution: s of positions p, p + 1, … . -/
def backSub (q : QpClass) (f : Factor) (w : List Int) : List Int × Bool :=
  (List.range (q.n + q.m)).reverse.foldl (fun a p =>
    let sum := dot2 ((f.rows.drop (p + 1)).map (fun r => r.getD p 0)) a.1
    let (v, s) := (q.fs (q.order.getD p 0)).rnd (rmul (w.getD p 0) (f.di.getD p 0) - sum)
    (v :: a.1, a.2 || s)) ([], false)

/-- solve (b), by KKT index. -/
def qpSolve (q : QpClass) (f : Factor) (b : List Int) : List Int × Bool :=
  let (w, s1) := forwardSub q f b
  let (v, s2) := backSub q f w
  ((List.range (q.n + q.m)).map (fun k => v.getD (q.order.idxOf k) 0), s1 || s2)

/-- Matrix times vector: A, its transpose, and P full and symmetric. -/
def mulVec (rows : Nat) (l : List (Nat × Nat × Int)) (x : List Int) : List Int :=
  (List.range rows).map (fun r => ((l.filter (fun e => e.1 == r)).map (fun e => rmul e.2.2 (x.getD e.2.1 0))).sum)
def transposed (l : List (Nat × Nat × Int)) : List (Nat × Nat × Int) := l.map (fun e => (e.2.1, e.1, e.2.2))
def symmetric (l : List (Nat × Nat × Int)) : List (Nat × Nat × Int) := l ++ transposed (l.filter (fun e => e.1 != e.2.1))

/-- What a solve reads: linear term and bounds. -/
structure QpInput where
  g : List Int
  l : List Int
  u : List Int
  deriving DecidableEq, Repr

structure QpState where
  x : List Int
  z : List Int
  y : List Int
  sat : Bool
  deriving DecidableEq, Repr

def zipMap {α β γ : Type} (f : α → β → γ) (a : List α) (b : List β) : List γ := (a.zip b).map (fun e => f e.1 e.2)

/-- One pass of the loop. -/
def qpIterate (q : QpClass) (ri : List Int) (f : Factor) (d : QpInput) (t : QpState) : QpState :=
  let b := zipMap (fun x g => rmul q.sigma x - g) t.x d.g ++ zipMap (fun z e => z - rmul e.1 e.2) t.z (ri.zip t.y)
  let (s, s0) := qpSolve q f b
  let alphac := 2 ^ 256 - q.alpha
  let xs := (List.range q.n).map (fun i =>
    (q.fx.getD i ⟨32, 0⟩).rnd (rmul q.alpha (s.getD i 0) + rmul alphac (t.x.getD i 0)))
  let zy := (List.range q.m).map (fun j =>
    let F := q.fz.getD j ⟨32, 0⟩
    let z := t.z.getD j 0
    let y := t.y.getD j 0
    let r := ri.getD j 0
    let (zt, a) := F.rnd (z + rmul r (s.getD (q.n + j) 0 - y))
    let (zr, b) := F.rnd (rmul q.alpha zt + rmul alphac z)
    let (v, c) := F.rnd (zr + rmul r y)
    let zn := min (max v (d.l.getD j 0)) (d.u.getD j 0)
    let (yn, e) := (q.fy.getD j ⟨32, 0⟩).rnd (y + rmul (q.rho.getD j 0) (zr - zn))
    (zn, yn, a || b || c || e))
  ⟨xs.map (·.1), zy.map (·.1), zy.map (·.2.1), t.sat || s0 || xs.any (·.2) || zy.any (·.2.2)⟩

/-! ### Outcome tests (07 R160) -/

def maxAbs (l : List Int) : Int := l.foldl (fun a v => max a v.natAbs) 0

/-- Residuals r_pri and r_dua. -/
def residuals (q : QpClass) (P A : List (Nat × Nat × Int)) (d : QpInput) (t : QpState) : Int × Int :=
  (maxAbs (zipMap (· - ·) (mulVec q.m A t.x) t.z),
   maxAbs (zipMap (· + ·) (zipMap (· + ·) (mulVec q.n (symmetric P) t.x) d.g) (mulVec q.n (transposed A) t.y)))

def lowerInf (q : QpClass) (d : QpInput) (j : Nat) : Bool := d.l.getD j 0 == (q.fz.getD j ⟨32, 0⟩).least
def upperInf (q : QpClass) (d : QpInput) (j : Nat) : Bool := d.u.getD j 0 == (q.fz.getD j ⟨32, 0⟩).most

/-- The primary outcome at a check, if a test passes. -/
def outcome (q : QpClass) (P A : List (Nat × Nat × Int)) (d : QpInput) (t old : QpState) : Option Nat :=
  let (rp, rd) := residuals q P A d t
  let dy := zipMap (· - ·) t.y old.y
  let dx := zipMap (· - ·) t.x old.x
  let ep := rmul q.epsPinf (maxAbs dy)
  let ed := rmul q.epsDinf (maxAbs dx)
  let js := List.range q.m
  let adx := mulVec q.m A dx
  if rp ≤ q.epsPri ∧ rd ≤ q.epsDua then some 1
  else if 0 < maxAbs dy ∧ maxAbs (mulVec q.n (transposed A) dy) ≤ ep
      ∧ js.all (fun j => !(decide (0 < dy.getD j 0) && upperInf q d j) && !(decide (dy.getD j 0 < 0) && lowerInf q d j))
      ∧ (js.map (fun j => rmul (d.u.getD j 0) (max (dy.getD j 0) 0) + rmul (d.l.getD j 0) (min (dy.getD j 0) 0))).sum ≤ -ep
    then some 3
  else if 0 < maxAbs dx ∧ maxAbs (mulVec q.n (symmetric P) dx) ≤ ed ∧ dot2 d.g dx ≤ -ed
      ∧ js.all (fun j =>
        let v := adx.getD j 0
        match lowerInf q d j, upperInf q d j with
        | false, false => decide (v.natAbs ≤ ed)
        | false, true => decide (-ed ≤ v)
        | true, false => decide (v ≤ ed)
        | true, true => true)
    then some 4
  else none

/-- The loop of 07 R159: the final state, primary outcome and iterations run. -/
def qpLoop (q : QpClass) (ri : List Int) (f : Factor) (P A : List (Nat × Nat × Int)) (d : QpInput) :
    Nat → Nat → QpState → QpState × Nat × Nat
  | 0, it, t => (t, 2, it)
  | fuel + 1, it, t =>
    let t' := qpIterate q ri f d t
    if (it + 1) % q.check = 0 then
      match outcome q P A d t' t with
      | some o => (t', o, it + 1)
      | none => qpLoop q ri f P A d fuel (it + 1) t'
    else qpLoop q ri f P A d fuel (it + 1) t'

/-! ### A solve from its records (07 R161, R162, R164) -/

def slotsOf (fs : List QFmt) (b : Bytes) : List Int := zipMap (fun (F : QFmt) v => F.val v) fs (leList 8 fs.length b)

def QpClass.bytesIn (q : QpClass) : Nat := 8 * (q.n + 2 * q.m) + (if q.perSolve then 8 * (q.nnzP + q.nnzA) else 0)
def QpClass.bytesOut (q : QpClass) : Nat := 32 + 8 * (q.n + 2 * q.m)

/-- The output record of a solve of a class, from its input record and, under WARM, its warm-start record. -/
def qpRun (q : QpClass) (input : Bytes) (warm : Option Bytes) : Bytes :=
  let vals := if q.perSolve then input.drop (8 * (q.n + 2 * q.m)) else q.vals
  let P := q.pEntries vals
  let A := q.aEntries vals
  let (ri, s0) := q.ri
  let f := factorise q ri P A
  let d : QpInput := ⟨slotsOf q.fg input, slotsOf q.fz (input.drop (8 * q.n)), slotsOf q.fz (input.drop (8 * (q.n + q.m)))⟩
  let cold : QpState := ⟨List.replicate q.n 0, List.replicate q.m 0, List.replicate q.m 0, false⟩
  let (start, rejected) : QpState × Bool :=
    match warm with
    | none => (cold, false)
    | some w =>
      if leNat (w.take 8) = q.signature then
        (⟨slotsOf q.fx (w.drop 32), slotsOf q.fz (w.drop (32 + 8 * q.n)), slotsOf q.fy (w.drop (32 + 8 * (q.n + q.m))), false⟩,
         false)
      else (cold, true)
  let (t, o, it) := qpLoop q ri f P A d q.cap 0 start
  let (rp, rd) := residuals q P A d t
  let (rp, s1) := q31_32.rnd rp
  let (rd, s2) := q31_32.rnd rd
  let sat := s0 || f.sat || t.sat || s1 || s2
  leBytes 8 q.signature
    ++ leBytes 4 (rejected.toNat * 2 ^ 10 + f.floored.toNat * 2 ^ 9 + sat.toNat * 2 ^ 8 + o) ++ leBytes 4 it
    ++ q31_32.slot rp ++ q31_32.slot rd
    ++ (zipMap QFmt.slot q.fx t.x).flatten ++ (zipMap QFmt.slot q.fz t.z).flatten ++ (zipMap QFmt.slot q.fy t.y).flatten

/-! ### Descriptors (07 R163) -/

structure ReckDesc where
  out : Nat
  warmAddr : Nat
  inAddr : Nat
  baseOffs : Nat
  cls : Nat
  ind : Bool
  warm : Bool
  deriving DecidableEq, Repr

def reckDesc (b : Bytes) : ReckDesc :=
  let v := leNat b
  ⟨bits v 255 208, bits v 207 160, bits v 159 112, bits v 95 74, bits v 15 8, bits v 1 1 == 1, bits v 0 0 == 1⟩

/-- The records of a descriptor with a base: (address, bytes, is the output record). -/
def ReckDesc.records (d : ReckDesc) (q : QpClass) (base : Nat) : List (Nat × Nat × Bool) :=
  [((d.inAddr + base) % 2 ^ 48, q.bytesIn, false)]
    ++ (if d.warm then [((d.warmAddr + base) % 2 ^ 48, q.bytesOut, false)] else [])
    ++ [((d.out + base) % 2 ^ 48, q.bytesOut, true)]

/-- First failing address of a record that does not translate whole within one window; none where it does. -/
def recordFault (s : State) (p : Plan) (pc : Nat) (r : Nat × Nat × Bool) : Option Nat :=
  match (splitLines (r.2.1 / 64 + 2) r.1 r.2.1).find? (fun e =>
    windowOf e.1 != windowOf r.1 ||
      (match translate s p r.2.2 (canonAddr pc e.1) e.2 with | .error x => x == codeTranslation | .ok _ => false)) with
  | some e => some e.1
  | none => none

/-- The fault of an indirect descriptor at issue (07 R167): status and address. Where several records fail, the address
is that of the first failing 64-byte piece of the input, warm-start and output record in that order; the specification
is silent (DESIGN CHOICE, notes/assumptions/46.md). -/
def ReckDesc.issueFault (s : State) (p : Plan) (pc : Nat) (d : ReckDesc) (q : QpClass) (word : Nat) : Option (Nat × Nat) :=
  let rs := d.records q (word % 2 ^ 48)
  if rs.any (fun r => r.1 % 64 != 0) then some (codeMisaligned, word % 2 ^ 48)
  else (rs.findSome? (recordFault s p pc)).map (fun a => (codeTranslation, a))

/-! ### Load rules (07 R166) -/

def ptrsLegal (n nnz : Nat) (l : List Nat) : Bool :=
  l.head? == some 0 && l.getLast? == some nnz && l.length == n + 1 && (l.zip (l.drop 1)).all (fun e => e.1 ≤ e.2)

/-- Rows of each column strictly increase and lie below `top` of the column. -/
def rowsLegal (ptr rows : List Nat) (top : Nat → Nat) : Bool :=
  (List.range (ptr.length - 1)).all (fun c =>
    let r := (rows.drop (ptr.getD c 0)).take (ptr.getD (c + 1) 0 - ptr.getD c 0)
    r.all (fun x => x < top c) && (r.zip (r.drop 1)).all (fun e => e.1 < e.2))

def byteFmtLegal (b : Nat) : Bool := b / 64 % 2 == 0 && b % 64 < (if b / 128 % 2 = 1 then 64 else 32)

/-- Symbolic fill of the KKT pattern: for each position the later positions in its column of L. -/
def symbolicFill (order : List Nat) (adj : List (Nat × Nat)) : List (List Nat) :=
  let pos (k : Nat) : Nat := order.idxOf k
  let edges := (adj.map (fun e => (min (pos e.1) (pos e.2), max (pos e.1) (pos e.2)))).filter (fun e => e.1 < e.2)
  (List.range order.length).foldl (fun (cols : List (List Nat)) (p : Nat) =>
    let c := cols.getD p []
    match c.min? with
    | none => cols
    | some par => cols.set par (cols.getD par [] ++ c.filter (fun r => par < r)).dedup)
    ((List.range order.length).map (fun p => ((edges.filter (fun e => e.1 == p)).map (·.2)).dedup))

/-- Entries of Lpat. -/
def QpClass.nnzL (q : QpClass) : Nat :=
  let p := (q.pRow.zipIdx.map (fun e => (e.1, colOf q.pPtr e.2)))
  let a := (q.aRow.zipIdx.map (fun e => (q.n + e.1, colOf q.aPtr e.2)))
  ((symbolicFill q.order (p ++ a)).map List.length).sum

/-- SRAM that a class takes on a reckoner. -/
def QpClass.sram (q : QpClass) : Nat := 4096 + 12 * (q.nnzP + q.nnzA) + 10 * q.nnzL + 64 * (q.n + q.m)

/-- A class keeps the rules of its own. -/
def qpLegal (b : Bytes) : Bool :=
  let h := leNat (b.take 96)
  let q := qpClass b
  let fb := (List.range 7).map (fun k => bits h (303 + 8 * k) (296 + 8 * k))
  let st := bodyStarts 96 (qpShape q.n q.m q.nnzP q.nnzA q.perSolve)
  let bytes := (b.drop 96).take q.n ++ (b.drop (st.getD 1 0)).take q.n ++ (b.drop (st.getD 2 0)).take q.m
    ++ (b.drop (st.getD 3 0)).take q.m
  bits h 295 128 == 0 && bits h 103 97 == 0 && bits h 36 0 == 0 && fb.all byteFmtLegal
    && bytes.all (fun x => byteFmtLegal x.toNat)
    && 1 ≤ q.n && q.n ≤ 512 && 1 ≤ q.m && q.m ≤ 1024
    && ptrsLegal q.n q.nnzP q.pPtr && ptrsLegal q.n q.nnzA q.aPtr
    && rowsLegal q.pPtr q.pRow (· + 1) && rowsLegal q.aPtr q.aRow (fun _ => q.m)
    && (List.range q.n).all (fun c => q.pRow.zipIdx.any (fun e => e.1 == c && colOf q.pPtr e.2 == c))
    && (List.range (q.n + q.m)).all (fun k => q.order.contains k)
    && 0 < q.sigma && 0 < q.delta && 0 < q.alpha && q.rho.all (fun r => 0 < r)
    && 0 ≤ q.epsPri && 0 ≤ q.epsDua && 0 ≤ q.epsPinf && 0 ≤ q.epsDinf
    && q.check != 0 && q.cap != 0 && q.cap % q.check == 0

/-- A descriptor that the plan core `pc` owns keeps its rules; `cls` is its class where it is installed. -/
def reckLegal (s : State) (p : Plan) (pc : Nat) (b : Bytes) (cls : Option Bytes) : Bool :=
  let v := leNat b
  let d := reckDesc b
  bits v 111 96 == 0 && bits v 73 16 == 0 && bits v 7 2 == 0
    && (match cls with
      | none => false
      | some c =>
        if d.ind then baseWordLegal p pc d.baseOffs
        else (d.records (qpClass c) 0).all (fun r => r.1 % 64 == 0 && rangeReach s p pc r.2.2 r.1 r.2.1))

end Sys2Proof.Machine
end

