-- ==== Sys2Proof/Machine/CSlot.lean ====
section
/-! DEFINITION. The C-slot instructions (03 R68, R69, R85, R86) but C.ISSUE. -/

namespace Sys2Proof.Machine
open Sys2Proof

/-- The *Condition code table*, binary64 test. -/
def condBin (cond : BitVec 3) (o : Option Ordering) : Bool :=
  match cond.toNat with
  | 0 => o == some .eq
  | 1 => o != some .eq
  | 2 => o == some .lt
  | _ => o == some .gt || o == some .eq

/-! ### Shared forms -/

/-- An instruction that writes Sd from S and A registers, and may set flags; `flush` is SUB_FLUSH (02 R46). -/
def cScalar (op : Nat) (f : CForm) (val : Bool → Regs → Nat × NumFlags) (c : CoreId) (s : State) :
    Host.Outcome State Fault Refusal :=
  whenLegal (f.legal op) (issueC s c op (cUses op f) (fun s x =>
    let (v, fl) := val s.cores[c].subFlush x.rd
    some ((setRegs s c (·.setS f.d.toNat (BitVec.ofNat 64 v))).modCore c (·.flag fl), .next)))

/-- An integer result of two S registers under SAT. -/
def cInt (op : Nat) (f : CForm) (g : Int → Int → Int) (c : CoreId) (s : State) : Host.Outcome State Fault Refusal :=
  cScalar op f (fun _ r => intResult 64 true f.sat (g (f.sa r).toInt (f.sb r).toInt)) c s

/-- A bitwise result of two S registers. -/
def cBits (op : Nat) (f : CForm) (g : SWord → SWord → SWord) (c : CoreId) (s : State) : Host.Outcome State Fault Refusal :=
  cScalar op f (fun _ r => ((g (f.sa r) (f.sb r)).toNat, 0)) c s

/-- A binary64 result of two S registers. -/
def cFp (op : Nat) (f : CForm) (g : Bool → Nat → Nat → Nat × NumFlags) (c : CoreId) (s : State) :
    Host.Outcome State Fault Refusal :=
  cScalar op f (fun fl r => g fl (f.sa r).toNat (f.sb r).toNat) c s

/-- An instruction that writes Ad. -/
def cAddr (op : Nat) (f : CForm) (val : Regs → AWord) (c : CoreId) (s : State) :
    Host.Outcome State Fault Refusal :=
  whenLegal (f.legal op) (issueC s c op (cUses op f) (fun s x =>
    let s := s.modCore c (fun k => { k with
      fromS := (if op = 0x25 then [f.d.toNat] else []) ++ k.fromS.filter (· != f.d.toNat) })
    some (setRegs s c (·.setA f.d.toNat (val x.rd)), .next)))

/-- An instruction that writes Kd. -/
def cMask (op : Nat) (f : CForm) (val : Regs → KMask) (c : CoreId) (s : State) :
    Host.Outcome State Fault Refusal :=
  whenLegal (f.legal op) (issueC s c op (cUses op f) (fun s x => some (setRegs s c (·.setK f.d.toNat (val x.rd)), .next)))

/-- A mask register named by a C-slot field. -/
def kOf (r : Regs) (v : BitVec 5) : KMask := r.mask (v.setWidth 3)

/-- The bundle a branch leads to. -/
def branchTarget (s : State) (c : CoreId) (f : CForm) : Flow := .jump ((s.cores[c].bundle : Int) + f.immInt).toNat

/-! ### Meanings: integers and logic -/

def execCNop (c : CoreId) (s : State) : Host.Outcome State Fault Refusal :=
  .next (issueC s c 0x00 [] (fun s _ => some (s, .next)))
def execCAdd (c : CoreId) (f : CForm) (s : State) : Host.Outcome State Fault Refusal := cInt 0x01 f (· + ·) c s
def execCSub (c : CoreId) (f : CForm) (s : State) : Host.Outcome State Fault Refusal := cInt 0x02 f (· - ·) c s
def execCMul (c : CoreId) (f : CForm) (s : State) : Host.Outcome State Fault Refusal := cInt 0x03 f (· * ·) c s
def execCAnd (c : CoreId) (f : CForm) (s : State) : Host.Outcome State Fault Refusal := cBits 0x04 f (· &&& ·) c s
def execCOr (c : CoreId) (f : CForm) (s : State) : Host.Outcome State Fault Refusal := cBits 0x05 f (· ||| ·) c s
def execCXor (c : CoreId) (f : CForm) (s : State) : Host.Outcome State Fault Refusal := cBits 0x06 f (· ^^^ ·) c s

/-- Sb[5:0]. -/
def shiftBy (b : SWord) : Nat := b.toNat % 64

def execCShl (c : CoreId) (f : CForm) (s : State) : Host.Outcome State Fault Refusal :=
  cScalar 0x07 f (fun _ r => intResult 64 true f.sat ((f.sa r).toInt * 2 ^ shiftBy (f.sb r))) c s
def execCShr (c : CoreId) (f : CForm) (s : State) : Host.Outcome State Fault Refusal :=
  cBits 0x08 f (fun a b => a >>> shiftBy b) c s
def execCSra (c : CoreId) (f : CForm) (s : State) : Host.Outcome State Fault Refusal :=
  cBits 0x09 f (fun a b => a.sshiftRight (shiftBy b)) c s
def execCAddi (c : CoreId) (f : CForm) (s : State) : Host.Outcome State Fault Refusal :=
  cScalar 0x0A f (fun _ r => intResult 64 true f.sat ((f.sa r).toInt + f.immInt)) c s
def execCLi (c : CoreId) (f : CForm) (s : State) : Host.Outcome State Fault Refusal :=
  cScalar 0x0B f (fun _ _ => (wrapInt 64 f.immInt, 0)) c s
def execCLih (c : CoreId) (f : CForm) (s : State) : Host.Outcome State Fault Refusal :=
  cScalar 0x0C f (fun _ r => (f.imm.toNat * 2 ^ 32 + (f.sd r).toNat % 2 ^ 32, 0)) c s
def execCCmp (c : CoreId) (f : CForm) (s : State) : Host.Outcome State Fault Refusal :=
  cScalar 0x0D f (fun _ r => ((condInt f.cond (f.sa r) (f.sb r)).toNat, 0)) c s

/-! ### Meanings: binary64 -/

def execCFadd (c : CoreId) (f : CForm) (s : State) : Host.Outcome State Fault Refusal := cFp 0x10 f fmtB64.add c s
def execCFsub (c : CoreId) (f : CForm) (s : State) : Host.Outcome State Fault Refusal := cFp 0x11 f fmtB64.sub c s
def execCFmul (c : CoreId) (f : CForm) (s : State) : Host.Outcome State Fault Refusal := cFp 0x12 f fmtB64.mul c s
def execCFfma (c : CoreId) (f : CForm) (s : State) : Host.Outcome State Fault Refusal :=
  cScalar 0x13 f (fun fl r => fmtB64.fma fl (f.sa r).toNat (f.sb r).toNat (f.sd r).toNat) c s
def execCFdiv (c : CoreId) (f : CForm) (s : State) : Host.Outcome State Fault Refusal := cFp 0x14 f fmtB64.div c s
def execCFsqrt (c : CoreId) (f : CForm) (s : State) : Host.Outcome State Fault Refusal :=
  cScalar 0x15 f (fun fl r => fmtB64.sqrt fl (f.sa r).toNat) c s
def execCFcmp (c : CoreId) (f : CForm) (s : State) : Host.Outcome State Fault Refusal :=
  cScalar 0x16 f (fun fl r =>
    let (o, g) := fmtB64.cmp fl (f.sa r).toNat (f.sb r).toNat
    ((condBin f.cond o).toNat, g)) c s
def execCFmin (c : CoreId) (f : CForm) (s : State) : Host.Outcome State Fault Refusal :=
  cFp 0x17 f (fun fl => fmtB64.minmax fl false) c s
def execCFmax (c : CoreId) (f : CForm) (s : State) : Host.Outcome State Fault Refusal :=
  cFp 0x18 f (fun fl => fmtB64.minmax fl true) c s
def execCFcvti (c : CoreId) (f : CForm) (s : State) : Host.Outcome State Fault Refusal :=
  cScalar 0x19 f (fun fl r =>
    convert .binary64 .int64 ⟨fl, false, 0, 0, 0⟩ (f.sa r).toNat) c s
def execCIcvtf (c : CoreId) (f : CForm) (s : State) : Host.Outcome State Fault Refusal :=
  cScalar 0x1A f (fun fl r => convert .int64 .binary64 ⟨fl, false, 0, 0, 0⟩ (f.sa r).toNat) c s

/-! ### Meanings: addresses -/

def execCAadd (c : CoreId) (f : CForm) (s : State) : Host.Outcome State Fault Refusal :=
  cAddr 0x20 f (fun r => f.aa r + f.ab r) c s
def execCAaddi (c : CoreId) (f : CForm) (s : State) : Host.Outcome State Fault Refusal :=
  cAddr 0x21 f (fun r => f.aa r + f.imm.signExtend 48) c s
def execCAli (c : CoreId) (f : CForm) (s : State) : Host.Outcome State Fault Refusal :=
  cAddr 0x22 f (fun _ => f.imm.setWidth 48) c s
def execCAlih (c : CoreId) (f : CForm) (s : State) : Host.Outcome State Fault Refusal :=
  cAddr 0x23 f (fun r => f.imm.extractLsb' 0 16 ++ (r.getA f.d.toNat).extractLsb' 0 32) c s
def execCAaddl (c : CoreId) (f : CForm) (s : State) : Host.Outcome State Fault Refusal :=
  cAddr 0x24 f (fun r => f.aa r + (r.getL f.b.toNat).setWidth 48 * f.imm.signExtend 48) c s
def execCAmovs (c : CoreId) (f : CForm) (s : State) : Host.Outcome State Fault Refusal :=
  cAddr 0x25 f (fun r => (f.sa r).setWidth 48) c s
def execCSmova (c : CoreId) (f : CForm) (s : State) : Host.Outcome State Fault Refusal :=
  cScalar 0x26 f (fun _ r => ((f.aa r).toNat, 0)) c s

/-! ### Meanings: lane masks -/

/-- Lanes 0 to n - 1. -/
def lanesBelow (n : Int) : KMask := BitVec.ofNat 4096 (2 ^ (min n 4096).toNat - 1)

def execCKset (c : CoreId) (f : CForm) (s : State) : Host.Outcome State Fault Refusal :=
  cMask 0x28 f (fun r => lanesBelow (if f.useS then (f.sa r).toInt else f.immInt)) c s
def execCKand (c : CoreId) (f : CForm) (s : State) : Host.Outcome State Fault Refusal :=
  cMask 0x29 f (fun r => kOf r f.a &&& kOf r f.b) c s
def execCKor (c : CoreId) (f : CForm) (s : State) : Host.Outcome State Fault Refusal :=
  cMask 0x2A f (fun r => kOf r f.a ||| kOf r f.b) c s
def execCKxor (c : CoreId) (f : CForm) (s : State) : Host.Outcome State Fault Refusal :=
  cMask 0x2B f (fun r => kOf r f.a ^^^ kOf r f.b) c s
def execCKnot (c : CoreId) (f : CForm) (s : State) : Host.Outcome State Fault Refusal :=
  cMask 0x2C f (fun r => ~~~ kOf r f.a) c s

/-! ### Meanings: branches, loops and waits -/

def execCBr (c : CoreId) (f : CForm) (s : State) : Host.Outcome State Fault Refusal :=
  whenLegal (f.legal 0x30) (issueC s c 0x30 [] (fun s _ => some (s, branchTarget s c f)))

def execCBrc (c : CoreId) (f : CForm) (s : State) : Host.Outcome State Fault Refusal :=
  whenLegal (f.legal 0x31) (issueC s c 0x31 (cUses 0x31 f) (fun s x =>
    some (s, if condInt f.cond (f.sa x.rd) (f.sb x.rd) then branchTarget s c f else .next)))

/-- LEN, COUNT and the counter of a C.LOOP. -/
def loopFlow (f : CForm) (r : Regs) : Flow :=
  .loop ⟨f.d.toNat % 4, Nat.mod_lt _ (by decide)⟩ (f.imm.toNat / 2 ^ 20)
    (if f.useS then (f.sa r).toNat % 2 ^ 20 else f.imm.toNat % 2 ^ 20)

def execCLoop (c : CoreId) (f : CForm) (s : State) : Host.Outcome State Fault Refusal :=
  whenLegal (f.legal 0x32) (issueC s c 0x32 (cUses 0x32 f) (fun s x => some (s, loopFlow f x.rd)))

/-- C.WAITF. Its wait is met when its bundle issues; its own slot may come after slots that change the word. -/
def waitFlag (f : CForm) (c : CoreId) (s : State) : State :=
  issueC s c 0x38 (cUses 0x38 f) (fun s x =>
    let k := s.cores[c]
    let a := flagAddr f x.rd
    match waitFault x.p k.planCore a with
    | some e => some (coreFault s c e k.bundle 0x38 0 0 0 1 a none, .next)
    | none =>
      if anyBad k.sramBad 8 (a - baseOwn) 8 then
        some (coreFault s c codeDataLost k.bundle 0x38 0 0 0 1 a (some (.sram c (a - baseOwn))), .next)
      else if k.flagSeen || k.flagThere x.p f x.rd then some (s, .next)
      else none)

def execCWaitf (c : CoreId) (f : CForm) (s : State) : Host.Outcome State Fault Refusal :=
  whenLegal (f.legal 0x38) (waitFlag f c s)

def execCWaitdc (c : CoreId) (f : CForm) (s : State) : Host.Outcome State Fault Refusal :=
  whenLegal (f.legal 0x39) (issueC s c 0x39 (cUses 0x39 f) (fun s x =>
    if s.cores[c].countThere f x.rd then some (s, .next) else none))

/-! ### Meanings: the close of a step (03 R85) -/

/-- What the core would record at a commit (03 R61). -/
def Core.checkpoint (k : Core) : Ckpt := ⟨k.regs.s, k.regs.a, k.regs.l, k.dc, k.loops, k.bundle, k.fromS⟩

/-- C.HARV and C.HALT: the bundle ends, the core votes, and the module votes with its last participant. -/
def closeStep (op : Nat) (run : RunState) (c : CoreId) (s : State) : State :=
  issue s c .c op [] (fun s x =>
    if !s.cores[c].quiet then none
    else
      let s := closeBundle s c .next
      let s := s.modCore c (fun k => { k with run := run, candidate := some k.checkpoint })
      some (tryModuleVote s x.i))

def execCHarv (c : CoreId) (f : CForm) (s : State) : Host.Outcome State Fault Refusal :=
  whenLegal (f.legal 0x3B) (closeStep 0x3B .voted c s)
def execCHalt (c : CoreId) (f : CForm) (s : State) : Host.Outcome State Fault Refusal :=
  whenLegal (f.legal 0x3C) (closeStep 0x3C .halting c s)

/-! ### Meanings: sequence slots (03 R86) -/

/-- Index of the plan's sequence slot, and the count n. -/
def sqIndex (f : CForm) : Nat := f.imm.toNat / 2 ^ 16 % 64
def sqCount (f : CForm) (r : Regs) : Nat := if f.useS then (f.sa r).toNat % 2 ^ 32 else f.imm.toNat % 2 ^ 16

/-- The physical slot of a plan's sequence slot. -/
def sqSlot (p : Plan) (n : Nat) : Option (Fin 64) :=
  match p.seqs[n]? with
  | some k => if h : k < 64 then some ⟨k, h⟩ else none
  | none => none

/-- A sequence-slot instruction: the new slot and Sd. A core other than the owner changes nothing; only C.SQRD of it
passes the load check (03 R57). -/
def cSeq (op : Nat) (f : CForm) (g : Bool → SeqSlot → Nat → SeqSlot × Nat) (c : CoreId) (s : State) :
    Host.Outcome State Fault Refusal :=
  whenLegal (f.legal op) (issueC s c op (cUses op f) (fun s x =>
    match sqSlot x.p (sqIndex f) with
    | none => some (s, .next)
    | some q =>
      let own : Bool := s.cores[c].planCore == s.seqSlots[q].owner.toNat
      let (k, v) := g own s.seqSlots[q] (sqCount f x.rd)
      let s := { s with seqSlots := s.seqSlots.set q k }
      some (setRegs s c (·.setS f.d.toNat (BitVec.ofNat 64 v)), .next)))

def execCSqrd (c : CoreId) (f : CForm) (s : State) : Host.Outcome State Fault Refusal :=
  cSeq 0x40 f (fun own k _ => (k, if own then k.tl.toNat * 2 ^ 32 + k.cl.toNat else k.tlOpen.toNat * 2 ^ 32 + k.clOpen.toNat)) c s

/-- TL ← min (TL + n, CAP). -/
def SeqSlot.draft (k : SeqSlot) (n : Nat) : SeqSlot × Nat :=
  let t := min (k.tl.toNat + n) k.cap.toNat
  ({ k with tl := BitVec.ofNat 32 t }, t - k.tl.toNat)

/-- P ← min (P + n, TL - CL). -/
def SeqSlot.accept (k : SeqSlot) (n : Nat) : SeqSlot × Nat :=
  let t := min (k.p.toNat + n) (k.tl.toNat - k.cl.toNat)
  ({ k with p := BitVec.ofNat 32 t }, t)

/-- TL ← CL + P. -/
def SeqSlot.trim (k : SeqSlot) : SeqSlot × Nat := ({ k with tl := k.cl + k.p }, (k.cl + k.p).toNat)

def execCSqdraft (c : CoreId) (f : CForm) (s : State) : Host.Outcome State Fault Refusal :=
  cSeq 0x41 f (fun own k n => if own then k.draft n else (k, 0)) c s
def execCSqaccept (c : CoreId) (f : CForm) (s : State) : Host.Outcome State Fault Refusal :=
  cSeq 0x42 f (fun own k n => if own then k.accept n else (k, 0)) c s
def execCSqtrim (c : CoreId) (f : CForm) (s : State) : Host.Outcome State Fault Refusal :=
  cSeq 0x43 f (fun own k _ => if own then k.trim else (k, 0)) c s
def execCSqreset (c : CoreId) (f : CForm) (s : State) : Host.Outcome State Fault Refusal :=
  cSeq 0x44 f (fun own k _ => (if own then { k with resetMark := true } else k, 0)) c s

end Sys2Proof.Machine
end

