-- ==== Sys2Proof/Machine/XSlot.lean ====
section
/-! DEFINITION. The X-slot instructions (04 R91-R100): tile forms, exact products and group rounding. -/

namespace Sys2Proof
open Sys2Proof.Machine

def MFmt.fp : MFmt → Option FFmt
  | .binary64 => some fmtB64 | .binary32 => some fmtB32 | .binary16 => some fmtB16 | .fw16 => some fmtFW16
  | .e4m3 => some fmtE4M3 | .e5m2 => some fmtE5M2 | .e2m1 => some fmtE2M1
  | .int8 | .uint8 | .int4 | .w2 | .w1 => none

/-- 02 R37: the integer a code of an integer format stands for. -/
def MFmt.intVal (f : MFmt) (code : Nat) : Int :=
  match f with
  | .int8 => sext 8 code
  | .uint8 => ((code % 256 : Nat) : Int)
  | .int4 => sext 4 code
  | .w2 => sext 2 code
  | .w1 => if code % 2 = 0 then 1 else -1
  | .binary64 | .binary32 | .binary16 | .fw16 | .e4m3 | .e5m2 | .e2m1 => 0

/-- The value of a code. An integer or weight code of value 0 counts as +0, so a term with it has the sign of the other
operand, and a group of such terms alone can give -0: the specification gives integer zeros no sign (DESIGN CHOICE,
notes/assumptions/45.md). -/
def MFmt.value (f : MFmt) (flush : Bool) (code : Nat) : FVal × NumFlags :=
  match f.fp with
  | some F => F.read flush code
  | none => let i := f.intVal code; (.fin (i < 0) i.natAbs 0, 0)

def AccFmt.width : AccFmt → Nat
  | .binary64 => 64 | .binary32 => 32 | .int32 => 32

end Sys2Proof

namespace Sys2Proof.Machine
open Sys2Proof

/-! ### Group rounding (04 R99), shared with the mill (12 R275) -/

/-- The first flags of a list of values read. -/
def orFlags (l : List NumFlags) : NumFlags := l.foldl (· ||| ·) 0

/-- The *Group rounding table*: the accumulator, when not empty, and exact products, as one rounding to F. Signalling
NaNs have set INVALID when they were read. -/
def groupRound (F : FFmt) (flush : Bool) (acc : Option FVal) (prods : List (FVal × FVal)) : Nat × NumFlags :=
  if acc.toList.any FVal.isNan || prods.any (fun p => p.1.isNan || p.2.isNan) then (F.canonNan, 0)
  else
    let terms := prods.map (fun p => p.1.mul p.2)
    if terms.any (fun t => t.2 != 0) then (F.canonNan, flagInvalid)
    else
      match acc.toList ++ terms.map (·.1) with
      | [] => (0, 0)
      | v :: vs =>
        let (z, fl) := vs.foldl (fun a t => let (y, g) := a.1.add t; (y, a.2 ||| g)) (v, (0 : NumFlags))
        let (c, g) := F.roundVal flush z
        (c, fl ||| g)

/-! ### Elements and codes -/

/-- Codes of width `w` from a bit string, element k at bits [w k + w - 1 : w k]. -/
def codesOf (w n : Nat) (v : Nat) : List Nat := (List.range n).map (fun k => v / 2 ^ (w * k) % 2 ^ w)

/-- Codes of width `w` as one bit string, the first code lowest. -/
def packCodes (w : Nat) : List Nat → Nat
  | [] => 0
  | c :: t => c % 2 ^ w + 2 ^ w * packCodes w t

/-- A run of elements, with the scale of each block of 64 (02 R39) where there are scales. -/
def scaledRun (f : MFmt) (flush : Bool) (scales : Option (List Nat)) (codes : List Nat) : List (FVal × NumFlags) :=
  match scales with
  | none => codes.map (f.value flush)
  | some l =>
    let sv := l.map (fmtB16.read flush)
    codes.zipIdx.map (fun e =>
      let (c, g) := f.value flush e.1
      let (s, h) := sv.getD (e.2 / 64) (.fin false 0 0, 0)
      let (p, k) := s.mul c
      (p, g ||| h ||| k))

/-! ### X.MMA (04 R98, R100) -/

/-- Lanes of 16 bits of a V group. -/
def scaleLanes (r : Regs) (first from_ n : Nat) : List Nat :=
  (List.range n).map (fun k =>
    let l := from_ + k
    ((r.v.getD (first + l / 512) 0).extractLsb' (16 * (l % 512)) 16).toNat)

/-- Elements of row m of the activation operand, with their values as terms see them. -/
def actRow (p : Pairing) (f : XForm) (flush : Bool) (r : Regs) (m : Nat) : List (FVal × NumFlags) :=
  let codes := codesOf p.act.width p.ka ((r.t[f.ta.toFin]).extractLsb' (2048 * m) 2048).toNat
  scaledRun p.act flush (if p.vsa = 0 then none else some (scaleLanes r f.vsa.toNat (m * 8) 8)) codes

/-- The segment KSEG of column n of the weight operand. -/
def wgtCol (p : Pairing) (f : XForm) (flush : Bool) (r : Regs) (n : Nat) : List (FVal × NumFlags) :=
  let colBits := 131072 / p.nw
  let codes := codesOf p.wgt.width p.kw ((r.t[f.tb.toFin]).extractLsb' (colBits * n) colBits).toNat
  let j := p.kw / 64
  let run := scaledRun p.wgt flush (if p.vsb = 0 then none else some (scaleLanes r f.vsb.toNat (n * j) j)) codes
  (run.drop (f.kseg.toNat * p.ka)).take p.ka

/-- Split a list into groups of g. -/
def groupsOf {α : Type} (g : Nat) : Nat → List α → List (List α)
  | 0, _ => []
  | n + 1, l => l.take g :: groupsOf g n (l.drop g)

/-- One output with a binary accumulator: the groups in increasing k. -/
def mmaFloat (F : FFmt) (flush : Bool) (acc : Option Nat) (groups : List (List (FVal × FVal))) : Nat × NumFlags :=
  let start : Option FVal × NumFlags :=
    match acc with
    | some c => let (v, g) := F.read flush c; (some v, g)
    | none => (none, 0)
  let (r, fl) := groups.foldl (fun (a : (Option FVal × Nat) × NumFlags) g =>
    let (c, h) := groupRound F flush a.1.1 g
    ((some (F.value c), c), a.2 ||| h)) ((start.1, acc.getD 0), start.2)
  (r.2, fl)

/-- One output with an int32 accumulator (04 R100). -/
def mmaInt (sat : Bool) (acc : Option Nat) (groups : List (List (Int × Int))) : Nat × NumFlags :=
  groups.foldl (fun a g =>
    let (c, h) := intResult 32 true sat (sext 32 a.1 + (g.map (fun p => p.1 * p.2)).sum)
    (c, a.2 ||| h)) (acc.getD 0, (0 : NumFlags))

/-- The tile product: the new accumulator tile and the flags it sets. -/
def tileProduct (p : Pairing) (f : XForm) (flush : Bool) (r : Regs) : TReg × NumFlags :=
  let w := p.acc.width
  let accs := codesOf w (64 * p.nw) (r.t[f.td.toFin]).toNat
  let acc (m n : Nat) : Option Nat := if f.acc then accs[m * p.nw + n]? else none
  match p.acc with
  | .int32 =>
    let rows := (List.range 64).map (fun m =>
      (codesOf 8 p.ka ((r.t[f.ta.toFin]).extractLsb' (2048 * m) 2048).toNat).map p.act.intVal)
    let cols := (List.range p.nw).map (fun n =>
      (codesOf 8 p.kw ((r.t[f.tb.toFin]).extractLsb' (131072 / p.nw * n) (131072 / p.nw)).toNat).map p.wgt.intVal)
    let outs := rows.zipIdx.flatMap (fun row => cols.zipIdx.map (fun col =>
      mmaInt f.sat (acc row.2 col.2) (groupsOf p.g (p.ka / p.g) (row.1.zip col.1))))
    (BitVec.ofNat 131072 (packCodes w (outs.map (·.1))), orFlags (outs.map (·.2)))
  | .binary64 | .binary32 =>
    let F := if p.acc = .binary64 then fmtB64 else fmtB32
    let rows := (List.range 64).map (actRow p f flush r)
    let cols := (List.range p.nw).map (wgtCol p f flush r)
    let read := orFlags ((rows.flatten ++ cols.flatten).map (·.2))
    let outs := rows.zipIdx.flatMap (fun row => cols.zipIdx.map (fun col =>
      mmaFloat F flush (acc row.2 col.2)
        (groupsOf p.g (p.ka / p.g) ((row.1.map (·.1)).zip (col.1.map (·.1))))))
    (BitVec.ofNat 131072 (packCodes w (outs.map (·.1))), read ||| orFlags (outs.map (·.2)))

def Regs.setT (r : Regs) (i : BitVec 3) (v : TReg) : Regs := { r with t := r.t.set i.toFin v }

/-- Issue X.MMA under its pairing. -/
def issueMma (p : Pairing) (f : XForm) (c : CoreId) (s : State) : State :=
  issue s c .x 0x01 (mmaUses p f) (fun s x =>
    let (t, fl) := tileProduct p f s.cores[c].subFlush x.rd
    let s := (setRegs s c (·.setT f.td t)).modCore c (·.count 0x040 1)
    some (raiseFlags s x fl))

/-! ### Meanings -/

def execXNop (c : CoreId) (s : State) : Host.Outcome State Fault Refusal :=
  .next (issue s c .x 0x00 [] (fun s _ => some s))

def execXMma (c : CoreId) (f : XForm) (s : State) : Host.Outcome State Fault Refusal :=
  whenLegal (f.legal 0x01) (match pairing f.pair.toNat with
    | some p => issueMma p f c s
    | none => s)

def execXZero (c : CoreId) (f : XForm) (s : State) : Host.Outcome State Fault Refusal :=
  whenLegal (f.legal 0x02) (issue s c .x 0x02 (xUses 0x02 f) (fun s _ => some (setRegs s c (·.setT f.td 0))))

def execXTmov (c : CoreId) (f : XForm) (s : State) : Host.Outcome State Fault Refusal :=
  whenLegal (f.legal 0x03) (issue s c .x 0x03 (xUses 0x03 f) (fun s x =>
    some (setRegs s c (·.setT f.td x.rd.t[f.ta.toFin]))))

/-- Rows ROW to ROW + 4G - 1 of a tile as one value. -/
def tileRows (t : TReg) (row g : Nat) : Nat := t.toNat / 2 ^ (2048 * row) % 2 ^ (8192 * g)

/-- The tile with those rows replaced. -/
def setTileRows (t : TReg) (row g v : Nat) : TReg :=
  BitVec.ofNat 131072 (t.toNat % 2 ^ (2048 * row) + v % 2 ^ (8192 * g) * 2 ^ (2048 * row)
    + t.toNat / 2 ^ (2048 * row + 8192 * g) * 2 ^ (2048 * row + 8192 * g))

def execXTrd (c : CoreId) (f : XForm) (s : State) : Host.Outcome State Fault Refusal :=
  whenLegal (f.legal 0x04) (issue s c .x 0x04 (xMoveUses f) (fun s x =>
    some (setRegs s c (·.setGroup f.vr.toNat (grpSize f.grp)
      (tileRows x.rd.t[f.td.toFin] f.row.toNat (grpSize f.grp))))))

def execXTwr (c : CoreId) (f : XForm) (s : State) : Host.Outcome State Fault Refusal :=
  whenLegal (f.legal 0x05) (issue s c .x 0x05 (xMoveUses f) (fun s x =>
    some (setRegs s c (·.setT f.td
      (setTileRows x.rd.t[f.td.toFin] f.row.toNat (grpSize f.grp) (x.rd.group f.vr.toNat (grpSize f.grp)))))))

end Sys2Proof.Machine
end

