-- ==== Sys2Proof/Machine/Mill.lean ====
section
/-! DEFINITION. Collectives and the mill (12 R271-R291): descriptors, chunks and frames, combining, corrupt chunks, and
the progress of a collective on this member. -/

namespace Sys2Proof.Machine
open Sys2Proof

/-! ### Descriptors (12 R271) -/

structure CollDesc where
  dst : Nat
  src : Nat
  count : Nat
  root : Nat
  stage : Nat
  partOffs : Nat
  partCount : Nat
  op : Nat
  dtype : Nat
  func : Nat
  chunk : Nat
  arrival : Bool
  crc : Bool
  sat : Bool
  deriving DecidableEq, Repr

def collDesc (b : Bytes) : CollDesc :=
  let v := leNat b
  ⟨bits v 255 208, bits v 207 160, bits v 159 132, bits v 131 119, bits v 118 110, bits v 109 94, bits v 93 84,
   bits v 15 13, bits v 12 10, bits v 9 8, bits v 7 5, bits v 4 4 == 1, bits v 3 3 == 1, bits v 2 2 == 1⟩

/-- Format of a DTYPE. -/
def CollDesc.fmt (d : CollDesc) : Fmt :=
  match d.dtype with
  | 0 => .binary64 | 1 => .binary32 | 2 => .binary16 | 3 => .fw16 | 4 => .int32 | 5 => .int64 | _ => .ledger

/-- ALL_GATHER and BROADCAST move bytes unchanged (12 R275). -/
def CollDesc.moves (d : CollDesc) : Bool := d.op == 2 || d.op == 3
def CollDesc.elem (d : CollDesc) : Nat := d.fmt.width / 8

/-- Wire bytes per element (*Wire format table*). -/
def CollDesc.wire (d : CollDesc) : Nat :=
  if d.moves || d.func != 0 then d.elem
  else if d.dtype = 0 then 8 else if d.dtype ≤ 3 then 4 else 16

/-- Participants: plan core numbers. -/
def CollDesc.parts (d : CollDesc) (p : Plan) : List Nat := (p.img.collParts.drop d.partOffs).take d.partCount

/-- Elements of the vector, elements of a chunk, and chunks (12 R278). -/
def CollDesc.total (d : CollDesc) (n : Nat) : Nat := if d.op = 1 ∨ d.op = 2 then n * d.count else d.count
def CollDesc.perChunk (d : CollDesc) : Nat := 4096 * 2 ^ d.chunk / d.wire
def CollDesc.chunks (d : CollDesc) (n : Nat) : Nat := (d.total n + d.perChunk - 1) / d.perChunk
/-- Elements of chunk `j`. -/
def CollDesc.chunkLen (d : CollDesc) (n j : Nat) : Nat := min d.perChunk (d.total n - j * d.perChunk)

/-- Elements of a part, and parts of chunk `j`: a part is a frame, or under CRC = 1 the chunk (12 R280). -/
def CollDesc.perPart (d : CollDesc) : Nat := if d.crc then d.perChunk else 192 / d.wire
def CollDesc.partCountOf (d : CollDesc) (n j : Nat) : Nat := (d.chunkLen n j + d.perPart - 1) / d.perPart
/-- First element of part `k` of chunk `j`, and its elements. -/
def CollDesc.partStart (d : CollDesc) (j k : Nat) : Nat := j * d.perChunk + k * d.perPart
def CollDesc.partLen (d : CollDesc) (n j k : Nat) : Nat := min d.perPart (d.chunkLen n j - k * d.perPart)

/-- Every (chunk, part). -/
def CollDesc.allParts (d : CollDesc) (n : Nat) : List (Nat × Nat) :=
  (List.range (d.chunks n)).flatMap (fun j => (List.range (d.partCountOf n j)).map (fun k => (j, k)))

/-- Tree B carries the odd chunks. -/
def treeOf (j : Nat) : Bool := j % 2 == 1
def millOf (j : Nat) : Fin 2 := ⟨j % 2, Nat.mod_lt _ (by decide)⟩

/-- Address in SRC of a member's own contribution to element `e`, and in DST of its copy of the result (12 R274). -/
def CollDesc.srcAddr (d : CollDesc) (me e : Nat) : Option Nat :=
  if d.op = 2 then (if e / d.count = me then some (d.src + (e - me * d.count) * d.elem) else none)
  else if d.op = 3 then (if me = d.root then some (d.src + e * d.elem) else none)
  else some (d.src + e * d.elem)

def CollDesc.dstAddr (d : CollDesc) (me e : Nat) : Option Nat :=
  if d.op = 1 then (if e / d.count = me then some (d.dst + (e - me * d.count) * d.elem) else none)
  else if d.op = 4 then (if me = d.root then some (d.dst + e * d.elem) else none)
  else some (d.dst + e * d.elem)

/-! ### Combining (12 R275) -/

/-- A contribution in its wire format, exactly. -/
def CollDesc.toWire (d : CollDesc) (code : Nat) : Nat × NumFlags :=
  if d.moves || d.func != 0 then (code, 0)
  else
    match d.fmt with
    | .binary16 => convert .binary16 .binary32 ⟨false, false, 0, 0, 0⟩ code
    | .fw16 => convert .fw16 .binary32 ⟨false, false, 0, 0, 0⟩ code
    | .int32 => (wrapInt 128 (sext 32 code), 0)
    | .int64 | .ledger => (wrapInt 128 (sext 64 code), 0)
    | _ => (code, 0)

/-- The binary format in which a SUM combines. -/
def CollDesc.sumFmt (d : CollDesc) : Option FFmt :=
  if d.dtype = 0 then some fmtB64 else if d.dtype ≤ 3 then some fmtB32 else none

/-- One partial from inputs in the wire format. -/
def CollDesc.combine (d : CollDesc) (ins : List Nat) : Nat × NumFlags :=
  if d.func = 0 then
    match d.sumFmt with
    | some F =>
      let vs := ins.map (F.read false)
      let (c, fl) := groupRound F false none (vs.map (fun v => (v.1, .fin false 1 0)))
      (c, orFlags (vs.map (·.2)) ||| fl)
    | none => (wrapInt 128 ((ins.map (sext 128)).sum), 0)
  else
    match ins with
    | [] => (0, 0)
    | a :: t =>
      match d.fmt.fp with
      | some F => t.foldl (fun x b => let (c, fl) := F.minmax false (d.func == 2) x.1 b; (c, x.2 ||| fl)) (a, (0 : NumFlags))
      | none =>
        let w := d.fmt.width
        (t.foldl (fun x b => if d.func = 2 then (if sext w x < sext w b then b else x)
                              else (if sext w b < sext w x then b else x)) a, 0)

/-- The result in DTYPE. -/
def CollDesc.fromWire (d : CollDesc) (code : Nat) : Nat × NumFlags :=
  if d.moves || d.func != 0 then (code, 0)
  else
    match d.fmt with
    | .binary16 => convert .binary32 .binary16 ⟨false, false, 0, 0, 0⟩ code
    | .fw16 => convert .binary32 .fw16 ⟨false, false, 0, 0, 0⟩ code
    | .int32 => intResult 32 true d.sat (sext 128 code)
    | .int64 => intResult 64 true d.sat (sext 128 code)
    | .ledger => ledgerResult (sext 128 code)
    | _ => (code, 0)

/-- The inputs of a part, element by element. -/
def transposeCodes (n : Nat) (ins : List (List Nat)) : List (List Nat) :=
  (List.range n).map (fun e => ins.map (fun l => l.getD e 0))

def CollDesc.combineAll (d : CollDesc) (n : Nat) (ins : List (List Nat)) : List Nat × NumFlags :=
  let l := (transposeCodes n ins).map d.combine
  (l.map (·.1), orFlags (l.map (·.2)))

/-! ### Chunk frames (12 R279, R280; 11 R246) -/

/-- The chunk header. -/
structure ChunkHdr where
  step : Nat
  attempt : Nat
  treeB : Bool
  phase : Nat
  corrupt : Bool
  isCheck : Bool
  flags : NumFlags
  desc : Nat
  occ : Nat
  chunk : Nat
  frame : Nat
  bytes : Nat
  deriving DecidableEq, Repr

def ChunkHdr.word (h : ChunkHdr) : Nat :=
  h.step % 2 ^ 32 * 2 ^ 96 + h.attempt % 2 * 2 ^ 95 + h.treeB.toNat * 2 ^ 94 + h.phase * 2 ^ 92 + h.corrupt.toNat * 2 ^ 91
    + h.isCheck.toNat * 2 ^ 90 + h.flags.toNat * 2 ^ 81 + h.desc * 2 ^ 65 + h.occ % 256 * 2 ^ 57 + h.chunk % 2 ^ 20 * 2 ^ 37
    + h.frame * 2 ^ 26 + (h.bytes - 1) * 2 ^ 18 + h.chunk / 2 ^ 20 % 2 ^ 12 * 2 ^ 6

def chunkHdr (b : Bytes) : ChunkHdr :=
  let v := leNat (b.take 16)
  ⟨bits v 127 96, bits v 95 95, bits v 94 94 == 1, bits v 93 92, bits v 91 91 == 1, bits v 90 90 == 1,
   BitVec.ofNat 9 (bits v 89 81), bits v 80 65, bits v 64 57, bits v 56 37 + bits v 17 6 * 2 ^ 20, bits v 36 26,
   bits v 25 18 + 1⟩

/-- The service whose slot runs makes the job's traffic promised work or best effort (01 R28). -/
def trafficClass (p : Plan) : Nat :=
  match p.runs.find? (fun r => !r.ended) with
  | some r => (match p.img.services[r.service]? with | some v => if v.bound = 0 then 2 else 0 | none => 0)
  | none => 0

def chunkFrame (s : State) (p : Plan) (m : Nat) (h : ChunkHdr) (data : Bytes) : Frame :=
  { job := BitVec.ofNat 16 p.jobId, dst := BitVec.ofNat 22 (p.memberPlaces.getD m 0), src := BitVec.ofNat 22 (cfgPlace s),
    typ := 5, cls := BitVec.ofNat 2 (trafficClass p), srcCore := 0, seq := Config.frameSeq 5 s.bell, more := false,
    issueBell := BitVec.ofNat 32 s.bell, content := leBytes 16 h.word ++ data }

/-- Send one part of a chunk to a member. -/
def sendPart (s : State) (p : Plan) (d : CollDesc) (k : Coll) (phase m j part : Nat) (codes : List Nat) (flags : NumFlags)
    (corrupt : Bool) : State :=
  let data := codes.flatMap (leBytes d.wire)
  let hdr (frame bytes : Nat) (chk : Bool) : ChunkHdr :=
    ⟨p.step, k.attempt, treeOf j, phase, corrupt, chk, flags, k.desc, k.occ, j, frame, bytes⟩
  if d.crc then
    let runs := cutBytes 192 (data.length / 192 + 1) data
    let s := runs.zipIdx.foldl (fun (s : State) (e : Bytes × Nat) =>
      s.emit (.chunk p.jobId m (chunkFrame s p m (hdr e.2 e.1.length false) e.1))) s
    s.emit (.chunk p.jobId m (chunkFrame s p m (hdr runs.length 8 true) (leBytes 8 (crc64 data))))
  else s.emit (.chunk p.jobId m (chunkFrame s p m (hdr part data.length false) data))

/-! ### Corrupt chunks (12 R282-R284, R294; 20 R438) -/

/-- A plan that a mill serves. -/
def usesMill (p : Plan) : Bool := 1 < p.img.hdr.members || !p.img.collDesc.isEmpty

/-- A residue mismatch in a mill's own adders: UNIT_ERROR, and at the third since start the mill leaves service. -/
def millError (s : State) (i : Fin 16) (m : Fin 2) : State :=
  let n := s.mills[m].errors + 1
  let (step, att) := planStep s (some i)
  let s := { s with mills := s.mills.set m { s.mills[m] with errors := n } }
  let s := journalPlan s i 0x0809 (leBytes 1 5 ++ leBytes 2 m ++ leBytes 4 step ++ leBytes 1 att ++ leBytes 1 n)
  if n = 3 then
    unitOut { s with mills := s.mills.set m { s.mills[m] with inService := false } } 5 m usesMill 0x5010
  else s

/-! ### The progress of a collective -/

def sameColl (a b : Coll) : Bool := a.plan == b.plan && a.desc == b.desc && a.occ == b.occ && a.attempt == b.attempt

def State.putColl (s : State) (k : Coll) : State :=
  { s with colls := s.colls.map (fun c => if sameColl c k then k else c) }

def findColl (s : State) (i : Fin 16) (desc occ att : Nat) : Option Coll :=
  s.colls.find? (fun k => k.plan == i && k.desc == desc && k.occ == occ && k.attempt == att)

/-- The collective as it now stands. -/
def State.coll (s : State) (k : Coll) : Coll := (findColl s k.plan k.desc k.occ k.attempt).getD k

/-- Apply to the collective as it now stands. -/
def withColl (i : Fin 16) (k : Coll) (f : State → Coll → State) (s : State) : State :=
  match findColl s i k.desc k.occ k.attempt with
  | some c => f s c
  | none => s

/-- A mill marks a chunk of the step corrupt; `finding` is none for a chunk that arrived so. The plan's step votes
replay at harvest. Each chunk counts once. -/
def markCorrupt (s : State) (i : Fin 16) (k : Coll) (j : Nat) (finding : Option Nat) : State :=
  match s.plans[i] with
  | none => s
  | some p =>
    let m := millOf j
    let k := s.coll k
    let s := if k.marked.contains j then s else countMill s m 0x382 1
    let s := if finding.isNone || k.found.contains j then s
      else { s with mills := s.mills.set m { s.mills[m] with corrupt := min 0xFF (s.mills[m].corrupt + 1) } }
    let seen := if m = 0 then p.foundBy.1 else p.foundBy.2
    let s := s.putColl { k with
      status := if k.status = 0 then (if finding = some 4 then codeDataLost else 0x500A) else k.status,
      marked := if k.marked.contains j then k.marked else k.marked ++ [j],
      found := if finding.isNone || k.found.contains j then k.found else k.found ++ [j] }
    match finding with
    | none => s.modPlan i (fun q => { q with corruptMark := true })
    | some f =>
      let s := if seen then s else journalPlan s i 0x0505 (leBytes 4 p.step ++ leBytes 1 p.attempt ++ leBytes 2 k.desc
        ++ leBytes 4 j ++ leBytes 2 p.member ++ leBytes 1 f)
      s.modPlan i (fun q => { q with corruptMark := true,
                                     foundBy := if m = 0 then (true, q.foundBy.2) else (q.foundBy.1, true) })

/-- The mills that carry chunks of a collective record its status. -/
def millStatus (s : State) (p : Plan) (d : CollDesc) (k : Coll) : State :=
  let put (s : State) (m : Fin 2) : State := { s with mills := s.mills.set m { s.mills[m] with status := k.status, desc := k.desc } }
  if 1 < d.chunks p.members then put (put s 0) 1 else put s 0

/-- SRC or DST lies in the SRAM of a fenced core: the collective is abandoned, and the step's early replay discards it
(*Collective status table*). -/
def fencedColl (s : State) (p : Plan) (d : CollDesc) (k : Coll) : State :=
  let k := { s.coll k with status := codeTargetFenced }
  millStatus (s.putColl k) p d k

/-- FLAGS and CORRUPT of what a chunk has produced so far, with more ORed in. -/
def Coll.mark (k : Coll) (j : Nat) (fl : NumFlags) (bad : Bool) : Coll × NumFlags × Bool :=
  match k.marks.find? (fun e => e.1 == j) with
  | some e =>
    let r := (e.2.1 ||| fl, e.2.2 || bad)
    ({ k with marks := k.marks.map (fun e => if e.1 = j then (j, r) else e) }, r)
  | none => ({ k with marks := k.marks ++ [(j, fl, bad)] }, fl, bad)

/-- Frames of a chunk from one member. -/
def Coll.buf (k : Coll) (j phase src : Nat) : Option ChunkBuf :=
  k.bufs.find? (fun b => b.chunk == j && b.phase == phase && b.src == src)

/-- The codes of a part that a buffer holds whole. -/
def CollDesc.partOf (d : CollDesc) (n j part : Nat) (b : ChunkBuf) : Option (List Nat) :=
  let len := d.partLen n j part
  if d.crc then
    let frames := (len * d.wire + 191) / 192
    if b.check.isSome && (List.range frames).all (fun f => b.frames.any (fun e => e.1 == f)) then
      some (leList d.wire len ((List.range frames).flatMap (fun f =>
        match b.frames.find? (fun e => e.1 == f) with | some e => e.2 | none => [])))
    else none
  else (b.frames.find? (fun e => e.1 == part)).map (fun e => leList d.wire len e.2)

/-- This member's own codes of a part, in the wire format: the codes, flags, and the status and place of a failing read of
SRC. -/
def ownCodes (s : State) (i : Fin 16) (p : Plan) (d : CollDesc) (j part : Nat) :
    List Nat × NumFlags × Option (Nat × Option Place) :=
  let n := p.members
  let pc := (d.parts p).headD 0
  let read (e : Nat) : ReadRes :=
    match d.srcAddr p.member e with
    | none => .ok []
    | some a => planRead s i (canonAddr pc a) d.elem
  let chunk := (List.range (d.chunkLen n j)).map (fun e => read (j * d.perChunk + e))
  match chunk.find? (fun r => match r with | .ok _ => false | .fail _ _ _ => true) with
  | some (.fail st _ pl) => (List.replicate (d.partLen n j part) 0, 0, some (st, pl))
  | _ =>
    let l := ((chunk.drop (part * d.perPart)).take (d.partLen n j part)).map (fun r =>
      match r with | .ok bs => d.toWire (leNat bs) | .fail _ _ _ => (0, 0))
    (l.map (·.1), orFlags (l.map (·.2)), none)

/-- Member `x` lies in the subtree of member `m`. -/
def inSubtree (b : Bool) (n m : Nat) : Nat → Nat → Bool
  | 0, x => x == m
  | fuel + 1, x => x == m || (match treeParent b n x with | some q => inSubtree b n m fuel q | none => false)

/-- ALL_GATHER toward the root: the segments of this subtree; what the frame holds of the others is not given. -/
def gatherCodes (d : CollDesc) (p : Plan) (j part free : Nat) (own : List Nat) (kids : List (Nat × List Nat)) : List Nat :=
  (List.range (d.partLen p.members j part)).map (fun e =>
    let o := (d.partStart j part + e) / d.count
    if o = p.member then own.getD e 0
    else
      match kids.find? (fun k => inSubtree (treeOf j) p.members k.1 14 o) with
      | some k => k.2.getD e 0
      | none => free / 2 ^ (8 * d.wire * e) % 2 ^ (8 * d.wire))

/-- This member's DST takes an element of chunk `j`. -/
def CollDesc.writesChunk (d : CollDesc) (n me j : Nat) : Bool :=
  (List.range (d.chunkLen n j)).any (fun e => (d.dstAddr me (j * d.perChunk + e)).isSome)

/-- Write a part of the result to DST, and OR the chunk's flags into the step flags of the participants (R277). -/
def writeResult (s : State) (i : Fin 16) (p : Plan) (d : CollDesc) (k : Coll) (j part : Nat) (codes : List Nat) : State :=
  let pc := (d.parts p).headD 0
  let out := codes.zipIdx.filterMap (fun e => (d.dstAddr p.member (d.partStart j part + e.2)).map (fun a => (a, d.fromWire e.1)))
  let cells := out.map (fun e => (e.1, leBytes d.elem e.2.1))
  let (s, bad) := writeCells i pc (cellsCover s pc cells) cells s
  let (k, fl, _) := k.mark j (orFlags (out.map (·.2.2))) false
  let s := s.putColl { k with taken := k.taken ++ [(j, part)] }
  let s := if d.writesChunk p.members p.member j then k.issuers.foldl (fun s c => s.modCore c.1 (·.flag fl)) s else s
  bad.foldl (fun s f => if f.2.1 = codeTargetFenced then fencedColl s p d k
    else markCorrupt (placeLost s f.2.2 (some i) .mill) i k j (some 4)) s

/-- A part of the result has come to this member: pass it on and write what DST takes of it. -/
def takeResult (s : State) (i : Fin 16) (p : Plan) (d : CollDesc) (k : Coll) (j part : Nat) (codes : List Nat)
    (fl : NumFlags) (bad : Bool) : State :=
  let (k, fl, bad) := k.mark j fl bad
  let s := s.putColl k
  let kids := if d.op = 4 then [] else treeChildren (treeOf j) p.members p.member
  let s := kids.foldl (fun s m => sendPart s p d k 1 m j part codes fl bad) s
  writeResult s i p d k j part codes

/-- A node has formed a part of its partial: it goes to the parent, or is the result. -/
def passUp (s : State) (i : Fin 16) (p : Plan) (d : CollDesc) (k : Coll) (j part : Nat) (codes : List Nat)
    (fl : NumFlags) (bad : Bool) : State :=
  let (k, fl, bad) := k.mark j fl bad
  let k := { k with sentUp := k.sentUp ++ [(j, part)] }
  let s := s.putColl k
  let s := if part + 1 = d.partCountOf p.members j then
      countMill (countMill s (millOf j) 0x380 1) (millOf j) 0x381 ((d.chunkLen p.members j * d.wire + 63) / 64) else s
  let s := if d.op = 4 ∧ p.member ≠ d.root then
      k.issuers.foldl (fun s c => s.modCore c.1 (·.flag fl)) s else s
  match treeParent (treeOf j) p.members p.member with
  | some m => sendPart s p d k 0 m j part codes fl bad
  | none =>
    if d.op = 4 ∧ p.member ≠ d.root then sendPart s p d k 2 d.root j part codes fl bad
    else takeResult s i p d k j part codes fl bad

/-- Members whose inputs a part has, with their codes; in the order in which they came. -/
def partInputs (p : Plan) (d : CollDesc) (k : Coll) (j part : Nat) : List (Nat × List Nat × NumFlags × Bool) :=
  (k.bufs.filter (fun b => b.chunk == j && b.phase == 0)).filterMap (fun b =>
    (d.partOf p.members j part b).map (fun c => (b.src, c, b.flags, b.corrupt)))

/-- Toward the root: combine a part once its inputs are there (12 R275). A member that loses SRC sends zeros. Where the
mill's own adders fail their check on the part, the data is what they computed, which is not given. -/
def tryUp (s : State) (i : Fin 16) (k : Coll) (j part : Nat) : State :=
  match s.plans[i] with
  | none => s
  | some p =>
    match p.img.collDesc[k.desc]? with
    | none => s
    | some b =>
      let d := collDesc b
      if !k.started || d.op == 3 || k.sentUp.contains (j, part) || !s.mills[millOf j].inService then s
      else
        let kids := treeChildren (treeOf j) p.members p.member
        let ins := partInputs p d k j part
        let old := k.partials.find? (fun e => e.chunk == j && e.part == part)
        let (own, fl0, lost) := ownCodes s i p d j part
        let ready := kids.all (fun m => ins.any (fun e => e.1 == m))
        if !ready && !d.arrival then s
        else if lost.any (fun e => e.1 == codeTargetFenced) then fencedColl s p d k
        else
          let s := (match lost with
            | some e => if old.isSome then s else markCorrupt (placeLost s e.2 (some i) .mill) i k j (some 4)
            | none => s)
          let residue := k.residue.contains (j, part)
          let s := if residue then millError (markCorrupt s i k j (some 1)) i (millOf j) else s
          let k := { s.coll k with residue := (s.coll k).residue.filter (· != (j, part)) }
          let (r, s) := if d.op = 2 || residue then takeFree s else (0, s)
          let len := d.partLen p.members j part
          let start : Partial := old.getD ⟨j, part, own, fl0, lost.isSome, []⟩
          let fresh := ins.filter (fun e => !start.took.contains e.1)
          let (codes, fl) : List Nat × NumFlags :=
            if lost.isSome then (List.replicate len 0, 0)
            else if d.op = 2 then (gatherCodes d p j part r start.codes (ins.map (fun e => (e.1, e.2.1))), 0)
            else if d.arrival then
              fresh.foldl (fun a e => let (c, f) := d.combineAll len [a.1, e.2.1]; (c, a.2 ||| f)) (start.codes, (0 : NumFlags))
            else d.combineAll len (start.codes :: ins.map (·.2.1))
          let codes := if residue then (List.range len).map (fun e => r / 2 ^ (8 * d.wire * e) % 2 ^ (8 * d.wire)) else codes
          let q : Partial := ⟨j, part, codes, start.flags ||| fl ||| orFlags (fresh.map (·.2.2.1)),
            start.corrupt || residue || fresh.any (·.2.2.2), start.took ++ fresh.map (·.1)⟩
          let k := { k with partials := k.partials.filter (fun e => !(e.chunk == j && e.part == part)) ++ (if ready then [] else [q]) }
          if ready then passUp (s.putColl k) i p d k j part q.codes q.flags q.corrupt else s.putColl k

/-- Away from the root: a part of the result that has come whole. -/
def tryDown (s : State) (i : Fin 16) (k : Coll) (j part : Nat) : State :=
  match s.plans[i] with
  | none => s
  | some p =>
    match p.img.collDesc[k.desc]? with
    | none => s
    | some b =>
      let d := collDesc b
      if !k.started || k.taken.contains (j, part) then s
      else
        match (k.bufs.filter (fun b => b.chunk == j && b.phase != 0)).findSome? (fun b =>
            (d.partOf p.members j part b).map (fun c => (c, b.flags, b.corrupt))) with
        | some (c, fl, bad) => takeResult s i p d k j part c fl bad
        | none => s

/-- ROOT of a BROADCAST sends a part of SRC to the tree root, or starts it down the tree. -/
def startBroadcast (s : State) (i : Fin 16) (k : Coll) (j part : Nat) : State :=
  match s.plans[i] with
  | none => s
  | some p =>
    match p.img.collDesc[k.desc]? with
    | none => s
    | some b =>
      let d := collDesc b
      if d.op != 3 || p.member != d.root || k.sentUp.contains (j, part) then s
      else
        let (codes, fl, lost) := ownCodes s i p d j part
        if lost.any (fun e => e.1 == codeTargetFenced) then fencedColl s p d k else
        let s := (match lost with
          | some e => markCorrupt (placeLost s e.2 (some i) .mill) i k j (some 4)
          | none => s)
        let k := s.coll k
        let k := { k with sentUp := k.sentUp ++ [(j, part)] }
        let (k, fl, bad) := k.mark j fl lost.isSome
        let s := s.putColl k
        if isRoot (treeOf j) p.members p.member then takeResult s i p d k j part codes fl bad
        else sendPart s p d k 2 (treeMember (treeOf j) p.members (rootPos p.members)) j part codes fl bad

/-- 12 R272: a collective starts here: every part that can go on goes on. -/
def startColl (s : State) (i : Fin 16) (k : Coll) : State :=
  match s.plans[i] with
  | none => s
  | some p =>
    match p.img.collDesc[k.desc]? with
    | none => s
    | some b =>
      let d := collDesc b
      (d.allParts p.members).foldl (fun s e =>
        let s := withColl i k (fun s c => startBroadcast s i c e.1 e.2) s
        let s := withColl i k (fun s c => tryUp s i c e.1 e.2) s
        withColl i k (fun s c => tryDown s i c e.1 e.2) s) (s.putColl { k with started := true })

/-- Start the occurrence of a descriptor that every participant of this member has issued, unless an earlier one has
not ended. -/
def tryStart (s : State) (i : Fin 16) (p : Plan) (desc : Nat) : State :=
  match p.img.collDesc[desc]? with
  | none => s
  | some b =>
    let d := collDesc b
    match s.colls.find? (fun k => k.plan == i && k.desc == desc && k.attempt == p.attempt && !k.started
        && k.issuers.length == d.partCount) with
    | none => s
    | some k =>
      if s.colls.any (fun c => c.plan == i && c.desc == desc && c.attempt == p.attempt && c.started && !c.ended) then s
      else startColl s i k

/-- Occurrences of a descriptor that have ended here in the attempt. -/
def Plan.endedOcc (p : Plan) (desc : Nat) : Nat := ((p.occs.find? (fun e => e.1 == desc)).map (·.2)).getD 0

def emptyColl (i : Fin 16) (desc occ att : Nat) : Coll := ⟨i, desc, occ, att, [], false, false, [], [], [], [], [], [], [], [], 0⟩

/-- A participant issues a collective descriptor: it joins the occurrence that follows those it has issued. -/
def issueColl (s : State) (i : Fin 16) (p : Plan) (c : CoreId) (dc : Fin 16) (desc : Nat) : State :=
  let occ := p.endedOcc desc + s.colls.countP (fun k => k.plan == i && k.desc == desc && k.attempt == p.attempt
    && !k.ended && k.issuers.any (fun e => e.1 == c))
  let s := if (findColl s i desc occ p.attempt).isSome then s
    else { s with colls := s.colls ++ [emptyColl i desc occ p.attempt] }
  let s := withColl i (emptyColl i desc occ p.attempt) (fun s k => s.putColl { k with issuers := k.issuers ++ [(c, dc)] }) s
  tryStart s i p desc

/-! ### A chunk frame arrives (12 R280, R282, R285) -/

/-- The loaded plan that a job id is bound to. -/
def planOfJob (s : State) (job : Nat) : Option (Fin 16 × Plan) :=
  (List.finRange 16).findSome? (fun i =>
    match s.plans[i] with
    | some p => if job ≠ 0 ∧ p.jobId = job then some (i, p) else none
    | none => none)

/-- The frame is discarded under R285: another step, an attempt below the highest seen, an occurrence that has ended,
or a frame already held. -/
def chunkStale (s : State) (i : Fin 16) (p : Plan) (h : ChunkHdr) (src : Nat) : Bool :=
  h.step != p.step || h.attempt < p.highest || (h.attempt == p.attempt && h.occ < p.endedOcc h.desc
      && (findColl s i h.desc h.occ h.attempt).isNone)
  || (match findColl s i h.desc h.occ h.attempt with
      | none => false
      | some k =>
        match k.buf h.chunk h.phase src with
        | none => false
        | some b => if h.isCheck then b.check.isSome else b.frames.any (fun e => e.1 == h.frame))

/-- Put a frame into its buffer. -/
def Coll.addFrame (k : Coll) (h : ChunkHdr) (src : Nat) (data : Bytes) : Coll :=
  let b := (k.buf h.chunk h.phase src).getD ⟨h.chunk, h.phase, src, [], none, false, 0⟩
  let b := { b with corrupt := b.corrupt || h.corrupt, flags := b.flags ||| h.flags }
  let b := if h.isCheck then { b with check := some (leNat (data.take 8)) } else { b with frames := b.frames ++ [(h.frame, data.take h.bytes)] }
  if (k.buf h.chunk h.phase src).isSome then
    { k with bufs := k.bufs.map (fun c => if c.chunk == h.chunk && c.phase == h.phase && c.src == src then b else c) }
  else { k with bufs := k.bufs ++ [b] }

/-- Under CRC = 1: a chunk that has come whole and whose check does not agree. -/
def checkFails (d : CollDesc) (n : Nat) (b : ChunkBuf) : Bool :=
  d.crc && (match b.check, d.partOf n b.chunk 0 b with
    | some c, some codes => c != crc64 (codes.flatMap (leBytes d.wire))
    | _, _ => false)

def Coll.spoil (k : Coll) (b : ChunkBuf) : Coll :=
  { k with bufs := k.bufs.map (fun c => if c.chunk == b.chunk && c.phase == b.phase && c.src == b.src then { c with corrupt := true } else c) }

/-- A mill takes a CHUNK frame. `residue` tells that its adders fail their check on the combination that the frame enters
(a node that combines nothing adds nothing), and `word` names a granary word that it uses and that reads uncorrectable. -/
def receiveChunk (s : State) (f : Frame) (residue : Bool) (word : Option (Fin 512 × Nat)) : State :=
  let h := chunkHdr f.content
  match planOfJob s f.job.toNat with
  | none => s
  | some (i, p) =>
    let m := millOf h.chunk
    if p.teardownCause.isSome || h.phase == 3 || !s.mills[m].inService then s
    else
      match p.memberPlaces.findIdx? (fun x => x == f.src.toNat), p.img.collDesc[h.desc]? with
      | some src, some b =>
        let d := collDesc b
        if chunkStale s i p h src then countMill s m 0x383 1
        else
          let s := s.modPlan i (fun q => { q with highest := max q.highest h.attempt })
          let s := if (findColl s i h.desc h.occ h.attempt).isSome then s
            else { s with colls := s.colls ++ [emptyColl i h.desc h.occ h.attempt] }
          let k := emptyColl i h.desc h.occ h.attempt
          let s := withColl i k (fun s k => s.putColl (k.addFrame h src (f.content.drop 16))) s
          let s := if h.corrupt then markCorrupt s i k h.chunk none else s
          let part := if d.crc then 0 else h.frame
          let s := if residue && h.phase == 0 then
              withColl i k (fun s k => s.putColl { k with residue := k.residue ++ [(h.chunk, part)] }) s else s
          let spoil (finding : Nat) (s : State) : State :=
            withColl i k (fun s k =>
              match k.buf h.chunk h.phase src with
              | some b => markCorrupt (s.putColl (k.spoil b)) i k h.chunk (some finding)
              | none => s) s
          let s := (match findColl s i h.desc h.occ h.attempt with
            | some k => (match k.buf h.chunk h.phase src with
              | some b => if checkFails d p.members b then spoil 2 s else s
              | none => s)
            | none => s)
          let s := (match word with
            | some w => spoil 3 (granaryLost s w.1 w.2 false (some i))
            | none => s)
          if h.phase = 0 then withColl i k (fun s k => tryUp s i k h.chunk part) s
          else withColl i k (fun s k => tryDown s i k h.chunk part) s
      | _, _ => s

/-! ### The end of a collective (12 R272) -/

/-- Everything of DST has been written; for a REDUCE member other than ROOT, its last contribution has been sent. -/
def collDue (p : Plan) (d : CollDesc) (k : Coll) : Bool :=
  let parts := d.allParts p.members
  if d.op = 4 ∧ p.member ≠ d.root then parts.all (fun e => k.sentUp.contains e)
  else parts.all (fun e => k.taken.contains e ||
    (List.range (d.partLen p.members e.1 e.2)).all (fun x => (d.dstAddr p.member (d.partStart e.1 e.2 + x)).isNone))

/-- Nothing of the collective passes through this member any more. -/
def collOver (p : Plan) (d : CollDesc) (k : Coll) : Bool :=
  (d.allParts p.members).all (fun e => (d.op == 3 || k.sentUp.contains e) && (d.op == 4 || k.taken.contains e))

/-- 2S, the bins of a staging area (12 R287). -/
def stageBins (d : CollDesc) : Nat :=
  2 * (if d.chunk = 5 then (if d.arrival then 1 else 2) else if d.chunk = 6 then (if d.arrival then 2 else 3) else 1)

/-- What staging holds after a collective is not defined: free values. -/
def freeStaging (s : State) (p : Plan) (d : CollDesc) : State :=
  let (r, s) := takeFree s
  let area := (p.bins.drop d.stage).take (stageBins d)
  { s with bins := Vector.ofFn (fun b : Fin 512 =>
      match area.findIdx? (fun x => x == b.val) with
      | some x => { s.bins[b] with mem := memWrite 0 s.bins[b].mem 0 (leBytes binBytes (r / 2 ^ (8 * binBytes * x))) }
      | none => s.bins[b]) }

end Sys2Proof.Machine
end

