-- ==== Sys2Proof/Machine/Frames.lean ====
section
/-! DEFINITION. The frames of what this module sends (11 R247, R248): far requests and replies (R255, R256), votes and
results (09 R202; 13 R313), chunks (12 R279) and control messages (13 R316), with their traffic
classes (01 R28), and of its messages on the host link (17 R385). -/

namespace Sys2Proof.Machine
open Sys2Proof

/-- A frame of this module. SEQ belongs to a core's operation; what other frames hold there is not given
(notes/assumptions/42.md). -/
def ownFrame (s : State) (job : Nat) (dst : BitVec 22) (typ cls : Nat) (content : Bytes) : Frame where
  job := BitVec.ofNat 16 job
  dst := dst
  src := BitVec.ofNat 22 (cfgPlace s)
  typ := BitVec.ofNat 4 typ
  cls := BitVec.ofNat 2 cls
  srcCore := 0
  seq := Config.frameSeq typ s.bell
  more := false
  issueBell := BitVec.ofNat 32 s.bell
  content := content

/-- The job's class at this module: that of its services; class 0 where the module does not hold the job. -/
def jobClass (s : State) (job : Nat) : Nat :=
  match planOfJob s job with
  | some (_, p) => trafficClass p
  | none => 0

/-! ### Far operations (11 R255, R256) -/

/-- *Request header field map*. -/
def requestHeader (o : FarOp) : Nat :=
  o.key.toNat * 2 ^ 192 + o.step % 2 ^ 32 * 2 ^ 160 + o.attempt % 2 * 2 ^ 159 + (o.op - 0x17) % 8 * 2 ^ 156 + o.aop % 8 * 2 ^ 153
    + o.typ % 4 * 2 ^ 151 + (o.len - 1) % 256 * 2 ^ 143 + o.addr % 2 ^ 42 * 2 ^ 92

/-- *Reply header field map*. -/
def replyHeader (status step attempt : Nat) : Nat :=
  status % 2 ^ 16 * 2 ^ 112 + step % 2 ^ 32 * 2 ^ 80 + attempt % 2 * 2 ^ 79

/-- One frame, and the CONTINUE frame that carries what its content does not hold. -/
def twoFrames (f : Frame) (room : Nat) (head data : Bytes) : List Frame :=
  if data.length ≤ room then [{ f with content := head ++ data }]
  else [{ f with content := head ++ data.take room, more := true }, { f with typ := 2, content := data.drop room }]

def requestFrames (s : State) (place : BitVec 22) (job core : Nat) (o : FarOp) (bell : Bell) : List Frame :=
  let f := { ownFrame s job place 1 (jobClass s job) [] with
    srcCore := BitVec.ofNat 10 core, seq := o.seq, issueBell := BitVec.ofNat 32 bell }
  twoFrames f 176 (leBytes 32 (requestHeader o)) o.data

/-- A reply travels in its request's class. -/
def replyFrames (s : State) (place : BitVec 22) (job : Nat) (core : BitVec 10) (seq : BitVec 16) (cls : BitVec 2)
    (status step attempt : Nat) (data : Bytes) : List Frame :=
  let f := { ownFrame s job place 3 cls.toNat [] with srcCore := core, seq := seq }
  twoFrames f 192 (leBytes 16 (replyHeader status step attempt)) data

/-! ### Votes (09 R202; 13 R313) -/

/-- The place of a member of a job that this module holds. -/
def placeInJob (s : State) (job m : Nat) : BitVec 22 :=
  match planOfJob s job with
  | some (_, p) => BitVec.ofNat 22 (p.memberPlaces.getD m 0)
  | none => 0

def voteFrame (s : State) (dst : Nat) (word : BitVec 64) (rest : Bytes) : Frame :=
  ownFrame s (voteJob word) (placeInJob s (voteJob word) dst) 4 1 (leBytes 8 word.toNat ++ rest)

/-! ### Control messages (13 R316) -/

/-- *Control header field map*. -/
def controlHeader (m : ControlMsg) : Nat :=
  m.msg % 2 ^ 8 * 2 ^ 120 + m.job % 2 ^ 16 * 2 ^ 104 + m.seq % 2 ^ 32 * 2 ^ 72 + m.arg % 2 ^ 64

/-- Fetches of plans and weights are best effort; every other message is launch control. -/
def controlClass (msg : Nat) : Nat := if 0x40 ≤ msg ∧ msg ≤ 0x44 then 2 else 1

/-- Content in runs of the 192 bytes that a frame holds after the header; at least one. -/
def controlRuns (b : Bytes) : List Bytes := if b.isEmpty then [[]] else cutBytes 192 (b.length / 192 + 1) b

/-- A message's frames: how one that is longer than a frame is cut is not given; each frame has the header
(notes/assumptions/42.md). -/
def controlFrames (s : State) (m : ControlMsg) : List Frame :=
  m.dst.flatMap (fun d => (controlRuns m.content).map (fun r =>
    ownFrame s 0 (BitVec.ofNat 22 d) 6 (controlClass m.msg) (leBytes 16 (controlHeader m) ++ r)))

/-! ### All of them -/

/-- The fabric frames of an output; none of one that leaves on another way, or whose message code is not given. -/
def outFrames (s : State) : Out → List Frame
  | .control m => controlFrames s m
  | .farRequest place job core o bell => requestFrames s place job core o bell
  | .farReply place job core seq cls status step attempt data => replyFrames s place job core seq cls status step attempt data
  | .vote _ dst word t0 t1 => [voteFrame s dst word (leBytes 8 t0 ++ leBytes 8 t1)]
  | .result _ dst word reopen t0 t1 => [voteFrame s dst word (leBytes 8 reopen.toNat ++ leBytes 8 t0 ++ leBytes 8 t1)]
  | .chunk _ _ f => [f]
  | .mirror _ _ _ | .twinJob _ _ _ _ | .twinAnswer _ _ _ | .restartReport _ => []
  | .host _ _ _ _ _ _ | .mgmt _ _ | .port _ _ | .trainCerts _ _ _ _ | .trainSecret _ _ _ | .idle _ _ _ _ _ | .deliver _ | .fuse => []

/-- The frames of a message on the host link (17 R385). -/
def linkFrames : Out → List HostFrame
  | .host session kind tag word content ring => hostFrames session kind ring tag word content
  | _ => []

/-- The frame that an output's number and the frame's number in it name. -/
def issuedFrame (s : State) (output frame : Nat) : Option Frame :=
  match s.out[output]? with
  | some o => (outFrames s o)[frame]?
  | none => none

end Sys2Proof.Machine
end

