-- ==== Sys2Proof/Machine/HostLink.lean ====
section
/-! DEFINITION. The host link (17 R382-R396), sessions and roles (15 R339, R340, R347, R353), status blocks, quotes,
journal export and owner requests. -/

namespace Sys2Proof.Machine
open Sys2Proof

def codeRole : Nat := 0x2002
def codeFrame : Nat := 0x2007

/-! ### Principals (15 R340) -/

def prWord (s : State) (k : Nat) : Nat := cfgNat s (0x40 + 96 * k) 8
def prDigest (s : State) (k : Nat) : Nat := cfgNat s (0x40 + 96 * k + 32) 64
def prRole (s : State) (k : Nat) : Nat := bits (prWord s k) 1 0

def Session.entry (s : State) (k : Session) : Nat :=
  match k.principal with
  | some n => prWord s n
  | none => 0

def isOwner (k : Session) : Bool := k.role == 0
/-- Owner, or an operator with LOAD. -/
def mayLoad (s : State) (k : Session) : Bool := k.role == 0 || (k.role == 1 && bits (k.entry s) 5 5 == 1)
/-- Owner, or an operator with JOBS. -/
def mayStart (s : State) (k : Session) : Bool := k.role == 0 || (k.role == 1 && bits (k.entry s) 6 6 == 1)
/-- Owner, or an auditor with ACK. -/
def mayAck (s : State) (k : Session) : Bool := k.role == 0 || (k.role == 2 && bits (k.entry s) 7 7 == 1)
def mayAudit (k : Session) : Bool := k.role == 0 || k.role == 2
/-- 10 R229 check 2: an operator whose ring range holds the ring. -/
def mayRing (s : State) (k : Session) (ring : Nat) : Bool :=
  let w := k.entry s
  k.role == 1 && bits w 8 8 == 1 && bits w 25 12 ≤ ring && ring ≤ bits w 39 26

/-! ### Frames -/

/-- A frame of an open session is taken: the link and the session are not idle. -/
def taken (s : State) (id : Nat) : State :=
  let s := { s with host := { s.host with lastBell := s.bell } }
  s.modSession id (fun k => { k with lastBell := s.bell, framesIn := k.framesIn + 1, keyIn := rekey k.keyIn (k.framesIn + 1) })

/-- Kinds that a module HALTED with CONFIG_INVALID accepts (16 R368); the body narrows BULK_BEGIN and READ_STATUS. -/
def haltedKinds : List Nat := [0x01, 0x04, 0x11, 0x12, 0x13, 0x20, 0x21, 0x22, 0x23, 0x24, 0x25, 0x28]

/-- A request of an open session: discarded where no session is open, REFUSED_FRAME where it breaks the frame rules,
REFUSED_ROLE where the role may not send it (17 R386; 15 R353). -/
def hostRequest (s : State) (h : HostHdr) (kind : Nat) (permit : State → Session → Bool)
    (body : State → Session → State) (ring : Nat := 0) : State :=
  if !s.host.up || s.mod.state == .stopped then s
  else
    match findSession s h.session with
    | none => s
    | some k =>
      let s := taken s h.session
      attend s (
        -- a refusal of an ENQUEUE holds the fields of a result (17 R388)
        let none_ := if kind = 0x10 then leBytes 12 0 else []
        if !h.wellFormed then hostReply s h kind codeFrame none_ ring
        else if (s.mod.state == .halted && !haltedKinds.contains kind) || !permit s k then hostReply s h kind codeRole none_ ring
        else body s k)

/-! ### Requests, their replies and credits (17 R387, R388) -/

/-- The last reply of a request. A reply to a session that has closed is discarded (15 R354). -/
def requestReply (s : State) (ring session tag code : Nat) (lateness queuePos window : Nat) (rest : Bytes) : State :=
  countRefusal (hostSend s session 0x90 tag code
    (leBytes 4 (min lateness (2 ^ 32 - 1)) ++ leBytes 4 queuePos ++ leBytes 4 window ++ rest) ring) code

def cfgRing (s : State) (n : Nat) : Nat := cfgNat s (0x2000 + 16 * n) 16
def ringMapped (s : State) (n : Nat) : Bool := bits (cfgRing s n) 23 23 == 1

def ringHeld (s : State) (ring : Nat) : Nat :=
  ((loadedPlans s).map (fun p => p.requests.countP (fun r => r.ring == ring))).sum

/-- Credits of a ring: DEPTH less the requests that the module holds. -/
def ringCredits (s : State) (ring : Nat) : Nat := bits (cfgRing s ring) 75 64 - ringHeld s ring

def mappedRings (s : State) : List Nat := (List.range 16384).filter (ringMapped s)

/-- RING_CREDITS for every mapped ring (17 R387), in one list of pairs. -/
def sendCredits (s : State) : State :=
  hostSend s 0 0x05 0 0 ((mappedRings s).flatMap (fun n => leBytes 2 n ++ leBytes 2 (ringCredits s n)))

/-- A plan moves to draining: each deferred request that has not entered a slot receives FIT_SERVICE_ABSENT
(01 R27; 10 R233). In a teardown the requests wait for its drain, which answers JOB_TORN_DOWN. -/
def startDrain (s : State) (i : Fin 16) : State :=
  match s.plans[i] with
  | none => s
  | some p =>
    if p.draining then s
    else if p.teardownCause.isSome then s.modPlan i (fun q => { q with draining := true })
    else
      let out := p.requests.filter (fun r => r.slot.isNone)
      let s := s.modPlan i (fun q => { q with draining := true, requests := q.requests.filter (fun r => r.slot.isSome) })
      out.foldl (fun s r => requestReply s r.ring r.session r.tag 0x3008 0 0 0 []) s

/-! ### Measurement (15 R351) -/

def measExtend (s : State) (k : Fin 16) (d : Bytes) : State :=
  { s with meas := s.meas.set k (sha512 (s.meas[k] ++ d)) }

/-! ### Sessions (15 R347) -/

/-- The bytes that an unfinished weight package has written are zero-filled (15 R350; 17 R395). -/
def zeroWritten (s : State) (k : PackageLoad) : State :=
  match s.plans[k.plan] with
  | none => s
  | some p =>
    (splitLines (k.written / 64 + 2) k.dest k.written).foldl (fun s e =>
      match translate s p false e.1 with
      | .ok pl => (writePlace s pl (List.replicate e.2 0) (e.2 == 64)).getD s
      | .error _ => s) s

def abandonTransfer (s : State) (t : Option Transfer) : State :=
  match t with
  | some t => (match t.package with | some k => zeroWritten s k | none => s)
  | none => s

/-- End a session with a cause of SESSION_CLOSED. -/
def endSession (s : State) (id cause : Nat) : State :=
  match findSession s id with
  | none => s
  | some k =>
    let s := abandonTransfer s k.transfer
    let s := { s with host := { s.host with sessions := s.host.sessions.filter (fun k => k.id != id) } }
    journalRaw s 0x0706 0 0 0xFF (leBytes 2 id ++ leBytes 1 cause)

def endAllSessions (s : State) (cause : Nat) : State := (s.host.sessions.map (·.id)).foldl (fun s i => endSession s i cause) s

/-- A module that answers a handshake: sealed and in service, or HALTED (15 R347; 16 R367 step 9, R368). -/
def answersShakes (s : State) : Bool :=
  match s.mod.state with
  | .ready | .draining | .halted => s.host.up
  | .off | .starting | .stopped => false

/-- A module that opens sessions: sealed and in service, or HALTED with CONFIG_INVALID for owners alone. -/
def opensSessions (s : State) (role : Nat) : Bool :=
  match s.mod.state with
  | .ready | .draining => true
  | .halted => s.mod.failCode == 4 && role == 0
  | _ => false

/-- The digest of the principal's key is an active owner slot, or an entry of the role; the entry. -/
def principalOf (s : State) (role digest : Nat) : Option (Option Nat) :=
  if role = 0 then (if s.fuses.slots.toList.any (fun e => e.1 == 1 && e.2 == digest) then some none else none)
  else if role ≤ 2 then
    ((List.range 64).find? (fun n => prRole s n == role && prDigest s n == digest)).map some
  else none

def digestOf (b : Bytes) : Nat := leNat (sha512 b)

/-- A refused handshake: the reason's coding in the record is not given, so it is a free value. -/
def refuseSession (s : State) (tag kind role digest : Nat) : State :=
  let (reason, s) := takeFree s
  let s := journalRaw s 0x0705 0 0 0xFF (leBytes 1 role ++ leBytes 64 digest ++ leBytes 1 reason)
  countRefusal (if s.host.up then s.emit (.host 0 (kind + 0x80) tag (moduleState s * 2 ^ 24 + 0x2005) []) else s) 0x2005

/-! ### Objects that the module makes (15 R343, R344) -/

/-- A key block: the modulus in the big-endian order of PKCS #1, the exponent, and 4 zero bytes. -/
def keyBlockOf (k : Nat × Nat) : Bytes := (leBytes 512 k.1).reverse ++ leBytes 4 k.2 ++ leBytes 4 0

def objMagic : Nat := 0x53474E4F

/-- A signed object around a body, its salt the warden's draw of a number: header with SIGNER 5 and this module's TARGET, the identity key block, the body padded
to 8 bytes, and the signature over all of it. -/
def moduleObject (s : State) (type : Nat) (body : Bytes) (salt : Nat) : Bytes :=
  let head := leBytes 4 objMagic ++ leBytes 2 0 ++ leBytes 2 1 ++ leBytes 2 type ++ leBytes 1 0 ++ leBytes 1 5
    ++ leBytes 4 body.length ++ leBytes 8 s.fuses.identityDigest ++ leBytes 8 0
  let signed := head ++ keyBlockOf Config.identityKey ++ body ++ List.replicate ((8 - body.length % 8) % 8) 0
  signed ++ rsaSign Config.identityKey.1 Config.identityPrivate signed (leBytes 64 (Config.randomNat salt 64))

/-- SLOT_STATE: two bits per owner slot. -/
def slotState (s : State) : Nat := ((List.range 4).map (fun k => (s.fuses.slots.toList.getD k (0, 0)).1 * 4 ^ k)).sum

def transportDigest (start : Nat) : Nat := digestOf (keyBlockOf (Config.transportKey start))

/-- TRANSPORT_CERT (15 R345): the transport key block, START_COUNT, the place address, and the owner slot digests with
SLOT_STATE. The widths of the place and of SLOT_STATE are not given: 4 bytes and 1 byte (notes/assumptions/48.md). -/
def transportCert (s : State) : Bytes :=
  moduleObject s 6 (keyBlockOf (Config.transportKey s.mod.startCount) ++ leBytes 4 s.mod.startCount ++ leBytes 4 (cfgPlace s)
    ++ s.fuses.slots.toList.flatMap (fun e => leBytes 64 (if e.1 = 0 then 0 else e.2)) ++ leBytes 1 (slotState s)) 0

/-- HELLO: handshake orders 1 and 2. -/
def hello (s : State) (tag role : Nat) (keyBlock np : Bytes) : State :=
  if !answersShakes s then s
  else
    let s := { s with host := { s.host with lastBell := s.bell } }
    let d := digestOf keyBlock
    attend s (
      if !opensSessions s role || s.fuses.keysErased || (principalOf s role d).isNone then refuseSession s tag 0x02 role d
      else
        let nm := leBytes 32 (Config.randomNat s.free 32)
        let others := s.host.shakes.filter (fun k => k.tag != tag)
        let s := { s with free := s.free + 1,
                          host := { s.host with shakes := others ++ [⟨tag, role, keyBlock, np, nm⟩] } }
        hostSend s 0 0x82 tag 0 (Config.identityCert ++ transportCert s ++ nm))

/-- The lowest id from 1 upward that no open session holds. -/
def freeSessionId (s : State) : Nat :=
  ((List.range 65).map (· + 1)).find? (fun n => (findSession s n).isNone) |>.getD 65

def sessionKey (z np nm : Bytes) (b : Nat) : Nat := leNat ((sha512 (z ++ np ++ nm ++ leBytes 1 b)).take 32)

/-- KEY: handshake orders 3 and 4. -/
def openSession (s : State) (tag : Nat) (cipher sig : Bytes) : State :=
  match s.host.shakes.find? (fun k => k.tag == tag) with
  | none => s
  | some k =>
    if !answersShakes s then s
    else
      let s := { s with host := { s.host with lastBell := s.bell, shakes := s.host.shakes.filter (fun k => k.tag != tag) } }
      let d := digestOf k.keyBlock
      let msg := sha512 (k.np ++ k.nm ++ cipher ++ leBytes 64 (transportDigest s.mod.startCount))
      attend s (
        match principalOf s k.role d, oaepDecrypt (Config.transportKey s.mod.startCount).1
            (Config.transportPrivate s.mod.startCount) cipher with
        | some pr, some z =>
          if !opensSessions s k.role || s.fuses.keysErased || 64 ≤ s.host.sessions.length || !rsaVerify k.keyBlock msg sig then
            refuseSession s tag 0x03 k.role d
          else
            let id := freeSessionId s
            let n : Session := ⟨id, k.role, pr, d, false, s.bell, none, sessionKey z k.np k.nm 1,
              sessionKey z k.np k.nm 2, 0, 0⟩
            let s := { s with host := { s.host with sessions := s.host.sessions ++ [n] } }
            let s := journalRaw s 0x0704 0 0 0xFF (leBytes 2 id ++ leBytes 1 k.role ++ leBytes 64 d)
            hostSend s id 0x83 tag 0 []
        | _, _ => refuseSession s tag 0x03 k.role d)

/-! ### Status blocks (17 R386; 15 R353) -/

/-- Which roles read a block: 0 every role, 1 owner and auditor, 2 owner. -/
def blockRoles (block : Nat) : Nat :=
  if block ∈ [0x08, 0x09, 0x0A, 0x0B, 0x0C] then 1 else if block ∈ [0x0D, 0x0E, 0x0F, 0x10, 0x11] then 2 else 0

def CoreUse.word : CoreUse → Nat
  | .mapped l => l
  | .spare => 2 ^ 14
  | .fenced => 2 * 2 ^ 14
  | .failed => 3 * 2 ^ 14

def stJob (s : State) (i : Fin 16) : Nat :=
  match s.plans[i] with
  | none => 0
  | some p =>
    if p.jobId = 0 then i * 2 ^ 16
    else p.jobId * 2 ^ 48 + p.member * 2 ^ 34 + p.members * 2 ^ 20 + i * 2 ^ 16 + p.jobState.code * 2 ^ 13 + p.twin.toNat

def stOwner (s : State) : Nat :=
  s.fuses.cfgSeq.toNat * 2 ^ 40 + s.fuses.listSeq.toNat * 2 ^ 16 + s.fuses.fwSvn.toNat * 2 ^ 10
    + s.fuses.keysErased.toNat * 2 ^ 9 + s.fuses.claimPermit.toNat * 2 ^ 8
    + slotState s

def FaultRec.word (r : FaultRec) : Nat :=
  r.bell % 2 ^ 64 * 2 ^ 192 + r.step % 2 ^ 32 * 2 ^ 160 + r.bundle % 2 ^ 32 * 2 ^ 128 + r.status % 2 ^ 16 * 2 ^ 112
    + r.opcode % 256 * 2 ^ 104 + r.reg % 64 * 2 ^ 98 + r.slot % 4 * 2 ^ 96 + r.lane % 4096 * 2 ^ 84 + r.kind % 16 * 2 ^ 80
    + r.addr % 2 ^ 48

/-- Owning plan core of a held cart or reckoner, zero otherwise. -/
def unitOwner (s : State) (i : Option (Fin 16)) (owners : Plan → List (Nat × Nat)) (n : Nat) : Nat :=
  match i with
  | some i => (match s.plans[i] with
    | some p => (match (owners p).find? (fun e => e.1 == n) with | some e => e.2 | none => 0)
    | none => 0)
  | none => 0

def stUnit (status desc owner queued : Nat) (busy inService : Bool) : Nat :=
  status * 2 ^ 48 + desc * 2 ^ 32 + owner * 2 ^ 22 + queued * 2 ^ 17 + busy.toNat * 2 ^ 16 + inService.toNat

def stCart (s : State) (n : Fin 32) : Nat :=
  let k := s.carts[n]
  stUnit k.status k.desc (unitOwner s k.plan (·.img.cartOwner) n) (k.queue.length + k.running.isSome.toNat)
    k.running.isSome k.inService

def stReck (s : State) (n : Fin 32) : Nat :=
  let k := s.recks[n]
  stUnit k.status k.desc (unitOwner s k.plan (·.img.reckOwner) n) (k.queue.length + k.running.isSome.toNat)
    k.running.isSome k.inService

def stChannel (k : Channel) : Nat :=
  k.corrected * 2 ^ 24 + k.uncorrected * 2 ^ 16 + k.refresh.toNat * 2 ^ 14
    + (if k.inService then 0 else k.outReason.toNat) * 2 ^ 4 + k.inService.toNat

def stPlough (k : Plough) : Nat :=
  k.state.toNat * 2 ^ 62 + k.fail.toNat * 2 ^ 61 + k.firstFail.toNat * 2 ^ 32 + k.mismatch.toNat * 2 ^ 16 + k.corrected.toNat

def stPort (p : Port) : Nat :=
  p.peerPlace.toNat * 2 ^ 42 + p.peerPort.toNat * 2 ^ 37 + p.laneMask.toNat * 2 ^ 33 + p.width.toNat * 2 ^ 31
    + p.state.toNat * 2 ^ 29 + p.secure.toNat * 2 ^ 28 + min p.retrains 0xFF * 2 ^ 20 + min p.replays 0xFFFFF

/-- Collectives in progress: both mills serve each (12 R269, R290). -/
def stMill (s : State) (m : Fin 2) : Nat :=
  let k := s.mills[m]
  k.status * 2 ^ 48 + k.desc * 2 ^ 32 + k.corrupt * 2 ^ 16 + s.colls.countP (fun c => c.started && !c.ended) % 128 * 2 ^ 9 + k.inService.toNat

def stGranary (s : State) (d : Fin 2) : Nat :=
  let bs := (s.bins.toList.drop (256 * d)).take 256
  s.granary[d].corrected * 2 ^ 48 + s.granary[d].uncorrected * 2 ^ 40 + bs.countP (·.inService) * 2 ^ 16
    + bs.countP (·.holder.isSome)

def stSeq (k : SeqSlot) : Nat := k.cap.toNat * 2 ^ 32 + k.owner.toNat * 2 ^ 22 + k.bound.toNat

/-- The block that BLOCK and INSTANCE name: bytes and value (*Status block code table*); the instance of a module-wide
block is zero. -/
def statusBlock (s : State) (block inst : Nat) : Option (Nat × Nat) :=
  let one (v : Nat) : Option (Nat × Nat) := if inst = 0 then some (8, v) else none
  match block with
  | 0x01 => one (stInstances s)
  | 0x02 => one (stAdmission s)
  | 0x03 => if h : inst < 16 then some (8, stJob s ⟨inst, h⟩) else none
  | 0x04 => one (stIdentity s)
  | 0x05 => one (stStart s)
  | 0x06 => one (stOwner s)
  | 0x07 => if h : inst < 4 then some (64, if s.fuses.slots[inst].1 = 0 then 0 else s.fuses.slots[inst].2) else none
  | 0x08 => if h : inst < 576 then some (2, s.coreMap[inst].word) else none
  | 0x09 => if h : inst < 256 then some (8, stChannel s.channels[inst]) else none
  | 0x0A => if h : inst < 32 then some (8, stPort s.ports[inst]) else none
  | 0x0B => if h : inst < 2 then some (8, stMill s ⟨inst, h⟩) else none
  | 0x0C => if h : inst < 2 then some (8, stGranary s ⟨inst, h⟩) else none
  | 0x0D => if h : inst < 576 then some (32, s.cores[inst].fault.word) else none
  | 0x0E => if h : inst < 32 then some (8, stCart s ⟨inst, h⟩) else none
  | 0x0F => if h : inst < 32 then some (8, stReck s ⟨inst, h⟩) else none
  | 0x10 => if h : inst < 64 then some (8, stSeq s.seqSlots[inst]) else none
  | 0x11 => if h : inst < 256 then some (8, stPlough s.channels[inst].plough) else none
  | _ => none

def roleReads (s : State) (k : Session) (block : Nat) : Bool :=
  (s.mod.state != .halted || block ∈ [0x04, 0x05, 0x06, 0x07]) &&
  (match blockRoles block with
   | 0 => true
   | 1 => mayAudit k
   | _ => isOwner k)

/-! ### The meanings -/

/-- HEARTBEAT on session 0 or an open session (17 R394). -/
def heartbeat (s : State) (h : HostHdr) : State :=
  if h.session = 0 then
    if !s.host.up || s.mod.state == .stopped then s
    else
      let s := { s with host := { s.host with lastBell := s.bell } }
      hostReply s h 0x01 (if h.wellFormed then 0 else codeFrame) []
  else hostRequest s h 0x01 (fun _ _ => true) (fun s _ => hostReply s h 0x01 0 [])

def execHeartbeat (h : HostHdr) (s : State) : Host.Outcome State Fault Refusal := .next (heartbeat s h)

def execHello (tag role : Nat) (keyBlock np : Bytes) (s : State) : Host.Outcome State Fault Refusal :=
  .next (hello s tag role keyBlock np)

def execKeyExchange (tag : Nat) (cipher sig : Bytes) (s : State) : Host.Outcome State Fault Refusal :=
  .next (openSession s tag cipher sig)

/-- CLOSE from the adapter. -/
def execCloseSession (h : HostHdr) (s : State) : Host.Outcome State Fault Refusal :=
  .next (hostRequest s h 0x04 (fun _ _ => true) (fun s _ => endSession (hostReply s h 0x04 0 []) h.session 1))

/-- 17 R394. -/
def execSessionIdleTimeout (id : Nat) (s : State) : Host.Outcome State Fault Refusal :=
  .next (match findSession s id with
    | some k => if k.lastBell + 1000000 ≤ s.bell then attend s (endSession s id 3) else s
    | none => s)

/-- 17 R383: the link comes up; after the seal the module sends RING_CREDITS. A halted or unsealed module sends none. -/
def hostLinkTrain (s : State) (lanes : BitVec 8) : State :=
  let trains := match s.mod.state with
    | .off | .stopped => false
    | .starting => s.mod.startStep == 8
    | _ => true
  if s.host.up || !trains || lanes != BitVec.allOnes 8 then s
  else
    let s := { s with host := { s.host with up := true, lastBell := s.bell, attnCode := 0 } }
    if s.mod.startStep = 10 then sendCredits s else s

def execHostLinkTrain (lanes : BitVec 8) (s : State) : Host.Outcome State Fault Refusal := .next (hostLinkTrain s lanes)

/-- Cable loss (17 R384): loss of signal or eight replays as `seen`, or silence of 100,000 bells. -/
def hostLinkDown (s : State) (seen : Bool) : State :=
  if s.host.up && (seen || s.host.lastBell + 100000 ≤ s.bell) then
    let s := attend s (endAllSessions s 2)
    { s with host := { s.host with up := false, shakes := [] } }
  else s

def execHostLinkDown (seen : Bool) (s : State) : Host.Outcome State Fault Refusal := .next (hostLinkDown s seen)

/-- 17 R386: REFUSED_FRAME for a BLOCK or INSTANCE that names nothing. -/
def execReadStatus (h : HostHdr) (block inst : Nat) (s : State) : Host.Outcome State Fault Refusal :=
  .next (hostRequest s h 0x20 (fun _ _ => true) (fun s k =>
    match statusBlock s block inst with
    | none => hostReply s h 0x20 codeFrame []
    | some (n, v) => if roleReads s k block then hostReply s h 0x20 0 (leBytes n v) else hostReply s h 0x20 codeRole []))

/-- Attention records from `f` to the current one, in order; whether `f` is still held (17 R393). -/
def attnFrom (s : State) (f : Nat) : Bool × List AttnRec :=
  match s.host.attn.findIdx? (fun r => r.seq == f) with
  | some i => (true, s.host.attn.drop i)
  | none => (s.host.attnSeq + 1 == f || (s.host.attnSeq + 1) % 256 == f, if (s.host.attnSeq + 1) % 256 = f then [] else s.host.attn)

/-- DETAIL reads zero where the role may not read the event's block: PORT records for an operator. -/
def AttnRec.bytes (role : Nat) (r : AttnRec) : Bytes :=
  leBytes 1 r.seq ++ leBytes 1 r.code ++ leBytes 2 0 ++ leBytes 4 (if r.code = 8 ∧ role = 1 then 0 else r.detail)
    ++ leBytes 8 r.bell

def execAttnRead (h : HostHdr) (first : Nat) (s : State) : Host.Outcome State Fault Refusal :=
  .next (hostRequest s h 0x21 (fun _ _ => true) (fun s k =>
    let (held, l) := attnFrom s (first % 256)
    let s := s.modSession h.session (fun k => { k with sticky := false })
    hostReply s h 0x21 0 (leBytes 1 (!held).toNat ++ l.flatMap (AttnRec.bytes k.role))))

/-- INDEX of the last record written. -/
def lastIndex (s : State) : Nat := s.mod.startCount % 2 ^ 24 * 2 ^ 40 + (s.journal.next - 1)

/-- 15 R352. -/
def quoteBody (s : State) (nonce : Bytes) (mask : Nat) : Bytes :=
  nonce.take 64 ++ leBytes 4 (cfgPlace s) ++ leBytes 4 s.mod.startCount ++ leBytes 8 s.bell ++ leBytes 8 (lastIndex s)
    ++ s.journal.chain ++ leBytes 2 mask ++ leBytes 6 0
    ++ (List.finRange 16).flatMap (fun k => if mask / 2 ^ k.val % 2 = 1 then s.meas[k] else [])

def execQuote (h : HostHdr) (nonce : Bytes) (mask : BitVec 16) (s : State) : Host.Outcome State Fault Refusal :=
  .next (hostRequest s h 0x22 (fun _ _ => true) (fun s _ =>
    let obj := moduleObject s 7 (quoteBody s nonce mask.toNat) s.free
    let s := { s with free := s.free + 1 }
    hostReply (journalRaw s 0x070C 0 0 0xFF (leBytes 2 h.session ++ leBytes 2 mask.toNat)) h 0x22 0 obj))

def JRecord.bytes (r : JRecord) : Bytes := recordHead r.index r.bell r.type r.job r.member r.plan r.payload ++ r.chain

def checkpointBody (s : State) (k : JCheckpoint) : Bytes :=
  leBytes 4 s.mod.startCount ++ leBytes 4 0 ++ leBytes 8 k.index ++ k.chain ++ leBytes 8 k.bell

/-- Records and any checkpoints that cover them, in index order (15 R358, R359). -/
def journalExport (s : State) (first count : Nat) : Bytes :=
  ((s.journal.records.filter (fun r => first ≤ r.index)).take count).flatMap (fun r =>
    r.bytes ++ (s.journal.checkpoints.filter (fun k => k.index == r.index)).flatMap (fun k =>
      moduleObject s 8 (checkpointBody s k) k.signature))

def execJournalRead (h : HostHdr) (first count : Nat) (s : State) : Host.Outcome State Fault Refusal :=
  .next (hostRequest s h 0x23 (fun _ k => mayAudit k) (fun s _ => hostReply s h 0x23 0 (journalExport s first count)))

/-- 15 R359: frees the space of every record up to the index. -/
def journalFree (s : State) (index : Nat) : State :=
  journalModes { s with journal := { s.journal with
    records := s.journal.records.filter (fun r => index < r.index),
    checkpoints := s.journal.checkpoints.filter (fun r => index < r.index) } }

def execCheckpoint (h : HostHdr) (s : State) : Host.Outcome State Fault Refusal :=
  .next (hostRequest s h 0x25 (fun _ k => mayAudit k) (fun s _ =>
    let cp : JCheckpoint := ⟨lastIndex s, s.bell, s.journal.chain, s.free⟩
    let obj := moduleObject s 8 (checkpointBody s cp) s.free
    let s := { s with free := s.free + 1, journal := { s.journal with checkpoints := s.journal.checkpoints ++ [cp] } }
    hostReply (journalRaw s 0x0702 0 0 0xFF (leBytes 8 cp.index)) h 0x25 0 obj))

/-- 15 R351: MEAS12-MEAS15. -/
def execExtend (h : HostHdr) (reg : Nat) (digest : Bytes) (s : State) : Host.Outcome State Fault Refusal :=
  .next (hostRequest s h 0x26 (fun _ k => isOwner k) (fun s _ =>
    if hr : 12 ≤ reg ∧ reg < 16 then
      let s := measExtend s ⟨reg, hr.2⟩ digest
      hostReply (journalRaw s 0x070B 0 0 0xFF (leBytes 1 reg ++ digest.take 64)) h 0x26 0 []
    else hostReply s h 0x26 codeFrame []))

def capStart (s : State) : Nat := bits (cfgNat s 0x10 8) 47 36
def capMax (s : State) : Nat := bits (cfgNat s 0x10 8) 35 24
def capMin (s : State) : Nat := bits (cfgNat s 0x10 8) 23 12

/-- 16 R370: the new cap, or none outside the band. -/
def setCap (s : State) (w : Nat) : Option State :=
  if capMin s ≤ w ∧ w ≤ capMax s then some { s with adm := { s.adm with capW := w } } else none

def execSetCap (h : HostHdr) (watts : Nat) (s : State) : Host.Outcome State Fault Refusal :=
  .next (hostRequest s h 0x27 (fun _ k => isOwner k) (fun s _ =>
    match setCap s watts with
    | some s' => hostReply s' h 0x27 0 []
    | none => hostReply s h 0x27 0x2006 []))

/-- UNLOAD (17 R386; 01 R27). -/
def execUnload (h : HostHdr) (plan : Nat) (s : State) : Host.Outcome State Fault Refusal :=
  .next (hostRequest s h 0x14 mayLoad (fun s _ =>
    if hp : plan < 16 then
      match s.plans[plan] with
      | some _ => hostReply (startDrain s ⟨plan, hp⟩) h 0x14 0 []
      | none => hostReply s h 0x14 codeFrame []
    else hostReply s h 0x14 codeFrame []))

/-- A draining plan with no accepted request left and no slot open has seen its last slot end; a plan in teardown is
unloaded by its teardown (01 R27). -/
def planDrained (s : State) (p : Plan) : Bool :=
  p.draining && p.requests.isEmpty && p.teardownCause.isNone && p.runs.all (fun r => r.ended && r.endBell ≤ s.bell)

def execPlanDrainEnd (i : Fin 16) (s : State) : Host.Outcome State Fault Refusal :=
  .next (match s.plans[i] with
    | some p => if planDrained s p then attend s (freePlan s i 0) else s
    | none => s)

end Sys2Proof.Machine
end

