-- ==== Sys2Proof/Machine/Counters.lean ====
section
/-! DEFINITION. The COUNTERS, TELEMETRY and TALLY_READ messages, the freeze and the bandwidth window (18 R397-R406; 14
R330). -/

namespace Sys2Proof.Machine
open Sys2Proof

def codeCounter : Nat := 0x301B

/-! ### The event catalogue -/

/-- Events of a unit kind (*Event catalogue*). -/
def eventsOf (kind : Nat) : List Nat :=
  let upTo (a n : Nat) : List Nat := (List.range n).map (· + a)
  match kind with
  | 1 => upTo 0x000 7 ++ upTo 0x040 4 ++ upTo 0x080 4 ++ upTo 0x0C0 5 ++ upTo 0x100 4 ++ upTo 0x140 4
  | 2 => upTo 0x200 6
  | 3 => upTo 0x300 6
  | 4 => upTo 0x380 4
  | 5 => upTo 0x400 6 ++ upTo 0x410 80
  | _ => []

/-- Events that count time or lines, or the lines of a channel, which the model does not follow; their counts are free values
(notes/assumptions/25.md). -/
def untracked : List Nat :=
  [0x000, 0x004, 0x005, 0x041, 0x042, 0x043, 0x080, 0x081, 0x0C4, 0x143, 0x200, 0x201, 0x204, 0x205, 0x303, 0x304]

/-! ### Counters by selector -/

/-- A counter of the *Counter placement table*. -/
inductive CounterRef where
  | core (c : CoreId) (k : Fin 8)
  | channel (ch : Fin 256) (k : Fin 4)
  | port (p : Fin 32) (k : Fin 4)
  | mill (m : Fin 2) (k : Fin 8)
  | control (k : Fin 16)
  deriving DecidableEq, Repr

def counterRef (kind inst ctr : Nat) : Option CounterRef :=
  match kind with
  | 1 => if h : inst < 576 ∧ ctr < 8 then some (.core ⟨inst, h.1⟩ ⟨ctr, h.2⟩) else none
  | 2 => if h : inst < 256 ∧ ctr < 4 then some (.channel ⟨inst, h.1⟩ ⟨ctr, h.2⟩) else none
  | 3 => if h : inst < 32 ∧ ctr < 4 then some (.port ⟨inst, h.1⟩ ⟨ctr, h.2⟩) else none
  | 4 => if h : inst < 2 ∧ ctr < 8 then some (.mill ⟨inst, h.1⟩ ⟨ctr, h.2⟩) else none
  | 5 => if h : inst = 0 ∧ ctr < 16 then some (.control ⟨ctr, h.2⟩) else none
  | _ => none

def getCounter (s : State) : CounterRef → Counter
  | .core c k => s.cores[c].counters[k]
  | .channel ch k => s.counting.channels[ch][k]
  | .port p k => s.ports[p].counters[k]
  | .mill m k => s.counting.mills[m][k]
  | .control k => s.counting.control[k]

def setCounter (s : State) (r : CounterRef) (v : Counter) : State :=
  match r with
  | .core c k => s.modCore c (fun q => { q with counters := q.counters.set k v })
  | .channel ch k =>
    { s with counting := { s.counting with channels := s.counting.channels.set ch (s.counting.channels[ch].set k v) } }
  | .port p k => { s with ports := s.ports.set p { s.ports[p] with counters := s.ports[p].counters.set k v } }
  | .mill m k => { s with counting := { s.counting with mills := s.counting.mills.set m (s.counting.mills[m].set k v) } }
  | .control k => { s with counting := { s.counting with control := s.counting.control.set k v } }

/-- The counter entry as read (*Counter entry field map*): `free` stands for a count that the model does not follow. -/
def Counter.entry (k : Counter) (free : Nat) : BitVec 64 :=
  let v := if k.enabled && untracked.contains k.event.toNat then free % 2 ^ 48 else k.value.toNat
  let ovf := v == 2 ^ 48 - 1
  BitVec.ofNat 64 (ovf.toNat * 2 ^ 63 + k.enabled.toNat * 2 ^ 62 + k.event.toNat * 2 ^ 48 + v)

/-- The four top-down values in the order KEPT, SPILT, UNFED, HELD; the last two count time. -/
def TopDown.values (t : TopDown) (f g : Nat) : List (BitVec 48) := [t.kept, t.spilt, BitVec.ofNat 48 f, BitVec.ofNat 48 g]

/-! ### The freeze (18 R403, R409) -/

/-- Every counter in the order of the snapshot. -/
def allCounters (s : State) : List Counter :=
  s.cores.toList.flatMap (fun k => k.counters.toList) ++ s.counting.channels.toList.flatMap (·.toList)
    ++ s.ports.toList.flatMap (fun p => p.counters.toList) ++ s.counting.mills.toList.flatMap (·.toList)
    ++ s.counting.control.toList

/-- The 8,096 entries of a snapshot (18 R403). -/
def snapshotEntries (s : State) : List (BitVec 64) :=
  let n := s.free
  (allCounters s).zipIdx.map (fun e => e.1.entry (Config.freeNat (n + e.2)))
    ++ s.cores.toList.zipIdx.flatMap (fun e =>
        (e.1.topDown.values (Config.freeNat (n + 6000 + 2 * e.2)) (Config.freeNat (n + 6001 + 2 * e.2))).map (·.setWidth 64))

/-- FREEZE_LATCH at the bell of the freeze. -/
def freezeLatch (s : State) : State :=
  match s.counting.freeze with
  | some f =>
    if f ≤ s.bell then
      { s with free := s.free + 8000,
               counting := { s.counting with freeze := none, snapshot := some (f, snapshotEntries s) } }
    else s
  | none => s

/-! ### The messages -/

/-- A COUNTERS request of the owner (17 R386). -/
def countersRequest (s : State) (h : HostHdr) (body : State → State) : Host.Outcome State Fault Refusal :=
  .next (hostRequest s h 0x2C (fun _ k => isOwner k) (fun s _ => body s))

/-- Reply, or refuse with FIT_COUNTER and change nothing. -/
def orCounter (s : State) (h : HostHdr) (o : Option (State × Bytes)) : State :=
  match o with
  | some (s', b) => hostReply s' h 0x2C 0 b
  | none => hostReply s h 0x2C codeCounter []

/-- SELECT (18 R397, R399); a freeze that is due latches first (R409). -/
def execCounterSelect (h : HostHdr) (kind inst ctr event : Nat) (enable : Bool) (s : State) :
    Host.Outcome State Fault Refusal :=
  countersRequest s h (fun s => let s := freezeLatch s; orCounter s h (match counterRef kind inst ctr with
    | some r => if (eventsOf kind).contains event then
        some (setCounter s r ⟨BitVec.ofNat 12 event, enable, false, 0⟩, []) else none
    | none => none))

/-- Entries and stamps of the counters, in order. -/
def readCounters (s : State) : List CounterRef → Bytes × State
  | [] => ([], s)
  | r :: t =>
    let (f, s') := takeFree s
    let e := (getCounter s r).entry f
    let (b, s'') := readCounters s' t
    (leBytes 8 e.toNat ++ leBytes 8 s.bell ++ b, s'')

/-- READ of 1 to 64 counters (18 R402). -/
def execCounterRead (h : HostHdr) (sels : List (Nat × Nat × Nat)) (s : State) : Host.Outcome State Fault Refusal :=
  countersRequest s h (fun s =>
    let rs := sels.filterMap (fun e => counterRef e.1 e.2.1 e.2.2)
    orCounter s h (if rs.length = sels.length ∧ 1 ≤ sels.length ∧ sels.length ≤ 64 then
      let (b, s') := readCounters s rs
      some (s', b)
    else none))

/-- CLEAR; counter 8 of a core names its four top-down values (18 R401, R404). -/
def execCounterClear (h : HostHdr) (kind inst ctr : Nat) (s : State) : Host.Outcome State Fault Refusal :=
  countersRequest s h (fun s => let s := freezeLatch s; orCounter s h (
    if hc : kind = 1 ∧ ctr = 8 ∧ inst < 576 then
      some (s.modCore ⟨inst, hc.2.2⟩ (fun k => { k with topDown := TopDown.reset }), [])
    else match counterRef kind inst ctr with
      | some r => some (setCounter s r { getCounter s r with value := 0, ovf := false }, [])
      | none => none))

/-- FREEZE at bell `f` (18 R401, R403). -/
def execFreeze (h : HostHdr) (f : Nat) (s : State) : Host.Outcome State Fault Refusal :=
  countersRequest s h (fun s => orCounter s h (
    if s.bell + 100000 ≤ f ∧ f ≤ s.bell + 1000000000 ∧ s.counting.freeze.isNone then
      some ({ s with counting := { s.counting with freeze := some f } }, [])
    else none))

def execFreezeLatch (s : State) : Host.Outcome State Fault Refusal := happen s freezeLatch

/-- SNAPSHOT_READ of 1 to 255 entries that the snapshot has. -/
def execSnapshotRead (h : HostHdr) (first count : Nat) (s : State) : Host.Outcome State Fault Refusal :=
  countersRequest s h (fun s => orCounter s h (match s.counting.snapshot with
    | some (f, l) =>
      if 1 ≤ count ∧ count ≤ 255 ∧ first + count ≤ l.length then
        some (s, leBytes 8 f ++ ((l.drop first).take count).flatMap (fun e => leBytes 8 e.toNat))
      else none
    | none => none))

/-! ### Windowed bandwidth (18 R405) -/

/-- BW_WINDOW: the length takes effect at the next boundary of the new length. -/
def execBwWindow (h : HostHdr) (w : Nat) (s : State) : Host.Outcome State Fault Refusal :=
  countersRequest s h (fun s => orCounter s h (
    if 1000 ≤ w ∧ w ≤ 1000000000 then
      some ({ s with counting := { s.counting with bwNext := some (w, s.bell / w + 1) } }, [])
    else none))

def Port.newWindow (p : Port) (done : Option Nat) : Port :=
  { p with bwTx := 0, bwRx := 0, bwLast := match done with
                                         | some n => (n, p.bwTx, p.bwRx)
                                         | none => p.bwLast }

/-- The running window ends as window `n`: ports and the channels in service report it. -/
def endWindow (s : State) (n : Nat) : State :=
  let f := s.free
  { s with
    free := f + 512,
    ports := s.ports.map (·.newWindow (some n)),
    counting := { s.counting with
      bwNumber := s.bell / s.counting.bwWindow,
      bwLast := Vector.ofFn (fun ch : Fin 256 =>
        if s.channels[ch].inService then (n, Config.freeNat (f + 2 * ch) % 2 ^ 48, Config.freeNat (f + 2 * ch + 1) % 2 ^ 48)
        else s.counting.bwLast[ch]) } }

/-- A new length takes effect: its first window begins. -/
def switchWindow (s : State) : State :=
  match s.counting.bwNext with
  | some (w, n) =>
    if w * n ≤ s.bell then
      { s with ports := s.ports.map (·.newWindow none),
               counting := { s.counting with bwWindow := w, bwNext := none, bwNumber := s.bell / w } }
    else s
  | none => s

/-- BW_WINDOW_BOUNDARY. -/
def bwBoundary (s : State) : State :=
  let k := s.counting
  let s := if (k.bwNumber + 1) * k.bwWindow ≤ s.bell then endWindow s (s.bell / k.bwWindow - 1) else s
  switchWindow s

def execBwWindowBoundary (s : State) : Host.Outcome State Fault Refusal := happen s bwBoundary

/-- Number and byte counts of the last completed window of a channel or port. -/
def bwUnit (s : State) (kind n : Nat) : Option (Nat × Nat × Nat) :=
  if kind = 2 then (if h : n < 256 then some s.counting.bwLast[n] else none)
  else if kind = 3 then (if h : n < 32 then some s.ports[n].bwLast else none)
  else none

def execBwRead (h : HostHdr) (kind first count : Nat) (s : State) : Host.Outcome State Fault Refusal :=
  countersRequest s h (fun s =>
    let l := (List.range count).filterMap (fun n => bwUnit s kind (first + n))
    orCounter s h (if l.length = count ∧ 1 ≤ count then
      some (s, l.flatMap (fun e => leBytes 8 e.1 ++ leBytes 8 e.2.1 ++ leBytes 8 e.2.2))
    else none))

/-! ### Top-down values, telemetry and tallies -/

def topDownBytes (s : State) (first : Nat) : Nat → Bytes
  | 0 => []
  | n + 1 =>
    topDownBytes s first n ++
    (match s.cores[first + n]? with
     | some k => (k.topDown.values (Config.freeNat (s.free + 2 * n)) (Config.freeNat (s.free + 2 * n + 1))).flatMap
         (fun v => leBytes 8 v.toNat) ++ leBytes 8 s.bell
     | none => [])

/-- TOPDOWN_READ of 1 to 64 cores. -/
def execTopdownRead (h : HostHdr) (first count : Nat) (s : State) : Host.Outcome State Fault Refusal :=
  countersRequest s h (fun s => orCounter s h (
    if 1 ≤ count ∧ count ≤ 64 ∧ first + count ≤ 576 then
      some ({ s with free := s.free + 2 * count }, topDownBytes s first count)
    else none))

/-- The samples in the order of the *Sensor inventory*, and the bell of the sample (18 R406). -/
def telemetry (s : State) : Bytes :=
  let k := s.sensors
  (k.die.toList ++ k.stack.toList ++ k.rates.toList ++ k.input.toList ++ k.railV.toList ++ k.railA.toList).flatMap
    (fun v => leBytes 2 v.toNat) ++ leBytes 8 k.bell

def execTelemetry (h : HostHdr) (s : State) : Host.Outcome State Fault Refusal :=
  .next (hostRequest s h 0x2D (fun _ k => isOwner k) (fun s _ => hostReply s h 0x2D 0 (telemetry s)))

/-- A tally history entry (14 R330). -/
def TallyRec.word (t : TallyRec) : Nat :=
  t.t1 * 2 ^ 192 + t.t0 * 2 ^ 128 + t.step % 2 ^ 32 * 2 ^ 96 + t.layer % 2 ^ 16 * 2 ^ 80 + t.cls % 2 ^ 13 * 2 ^ 67
    + t.job % 2 ^ 16 * 2 ^ 48 + t.member % 2 ^ 14 * 2 ^ 34

/-- The named history; none for a byte or a plan number that names nothing. -/
def historyOf (s : State) (hist plan : Nat) : List TallyRec :=
  if hist = 1 then s.frozen
  else if hist = 0 then
    (match (s.plans[plan]?).join with
     | some p => p.history
     | none => [])
  else []

def execTallyRead (h : HostHdr) (hist plan first count : Nat) (s : State) : Host.Outcome State Fault Refusal :=
  .next (hostRequest s h 0x2E (fun _ k => isOwner k) (fun s _ =>
    let l := historyOf s hist plan
    if l.isEmpty || count = 0 || 4096 < count then hostReply s h 0x2E codeFrame []
    else hostReply s h 0x2E 0 (((l.drop first).take count).flatMap (fun t => leBytes 32 t.word))))

end Sys2Proof.Machine
end

