-- ==== Sys2Proof/Machine/Start.lean ====
section
/-! DEFINITION. Flash and signed objects (16 R363-R366; 15 R343-R346), the configuration image (16 R369), the health
record (16 R371, R372), the start sequence (16 R367, R368; 19 R411, R416, R424, R427; 08 R185, R186) and restart (16
R378, R379). -/

namespace Sys2Proof.Machine
open Sys2Proof

/-! ### Flash (16 R363) -/

def regionBase : Nat → Nat
  | 1 => 0x00000000 | 2 => 0x02000000 | 3 => 0x02200000 | 4 => 0x02240000 | 5 => 0x02250000 | 6 => 0x02270000
  | 7 => 0x03000000 | 8 => 0x03000400 | _ => 0x02290000

def regionSize : Nat → Nat
  | 1 => 0x02000000 | 2 => 0x00200000 | 3 => 0x00040000 | 4 => 0x00010000 | 5 => 0x00020000 | 6 => 0x00020000
  | 7 => 0x400 | 8 => 0x0CFFFC00 | _ => 0x00D70000

def flashRead (s : State) (dev : Fin 2) (a n : Nat) : Bytes := memRead 0xFF s.flash[dev] a n
def flashWrite (s : State) (dev : Fin 2) (a : Nat) (bs : Bytes) : State :=
  { s with flash := s.flash.set dev (memWrite 0xFF s.flash[dev] a bs) }

/-- A memory whose bytes from address 0 are the list. -/
def memOf (bs : Bytes) : Mem := (bs.zipIdx.filter (fun e => e.1 != 0)).map (fun e => (e.2, e.1))

/-! ### Signed objects (15 R343-R345) -/

/-- A signed object that has passed its checks. -/
structure SignedObj where
  sequence : Nat
  signer : Nat
  keyBlock : Bytes
  body : Bytes
  enrolBlock : Bytes
  digest : Nat
  bytes : Nat
  deriving DecidableEq, Repr

/-- SIGNER legal for TYPE (*Signed object type table*). -/
def signerLegal (type signer : Nat) : Bool :=
  if type = 1 ∨ type = 5 then signer == 0
  else if type = 6 ∨ type = 7 ∨ type = 8 then signer == 5
  else 1 ≤ signer && signer ≤ 4

def counterOf (s : State) (type : Nat) : Nat :=
  if type = 1 then s.fuses.fwSvn.toNat else if type = 2 then s.fuses.cfgSeq.toNat else if type = 3 then s.fuses.listSeq.toNat else 0

def slotsEmpty (s : State) : Bool := s.fuses.slots.toList.all (fun e => e.1 == 0)

/-- The body's ENROLL bit (15 R346) of a CONFIG object. -/
def enrols (type : Nat) (body : Bytes) : Bool := type == 2 && bits (leNat ((body.drop 4).take 4)) 3 3 == 1

/-- The body's own length and reserved bytes: ALLOWED_PLANS (15 R345), DEBUG_AUTH (R356), WEIGHTS (R349). -/
def bodyFits (type : Nat) (body : Bytes) : Bool :=
  let zero (from_ n : Nat) : Bool := ((body.drop from_).take n).all (· == 0)
  if type = 3 then
    let n := leNat (body.take 2)
    1 ≤ n && n ≤ 256 && body.length == 8 + 96 * n && zero 2 6
  else if type = 4 then body.length == 8 && zero 4 4
  else if type = 9 then body.length == 600 && zero 596 4
  else true

/-- 15 R345: the object at the start of `b`, or the number of the first check that fails. -/
def verifyObject (s : State) (type : Nat) (b : Bytes) : Except Nat SignedObj :=
  let h := leNat (b.take 32)
  let bodyBytes := bits h 127 96
  let padded := (bodyBytes + 7) / 8 * 8
  let signer := bits h 95 88
  let target := bits h 191 128
  let keyBlock := (b.drop 32).take 520
  let body := (b.drop 552).take bodyBytes
  let enr := enrols type body
  let enrolAt := 552 + padded
  let sigAt := enrolAt + (if enr then 1032 else 0)
  let keyDigest := digestOf keyBlock
  let claim := type == 2 && slotsEmpty s
  let enrolBlock := (b.drop enrolAt).take 520
  let slot := s.fuses.slots.toList.getD (signer - 1) (0, 0)
  if bits h 31 0 ≠ objMagic ∨ bits h 47 32 ≠ 0 ∨ bits h 63 48 ≠ 1 ∨ bits h 79 64 ≠ type ∨ bits h 87 80 ≠ 0
      ∨ b.length < sigAt + 512 ∨ !bodyFits type body ∨ ((b.drop (552 + bodyBytes)).take (padded - bodyBytes)).any (· != 0) then .error 1
  else if !signerLegal type signer then .error 2
  else if (if signer = 0 then keyDigest != s.fuses.vendorRoot
           else if signer = 5 then keyDigest != s.fuses.identityDigest
           else if claim then !(enr && signer == 1 && enrolBlock == keyBlock && s.fuses.claimPermit)
           else keyDigest != slot.2 || slot.1 == 0) then .error 2
  else if 1 ≤ signer ∧ signer ≤ 4 ∧ !claim ∧ slot.1 ≠ 1 then .error 3
  else if !(target == s.fuses.identityDigest % 2 ^ 64 || (target == 0 && type ∈ [1, 2, 3])) then .error 4
  else if !(rsaVerify keyBlock (b.take sigAt) ((b.drop sigAt).take 512)
      && (!enr || rsaVerify enrolBlock (b.take (enrolAt + 520)) ((b.drop (enrolAt + 520)).take 512))) then .error 5
  else if bits h 255 192 < counterOf s type then .error 6
  else .ok ⟨bits h 255 192, signer, keyBlock, body, enrolBlock, digestOf (b.take (sigAt + 512)), sigAt + 512⟩

/-- A counter after an accepted SEQUENCE. A SEQUENCE beyond the cells raises it to a value that is not given: a free value
at or above the old one (15 R342; notes/assumptions/48.md). -/
def raised {w : Nat} (old : BitVec w) (seq free : Nat) : BitVec w :=
  if seq < 2 ^ w then BitVec.ofNat w (max old.toNat seq) else BitVec.ofNat w (old.toNat + free % (2 ^ w - old.toNat))

/-- A checked SEQUENCE above its counter raises the counter. -/
def raiseCounter (s : State) (type seq : Nat) : State :=
  let (r, s) := takeFree s
  if type = 1 then { s with fuses := { s.fuses with fwSvn := raised s.fuses.fwSvn seq r } }
  else if type = 2 then { s with fuses := { s.fuses with cfgSeq := raised s.fuses.cfgSeq seq r } }
  else if type = 3 then { s with fuses := { s.fuses with listSeq := raised s.fuses.listSeq seq r } }
  else s

/-! ### The configuration's content check (16 R369) -/

def zeroField (n hi lo : Nat) : Bool := bits n hi lo == 0

def ringLegal (w : Nat) : Bool :=
  if bits w 23 23 = 0 then w == 0
  else zeroField w 63 24 && zeroField w 6 0 && 1000000 ≤ bits w 127 96 && bits w 127 96 ≤ 1000000000
    && 1 ≤ bits w 95 76 && 1 ≤ bits w 75 64

def principalsLegal (s : State) : Bool :=
  (List.range 64).all (fun k =>
    let w := prWord s k
    zeroField w 4 2 && zeroField w 11 9 && cfgNat s (0x40 + 96 * k + 5) 27 / 1 % 2 ^ 216 == 0
    && prRole s k != 3
    && (prRole s k != 2 || (zeroField w 5 5 && zeroField w 6 6 && zeroField w 8 8))
    && (prRole s k != 1 || zeroField w 8 8 || bits w 25 12 ≤ bits w 39 26)
    && (prRole s k == 0 ||
        (!s.fuses.slots.toList.any (fun e => e.1 != 0 && e.2 == prDigest s k)
         && (List.range k).all (fun j => prRole s j == 0 || prDigest s j != prDigest s k))))

def domainWord (s : State) : Nat := cfgNat s 0x20 16
def cfgPrimary (s : State) : Nat := bits (domainWord s) 61 40
def cfgStandby (s : State) : Nat := bits (domainWord s) 83 62
def cfgDomainSize (s : State) : Nat := bits (domainWord s) 39 26
def cfgTwin (s : State) : Bool := bits (domainWord s) 19 19 == 1
def cfgTwinSideB (s : State) : Bool := bits (domainWord s) 18 18 == 1
def cfgTwinPrimary (s : State) : Nat := bits (domainWord s) 105 84
def cfgStrict (s : State) : Bool := bits (cfgNat s 0xC 4) 0 0 == 1
def cfgCoreLimit (s : State) : Nat := bits (cfgNat s 0xC 4) 2 1
def cfgTempCeil (s : State) : Nat := bits (cfgNat s 8 4) 15 8
def cfgPlough (s : State) : Nat := bits (cfgNat s 8 4) 3 2
def cfgPortEnable (s : State) : Nat := bits (cfgNat s 0x18 8) 63 32
def cfgAutostart (s : State) : Bool := bits (cfgNat s 0x18 8) 0 0 == 1

/-- 13 R295. -/
def domainLegal (s : State) : Bool :=
  let w := domainWord s
  zeroField w 25 20 && zeroField w 17 16 && zeroField w 61 60 && zeroField w 83 82
  && cfgPrimary s / 4 != cfgStandby s / 4 && 1 ≤ cfgDomainSize s && cfgDomainSize s ≤ 8192 && bits w 15 0 != 0
  && (if cfgTwin s then bits w 105 84 != 0 && bits w 127 106 != 0 else zeroField w 127 84)

def autostartWord (s : State) (k : Nat) : Nat := cfgNat s (0x1840 + 8 * k) 8

def autostartLegal (s : State) : Bool :=
  (List.range 16).all (fun k =>
    let w := autostartWord s k
    if bits w 0 0 = 0 then w == 0
    else zeroField w 41 16 && zeroField w 7 4 && bits w 3 2 != 3
      && (if bits w 1 1 = 1 ∨ bits w 3 2 = 2 then bits w 63 42 != 0 && bits w 63 42 != cfgPlace s else zeroField w 63 42))

/-- The content check of the image in `s.cfg`. -/
def configLegal (s : State) : Bool :=
  let hbm := cfgNat s 8 4
  let det := cfgNat s 0xC 4
  let pow := cfgNat s 0x10 8
  let start := cfgNat s 0x18 8
  cfgNat s 0 4 < 2 ^ 20
  && zeroField (cfgNat s 4 4) 31 8 && zeroField (cfgNat s 4 4) 2 0
  && zeroField hbm 31 16 && zeroField hbm 7 4 && zeroField hbm 1 1 && 85 ≤ cfgTempCeil s && cfgTempCeil s ≤ 105
  && cfgPlough s != 3
  && zeroField det 31 3 && cfgCoreLimit s != 3 && (!cfgTwin s || cfgStrict s)
  && zeroField pow 63 48 && zeroField pow 11 0 && 700 ≤ capMin s && capMin s ≤ capStart s && capStart s ≤ capMax s
  && capMax s ≤ 3600
  && zeroField start 31 15 && zeroField start 7 1 && 0x08 ≤ bits start 14 8 && bits start 14 8 ≤ 0x77
  && domainLegal s && principalsLegal s && autostartLegal s
  && cfgNat s 0x30 16 == 0 && cfgNat s 0x18C0 1856 == 0
  && (List.range 16384).all (fun n => ringLegal (cfgRing s n))

/-! ### Claim and rotation (15 R346) -/

/-- Claim, enrol and revoke; none where the image is invalid. Journal records follow JOURNAL_START, so they come back as
a list. -/
def rotate (s : State) (o : SignedObj) : Option (State × List (Nat × Bytes)) :=
  let own := leNat ((o.body.drop 4).take 4)
  let enr := bits own 3 3 == 1
  let revoke := bits own 7 4
  let slots := s.fuses.slots
  let enrolled : Option (Vector (Nat × Nat) 4 × List (Nat × Bytes)) :=
    if enr then
      match (List.finRange 4).find? (fun k : Fin 4 => slots[k].1 == 0) with
      | some k => some (slots.set k (1, digestOf o.enrolBlock), [(0x0707, leBytes 1 k ++ leBytes 64 (digestOf o.enrolBlock))])
      | none => none
    else some (slots, [])
  match enrolled with
  | none => none
  | some (sl, recs) =>
    let named (k : Nat) : Bool := revoke / 2 ^ k % 2 == 1
    let after := Vector.ofFn (fun k : Fin 4 => if named k then (3, sl[k].2) else sl[k])
    if revoke ≠ 0 ∧ (named (o.signer - 1) || (List.finRange 4).any (fun k : Fin 4 => named k && slots[k].1 == 0)
        || !after.toList.any (fun e => e.1 == 1)) then none
    else some ({ s with fuses := { s.fuses with slots := after } },
      recs ++ ((List.finRange 4).filter (fun k : Fin 4 => named k && sl[k].1 == 1)).map (fun k : Fin 4 => (0x0708, leBytes 1 k)))

/-! ### The health record (16 R371) -/

/-- Base of each copy in writing order: FL0 copy 0, FL0 copy 1, FL1 copy 0, FL1 copy 1. -/
def healthCopies : List (Fin 2 × Nat) := [(0, 0x02250000), (0, 0x02270000), (1, 0x02250000), (1, 0x02270000)]

def healthBytes (h : HealthRec) : Bytes :=
  let head := leBytes 4 0x48544C48 ++ leBytes 2 1 ++ leBytes 2 0 ++ leBytes 8 h.generation ++ leBytes 4 h.startCount
    ++ leBytes 4 h.entries.length ++ leBytes 40 0 ++ h.entries.flatMap (leBytes 8)
  head ++ sha512 head

/-- A valid copy: record and digest of the copy as read. -/
def readHealth (s : State) (dev : Fin 2) (a : Nat) : Option (HealthRec × Nat) :=
  let h := flashRead s dev a 64
  let n := leNat ((h.drop 20).take 4)
  if leNat (h.take 4) = 0x48544C48 ∧ leNat ((h.drop 4).take 2) = 1 ∧ n ≤ 16368 then
    let all := flashRead s dev a (64 + 8 * n)
    if sha512 all = flashRead s dev (a + 64 + 8 * n) 64 then
      some (⟨leNat ((h.drop 8).take 8), leNat ((h.drop 16).take 4),
             (List.range n).map (fun k => leNat ((all.drop (64 + 8 * k)).take 8)), []⟩, leNat (sha512 all))
    else none
  else none

/-- The valid copy with the highest GENERATION, FL0 before FL1 and copy 0 before copy 1. -/
def selectHealth (s : State) : Option (HealthRec × Nat) :=
  (healthCopies.filterMap (fun e => readHealth s e.1 e.2)).foldl (fun b e =>
    match b with
    | some x => if x.1.generation < e.1.generation then some e else b
    | none => some e) none

/-- Write the record to the copies that the mask names; the others do not read back. -/
def writeHealth (s : State) (h : HealthRec) (ok : BitVec 4) : State :=
  (healthCopies.zipIdx.filter (fun e => ok.getLsbD e.2)).foldl (fun s e => flashWrite s e.1.1 e.1.2 (healthBytes h)) s

/-! ### Restart (16 R379) -/

/-- The module begins again: everything is lost but the fuses, flash, and what the model itself keeps. `power` tells
that power was lost, which also loses CLAIM_PERMIT. -/
def beginAgain (s : State) (power : Bool) : State :=
  { State.reset with
    pending := s.pending, out := s.out, free := s.free, flash := s.flash,
    fuses := { s.fuses with claimPermit := s.fuses.claimPermit && !power },
    mod := { ModInfo.reset with state := if power then .off else .starting, startStep := if power then 0 else 1,
                                grade := s.mod.grade, stepping := s.mod.stepping },
    power := { Power.reset with inputOk := !power, fuseOpen := s.power.fuseOpen, reversed := s.power.reversed } }

/-! ### The start sequence (16 R367) -/

/-- The region of a device holds a copy of an object: one whose first four bytes are not MAGIC is absent (16 R363). -/
def copyThere (s : State) (d : Fin 2) (region : Nat) : Bool := leNat (flashRead s d (regionBase region) 4) == objMagic

/-- The first copy of an object that passes, FL0 first, with the records of the copies that failed (16 R364). -/
def chooseObject (s : State) (type region : Nat) (content : SignedObj → Bool) :
    Option (SignedObj × Fin 2) × List (Nat × Bytes) :=
  let attempt (d : Fin 2) : Except Nat SignedObj :=
    match verifyObject s type (flashRead s d (regionBase region) (regionSize region)) with
    | .ok o => if content o then .ok o else .error 7
    | .error n => .error n
  let refused (d : Fin 2) (n : Nat) : List (Nat × Bytes) :=
    if copyThere s d region then [(0x0709, leBytes 2 type ++ leBytes 1 n ++ leBytes 2 0)] else []
  match attempt 0 with
  | .ok o => (some (o, 0), [])
  | .error n =>
    match attempt 1 with
    | .ok o => (some (o, 1), refused 0 n)
    | .error m => (none, refused 0 n ++ refused 1 m)

def journalAll (s : State) (l : List (Nat × Bytes)) : State :=
  l.foldl (fun s e => journalRaw s e.1 0 0 0xFF e.2) s

/-- Stop the start with a failure code. -/
def startFail (s : State) (state : ModState) (code ms : Nat) : State :=
  { s with mod := { s.mod with state := state, failCode := code, elapsedMs := ms } }

def nominalMv : List Nat := [750, 750, 750, 750, 800, 750, 1800, 1100, 400, 750, 900, 1200, 900, 750, 1800, 1200]

/-- Set the rails that a test picks to their nominal voltage. -/
def railsOn (s : State) (pick : Nat → Bool) : State :=
  { s with power := { s.power with rails := Vector.ofFn (fun r : Fin 16 =>
      if pick r then { s.power.rails[r] with mv := nominalMv.getD r 0 } else s.power.rails[r]) } }

/-- Apply one health entry before self-test, training and mapping (20 R445; 16 R372; 08 R186). -/
def applyEntry (s : State) (e : Nat) : State :=
  let kind := bits e 31 24
  let reason := bits e 23 16
  let unit := bits e 15 0
  if kind = 0 then
    if h : unit < 256 then
      { s with channels := s.channels.set unit { s.channels[unit] with
                granting := false, inService := false, outReason := BitVec.ofNat 8 reason } }
    else s
  else if kind = 1 then
    if h : unit < 576 then { s with coreMap := s.coreMap.set unit (if reason = 3 then .failed else .fenced) } else s
  else if kind = 2 then if h : unit < 32 then { s with carts := s.carts.set unit { s.carts[unit] with inService := false } } else s
  else if kind = 3 then if h : unit < 32 then { s with recks := s.recks.set unit { s.recks[unit] with inService := false } } else s
  else if kind = 4 then if h : unit < 512 then { s with bins := s.bins.set unit { s.bins[unit] with inService := false } } else s
  else if kind = 5 then if h : unit < 2 then { s with mills := s.mills.set unit { s.mills[unit] with inService := false } } else s
  else s

/-- PLOUGH_CTL of the last run of the start test: every line, one pass, PATTERN 5 under OP 0 with CRYPT = 1 and INJECT = 0,
ascending in the quick test and descending in the full one (08 R190). -/
def startPloughCtl (s : State) : BitVec 64 :=
  BitVec.ofNat 64 (75497471 * 2 ^ 32 + 5 * 2 ^ 24 + (if cfgPlough s = 2 then 2 ^ 21 else 0) + 2 ^ 20)

/-- Module firmware runs the start plough test on a channel in service. The SEED, the counts of corrected and mismatching
lines and the first mismatch are not given: free values (notes/assumptions/48.md). A channel that is kept is zero-filled
afterwards. -/
def startPlough (s : State) (ch : Fin 256) (bad : Bool) : State :=
  if !s.channels[ch].inService then s
  else
    let (seed, s) := takeFree s
    let (corr, s) := takeFree s
    let (first, s) := takeFree s
    let (lines, s) := takeFree s
    let run := (startPloughCtl s, BitVec.ofNat 64 (seed % 2 ^ 32 * 2 ^ 32))
    let k : Plough :=
      { ctl := run.1, arg := run.2, active := run, state := 2, fail := bad,
        firstFail := if bad then BitVec.ofNat 27 (first % 75497472) else 0,
        mismatch := if bad then BitVec.ofNat 16 (lines % 0xFFFF + 1) else 0,
        corrected := BitVec.ofNat 16 corr, written := if bad then [run] else [] }
    { s with channels := s.channels.set ch { s.channels[ch] with plough := k } }

/-- Step 8 waits for the host link and the ports; SEAL follows. -/
def startStep67 (s : State) (f : StartFacts) : State :=
  let s := railsOn { s with mod := { s.mod with startStep := 6 } } (fun r => r < 13)
  let s := s.health.entries.foldl applyEntry s
  let s := f.failed.foldl (fun s u =>
    let e := healthEntry s.mod.startCount u.1 2 u.2
    let (test, s) := takeFree s
    journalRaw (addHealth (applyEntry s e) u.1 2 u.2) 0x0102 0 0 0xFF (leBytes 1 u.1 ++ leBytes 2 u.2 ++ leBytes 1 test)) s
  let most := min (if s.mod.grade = 0 then 512 else 448)
    (if cfgCoreLimit s = 1 then 448 else if cfgCoreLimit s = 2 then 384 else 512)
  match [512, 448, 384].find? (fun n => n ≤ most && supports s n) with
  | none => startFail s .stopped 6 f.elapsedMs
  | some n =>
    let s := rebuildMap s n
    let s := { s with mod := { s.mod with startStep := 7 } }
    let s := { s with mod := { s.mod with hbmKey := Config.randomNat s.free 64 }, free := s.free + 1 }
    let out (reason : Nat) (s : State) : State := (f.badChannels.filter (fun u => u.2 == reason)).foldl (fun s u =>
      addHealth (applyEntry s (healthEntry s.mod.startCount 0 reason u.1)) 0 reason u.1) s
    -- training, then the plough test that CFG_HBM.PLOUGH names
    let s := out 3 s
    let s := if cfgPlough s = 0 then s else
      out 2 ((List.finRange 256).foldl (fun s ch => startPlough s ch (f.badChannels.any (fun u => u.1 == ch.val && u.2 == 2))) s)
    { s with mod := { s.mod with startStep := 8, elapsedMs := f.elapsedMs } }

/-- Claim, lists, debug and measurement, once a CONFIG is in hand (step 5). `held` are the records since step 4. -/
def startConfigured (s : State) (f : StartFacts) (o : SignedObj) (dev : Fin 2) (held : List (Nat × Bytes)) : State :=
  match rotate s o with
  | none => startFail (journalAll s held) .halted 4 f.elapsedMs
  | some (s, recs) =>
    let s := { raiseCounter s 2 o.sequence with cfg := memOf o.body, mod := { s.mod with cfgFl1 := dev == 1 } }
    let (list, listRecs) := chooseObject s 3 3 (fun _ => true)
    let (auth, authRecs) := chooseObject s 4 4 (fun _ => true)
    let dbg := auth.filter (fun e => leNat (e.1.body.take 4) == s.mod.startCount)
    let slotBytes := s.fuses.slots.toList.flatMap (fun e => leBytes 64 (if e.1 = 0 then 0 else e.2))
      ++ leBytes 1 (slotState s)
    let s := measExtend s 2 (sha512 slotBytes)
    let s := measExtend s 3 (leBytes 64 o.digest)
    let s := (match list with
      | some (l, d) =>
        let s := raiseCounter s 3 l.sequence
        { measExtend s 4 (leBytes 64 l.digest) with
          allowed := (List.range (leNat (l.body.take 2))).map (fun k =>
            (leNat ((l.body.drop (8 + 96 * k)).take 64), leNat ((l.body.drop (72 + 96 * k)).take 32))),
          mod := { s.mod with listFl1 := d == 1, listAbsent := false } }
      | none => { s with allowed := [], mod := { s.mod with listAbsent := true } })
    let s := measExtend s 6 (match dbg with | some (d, _) => leBytes 64 d.digest | none => leBytes 64 0)
    let s := measExtend s 7 (sha512 Config.identityCert)
    let listDigest := (match list with | some (l, _) => l.digest | none => 0)
    let s := measExtend s 11 (sha512 (memRead 0 s.cfg 8 8 ++ memRead 0 s.cfg 0x20 16 ++ leBytes 64 listDigest))
    let s := journalRaw s 0x0701 0 0 0xFF (leBytes 4 s.mod.startCount ++ leBytes 1 s.fuses.fwSvn.toNat ++ s.meas[1] ++ s.meas[3])
    let s := journalAll s (held ++ recs ++ listRecs ++ authRecs)
    match dbg with
    | some (d, _) =>
      let s := journalRaw s 0x070D 0 0 0xFF (leBytes 64 d.digest)
      startFail { s with fuses := { s.fuses with keysErased := true }, tap := { s.tap with debugOpen := true } } .halted 5
        f.elapsedMs
    | none => if s.fuses.keysErased then startFail s .halted 5 f.elapsedMs else startStep67 s f

/-- Step 5 (16 R371; 15 R346, R351, R356). -/
def startStep5 (s : State) (f : StartFacts) (held : List (Nat × Bytes)) : State :=
  let s := { s with mod := { s.mod with startStep := 5 } }
  match selectHealth s with
  | none => startFail s .stopped 2 f.elapsedMs
  | some (h, digest) =>
    let s := measExtend s 5 (leBytes 64 digest)
    let h' : HealthRec := { h with generation := h.generation + 1, startCount := h.startCount + 1 }
    let s := writeHealth { s with health := h', mod := { s.mod with startCount := h.startCount + 1 } } h' f.healthCopies
    if f.healthCopies = 0 then startFail s .stopped 3 f.elapsedMs
    else
      let s := { s with journal := { Journal.reset with
        chain := sha512 (leBytes 64 s.fuses.identityDigest ++ leBytes 4 s.mod.startCount) } }
      match chooseObject s 2 2 (fun o =>
          o.body.length == 270336 && (rotate s o).any (fun r => configLegal { r.1 with cfg := memOf o.body })) with
      | (some (o, dev), recs) => startConfigured s f o dev (held ++ recs)
      | (none, recs) =>
        let s := journalRaw s 0x0701 0 0 0xFF (leBytes 4 s.mod.startCount ++ leBytes 1 s.fuses.fwSvn.toNat ++ s.meas[1] ++ s.meas[3])
        railsOn (startFail (journalAll s (held ++ recs)) .halted 4 f.elapsedMs) (fun r => r == 12)

/-- Step 4: the warden and the firmware. -/
def startStep4 (s : State) (f : StartFacts) : State :=
  let s := { s with mod := { s.mod with startStep := 4 } }
  let s := measExtend s 0 (leBytes 64 Config.maskDigest)
  match chooseObject s 1 1 (fun _ => true) with
  | (some (o, dev), recs) =>
    let s := measExtend (raiseCounter s 1 o.sequence) 1 (leBytes 64 o.digest)
    startStep5 { s with mod := { s.mod with fwFl1 := dev == 1 } } f recs
  | (none, _) => startFail s .stopped 1 f.elapsedMs

/-- Steps 1-3 and what follows: the input holds 46-60 V for 100 ms. -/
def inputValid (s : State) (f : StartFacts) : State :=
  let waiting := match s.mod.state with
    | .off => true
    | .starting => s.mod.startStep ≤ 1
    | _ => false
  if !waiting || s.power.fuseOpen || s.power.dark then s
  else
    let s := { s with power := { s.power with inputOk := true, reversed := false },
                      mod := { s.mod with state := .starting, startStep := 3, grade := f.grade, stepping := f.stepping } }
    let s := railsOn s (fun r => 13 ≤ r)
    if !f.powerOk then
      { s with power := { s.power with flags := s.power.flags ||| 2 }, bellRunning := true,
               mod := { s.mod with startStep := 2, failCode := 7 } }
    else if !f.referenceOk then
      { s with power := { s.power with flags := s.power.flags ||| 64 }, mod := { s.mod with failCode := 8 } }
    else startStep4 { s with bell := 0, bellRunning := true } f

def execInputValid (f : StartFacts) (s : State) : Host.Outcome State Fault Refusal := .next (inputValid s f)

/-- 19 R427: a module held at step 3 continues once the reference has been valid for 100 ms. -/
def execReferenceRestored (f : StartFacts) (s : State) : Host.Outcome State Fault Refusal :=
  .next (if s.mod.state == .starting && s.mod.failCode == 8 then
      startStep4 { s with bell := 0, bellRunning := true, mod := { s.mod with failCode := 0 } } f
    else s)

/-- HEALTH_WRITE: the pending entries enter the record and are written to four copies (16 R371). -/
def healthWrite (s : State) (ok : BitVec 4) : State :=
  if s.health.pending.isEmpty || s.mod.startStep < 6 then s
  else
    let h : HealthRec := { s.health with generation := s.health.generation + 1,
                                         entries := s.health.entries ++ s.health.pending, pending := [] }
    let s := writeHealth { s with health := h } h ok
    if ok = 0 then journalRaw s 0x0104 0 0 0xFF (leBytes 8 h.generation)
    else journalRaw s 0x0103 0 0 0xFF (leBytes 8 h.generation ++ leBytes 4 h.entries.length
      ++ leBytes 1 ((List.range 4).countP (fun k => ok.getLsbD k)))

def execHealthWrite (ok : BitVec 4) (s : State) : Host.Outcome State Fault Refusal :=
  .next (attend s (healthWrite s ok))

/-! ### Restart and shutdown (16 R378, R380; 15 R359) -/

/-- A RESTART in orderly form: DRAINING, and every plan drains. -/
def orderlyRestart (s : State) (session : Nat) : State :=
  if s.draining.isSome then s
  else
    let s := { s with mod := { s.mod with state := .draining }, draining := some ⟨session, s.bell, none⟩ }
    let s := (List.finRange 16).foldl startDrain s
    if s.reeve.role = 1 then s.emit (.restartReport s.domain.standby) else s

def execRestart (h : HostHdr) (s : State) : Host.Outcome State Fault Refusal :=
  .next (hostRequest s h 0x28 (fun _ k => isOwner k) (fun s _ => hostReply (orderlyRestart s h.session) h 0x28 0 []))

def shutdownRecord (s : State) (kind session torn : Nat) : State :=
  journalRaw s 0x0107 0 0 0xFF (leBytes 1 kind ++ leBytes 2 session ++ leBytes 4 torn)

/-- 16 R378: SHUTDOWN is journaled without waiting and the reset follows. -/
def immediateRestart (s : State) : State :=
  let s := if s.journal.next = 0 then s else shutdownRecord s 2 0 0
  beginAgain s false

/-- 13 R309 orders 2 and 3 of a job that still holds unreleased requests: they receive JOB_TORN_DOWN. -/
def tornRequests (s : State) (i : Fin 16) : State :=
  match s.plans[i] with
  | none => s
  | some p =>
    p.requests.foldl (fun s r => requestReply s r.ring r.session r.tag 0x7002 0 0 0 [])
      (s.modPlan i (fun q => { q with requests := [] }))

/-- The orderly drain ends: no unreleased request is left, or 10 s have passed; then SHUTDOWN waits for its
acknowledgement. -/
def restartDrainEnd (s : State) : State :=
  match s.draining with
  | none => s
  | some d =>
    let busy := (loadedPlans s).any (fun p => !p.requests.isEmpty)
    if d.shutdown.isSome || (busy && s.bell < d.since + 10000000000) then s
    else
      let torn := ((loadedPlans s).map (fun p => if p.jobId = 0 then 0 else p.requests.length)).sum
      let s := (List.finRange 16).foldl (fun (s : State) (i : Fin 16) =>
        match s.plans[i] with
        | some p =>
          if p.jobId ≠ 0 ∧ !p.requests.isEmpty then
            let s := if p.teardownCause.isSome then s
              else fenceJob (sendControl s (reeves s) 0x20 p.jobId 0x500F []) i 0x500F
            revokeJob (tornRequests s i) i p.jobId
          else s
        | none => s) s
      let s := shutdownRecord s 1 d.session torn
      { s with draining := some { d with shutdown := some (lastIndex s, s.bell) } }

def execRestartDrainEnd (s : State) : Host.Outcome State Fault Refusal := .next (attend s (restartDrainEnd s))

/-- The acknowledgement has not come within 10 s: the module resets. -/
def execShutdownAckTimeout (s : State) : Host.Outcome State Fault Refusal :=
  .next (match s.draining with
    | some d => (match d.shutdown with
      | some (_, b) => if b + 10000000000 ≤ s.bell then beginAgain s false else s
      | none => s)
    | none => s)

/-- JOURNAL_ACK (15 R359); the acknowledgement of SHUTDOWN ends an orderly restart. -/
def execJournalAck (h : HostHdr) (index : Nat) (s : State) : Host.Outcome State Fault Refusal :=
  .next (hostRequest s h 0x24 mayAck (fun s _ =>
    let s := hostReply (journalFree s index) h 0x24 0 []
    match s.draining with
    | some d => (match d.shutdown with
      | some (n, _) => if n ≤ index then beginAgain s false else s
      | none => s)
    | none => s))

end Sys2Proof.Machine
end

