-- ==== Sys2Proof/Machine/Slots.lean ====
section
/-! DEFINITION. The slot grid of a service (10 R225-R227), lanes (09 R210), the open of a step attempt (03 R61; 09 R205),
the open of a slot (03 R60; 14 R333), and the release of replies (10 R228-R233; 15 R361, R362). -/

namespace Sys2Proof.Machine
open Sys2Proof

/-! ### The grid and its lanes -/

def slotStart (p : Plan) (v : Service) (k : Nat) : Bell := p.gridBell + k * v.slotBells
def slotEnd (p : Plan) (v : Service) (k : Nat) : Bell := slotStart p v (k + 1)

/-- IN_STRIDE and OUT_STRIDE. -/
def stride (n : Nat) : Nat := (n + 63) / 64 * 64
def Service.inLane (v : Service) (k j : Nat) : Nat := v.inBase + (k % 2 * v.lanes + j) * stride v.inBytes
def Service.outLane (v : Service) (k j : Nat) : Nat := v.outBase + (k % 2 * v.lanes + j) * stride v.outBytes
def Service.stream (v : Service) : Bool := v.kind == 2
def Service.promised (v : Service) : Bool := v.bound != 0

/-- A STREAM request's position target (09 R210). -/
def Req.target (r : Req) : Nat := leNat (r.input.take 4)
/-- Slots that a request holds its lane for (10 R227). -/
def Service.windows (v : Service) (r : Req) : Nat :=
  if v.stream then (r.target + v.windowSteps - 1) / v.windowSteps else 1

/-- The request has a lane in slot `k` of service `n`. -/
def Req.inSlot (v : Service) (n k : Nat) (r : Req) : Bool :=
  r.service == n && (match r.slot with
    | some f => f ≤ k && k < f + v.windows r
    | none => false)

def slotReqs (p : Plan) (v : Service) (n k : Nat) : List Req := p.requests.filter (Req.inSlot v n k)
def laneFree (p : Plan) (v : Service) (n k j : Nat) : Bool := !(slotReqs p v n k).any (fun r => r.lane == j)

/-- Plan sequence-slot index of lane 0 of a STREAM service: the services take the plan's slots in service order
(notes/assumptions/24.md). -/
def firstSeq (p : Plan) (n : Nat) : Nat := (((p.img.services.take n).filter Service.stream).map (·.lanes)).sum
def laneSeq (p : Plan) (n j : Nat) : Option Nat := p.seqs[firstSeq p n + j]?
/-- CAP of the sequence slot of a lane. -/
def laneCap (p : Plan) (n j : Nat) : Nat := ((p.img.seqOwner[firstSeq p n + j]?).map (·.2)).getD 0

/-- The slot that the plan runs. -/
def openRun (p : Plan) : Option SlotRun := p.runs.find? (fun r => !r.ended)

def inRun (p : Plan) (r : Req) : Bool :=
  match openRun p with
  | some u => (match p.img.services[u.service]? with
    | some v => r.inSlot v u.service u.slot
    | none => false)
  | none => false

/-! ### The open of an attempt (03 R61, 05 R127, 09 R205) -/

/-- What a core clears at every open of a step. -/
def Core.openStep (k : Core) : Core :=
  { k with regs := { k.regs with v := .replicate 64 0, t := .replicate 8 0, k := Regs.reset.k },
           ra01 := .replicate 2 RealAcc.empty, ra23 := .replicate 2 0, view := none, slotX := false, slotV := false,
           slotM := false, issued := [], candidate := none, replayVote := false, fired := [], ratio := [],
           ratioLost := false, run := if k.run = .idle then .idle else .running }

/-- STEP_OPENS and REPLAY_OPENS of a core that takes part (18 event catalogue). -/
def Core.countOpen (k : Core) (att : Nat) : Core :=
  if k.run = .running then (k.count 0x002 1).count 0x003 att else k

/-- A fenced core does not take part until a spare has its slot. -/
def parkFenced (s : State) (i : Fin 16) : State :=
  { s with cores := Vector.ofFn (fun c : CoreId =>
      if s.cores[c].plan = some i ∧ !usable s.coreMap[c] ∧ s.cores[c].run ≠ .idle then { s.cores[c] with run := .stopped }
      else s.cores[c]) }

def SeqSlot.openStep (k : SeqSlot) : SeqSlot := { k with clOpen := k.cl, tlOpen := k.tl, resetMark := false }

/-- Give the votes that came ahead to the nodes. -/
def replayHeld (s : State) (i : Fin 16) (step att : Nat) : State :=
  match s.plans[i] with
  | none => s
  | some p =>
    let due (e : Bool × Nat × Vote) : Bool := e.2.2.step == step && e.2.2.attempt == att
    let s := s.modPlan i (fun q => { q with heldVotes := q.heldVotes.filter (fun e =>
      !due e && (e.2.2.step == (step + 1) % 2 ^ 32 || (e.2.2.step == step && att < e.2.2.attempt))) })
    (p.heldVotes.filter due).foldl (fun s e => nodeVote s i e.1 e.2.1 e.2.2) s

/-- A core whose range in the step's class is empty opens no step. -/
def Core.sitOut (p : Plan) (cls : Nat) (k : Core) : Core :=
  if k.run = .running ∧ rangeEmpty p cls k.planCore then { k with run := .sitsOut } else k

/-- An attempt of the present step opens; frames of the attempt that came before it stand (12 R283-R285). A core whose spare is not ready makes the module vote an early replay
(09 R213). -/
def openAttempt (s : State) (i : Fin 16) (att : Nat) : State :=
  match s.plans[i] with
  | none => s
  | some p =>
    let s := parkFenced (s.modPlanCores i Core.openStep) i
    let cls := (openClass p ((planCores s i).filter (fun k => k.run != .idle))).getD p.cls
    let s := s.modPlanCores i (fun k => (k.sitOut p cls).countOpen att)
    let s := s.modPlan i (fun q => { q with
      attempt := att, cls := cls, openBell := s.bell, stepOpen := true, reopenBell := none,
      replayed := att == 1, voteSent := false, earlySent := false,
      corruptMark := s.colls.any (fun k => k.plan == i && k.attempt == att && k.bufs.any (·.corrupt)), occs := [], ownResult := none, replayCause := 0,
      treeA := { q.treeA with got := [], sent := false }, treeB := { q.treeB with got := [], sent := false },
      highest := max q.highest att, tallies := q.img.tallies.map (fun _ => (0, 0)) })
    let s := { s with
      seqSlots := s.seqSlots.map (fun k => if k.plan = some i then k.openStep else k),
      colls := s.colls.filter (fun k => k.plan != i || k.attempt == att) }
    let s := if s.subs.any (fun u => u.plan == i) then abandonStep s i codeTargetFenced FaultRec.reset 0 else s
    replayHeld s i p.step att

/-! ### The open of a slot -/

/-- Write bytes at a plan address for the module itself: pieces that do not take a write are passed over, and an
uncorrectable line or word met by a partial write is accounted for (08 R179). -/
def moduleWrite (s : State) (i : Fin 16) (a : Nat) (bs : Bytes) : State :=
  (splitLines (bs.length / 64 + 2) a bs.length).foldl (fun s e =>
    match planWrite s i e.1 ((bs.drop (e.1 - a)).take e.2) with
    | .ok s' => s'
    | .fail _ _ pl => placeLost s pl (some i) .partialWrite) s

/-- Start values at slot entry (03 R58, R60). -/
def Core.enter (k : Core) (entry inA outA seq : Nat) : Core :=
  let r := Regs.reset
  let r := ((r.setS 1 (BitVec.ofNat 64 inA)).setS 2 (BitVec.ofNat 64 outA)).setS 3 (BitVec.ofNat 64 seq)
  let r := (r.setA 1 (BitVec.ofNat 48 inA)).setA 2 (BitVec.ofNat 48 outA)
  { k with regs := r, dc := .replicate 16 0, loops := [], bundle := entry, fromS := [], ahead := AddrSide.reset,
           view := none, run := .running,
           ckpt := ⟨r.s, r.a, r.l, .replicate 16 0, [], entry, []⟩ }

/-- S3 of a core in a STREAM service: the plan's sequence-slot index of the slot that it owns among the service's; which
of several, and what a core that owns none holds, is not given (a free value of the plan, the service and the core). -/
def seqIndexOf (p : Plan) (n : Nat) (v : Service) (pc : Nat) : Nat :=
  let r := Config.seqPick p.digest n pc
  let own := (List.range v.lanes).filter (fun j =>
    match p.img.seqOwner[firstSeq p n + j]? with
    | some e => e.1 == pc
    | none => false)
  match own with
  | [] => firstSeq p n + r % max v.lanes 1
  | [j] => firstSeq p n + j
  | _ => firstSeq p n + own.getD (r % own.length) 0

/-- The next slot of the plan: the earliest planned start, ties by service index (10 R225). -/
def nextOpen (p : Plan) : Option (Nat × Nat × Service) :=
  (p.img.services.zipIdx).foldl (fun best e =>
    let k := p.nextSlot.getD e.2 0
    match best with
    | none => some (e.2, k, e.1)
    | some b => if slotStart p e.1 k < slotStart p b.2.2 b.2.1 then some (e.2, k, e.1) else best) none

/-- Lanes of a slot that no request holds, lowest first. -/
def freeLanes (p : Plan) (v : Service) (n k : Nat) : List Nat := (List.range v.lanes).filter (laneFree p v n k)

/-- Deferred requests enter the slot in order of t (10 R233). -/
def takeDeferred (p : Plan) (v : Service) (n k : Nat) : Plan :=
  let due (r : Req) : Bool := r.service == n && r.slot.isNone && r.enqueued + v.leadBells ≤ slotStart p v k
  let go (acc : List Req × List Nat) (r : Req) : List Req × List Nat :=
    match acc.2 with
    | j :: rest => if due r then (acc.1 ++ [{ r with slot := some k, lane := j }], rest) else (acc.1 ++ [r], acc.2)
    | [] => (acc.1 ++ [r], [])
  { p with requests := (p.requests.foldl go ([], freeLanes p v n k)).1 }

/-- A STREAM request that enters its first window is bound to its lane's sequence slot (09 R214). -/
def bindSeqs (s : State) (i : Fin 16) (n k : Nat) (v : Service) : State :=
  match s.plans[i] with
  | none => s
  | some p =>
    if !v.stream then s
    else
      let first := (slotReqs p v n k).filter (fun r => r.slot == some k)
      let qs := first.filterMap (fun r => laneSeq p n r.lane)
      { s with seqSlots := Vector.ofFn (fun x : Fin 64 =>
          let q := s.seqSlots[x]
          if qs.contains x.val then { q with bound := true, cl := 0, tl := 0, p := 0 } else q) }.modPlan i (fun p =>
        { p with requests := p.requests.map (fun (r : Req) =>
            if r.inSlot v n k && r.slot == some k then { r with seq := laneSeq p n r.lane, clStart := 0 } else r) })

/-- Write the inputs of the slot's requests and zero-fill its other lanes; the lane of a STREAM request in a later
window is left alone (09 R210). -/
def writeInputs (s : State) (i : Fin 16) (p : Plan) (n k : Nat) (v : Service) : State :=
  (List.range v.lanes).foldl (fun s j =>
    match (slotReqs p v n k).find? (fun r => r.lane == j) with
    | some r => if r.slot = some k then moduleWrite s i (v.inLane k j) (r.input.take v.inBytes) else s
    | none => moduleWrite s i (v.inLane k j) (List.replicate (stride v.inBytes) 0)) s

/-- The slot's work starts: inputs, entry registers, WIDEN, and attempt 0 of its first step. -/
def startSlot (s : State) (i : Fin 16) (n k : Nat) (v : Service) : State :=
  let s := s.modPlan i (fun q =>
    let q := takeDeferred q v n k
    { q with nextSlot := q.nextSlot.set n (k + 1), widen := 0, widenCkpt := 0, raised := [], slotWidened := false,
             runs := q.runs ++ [⟨n, k, false, slotEnd q v k, false, []⟩] })
  let s := bindSeqs s i n k v
  match s.plans[i] with
  | none => s
  | some p =>
    let s := writeInputs s i p n k v
    let s := s.modPlanCores i (fun c => c.enter (v.entries.getD c.planCore 0) (v.inLane k 0) (v.outLane k 0)
      (if v.stream then seqIndexOf p n v c.planCore else 0))
    openAttempt s i 0

/-- A plan whose next slot may start now: its job has launched here and runs no slot. -/
def slotDue (s : State) (p : Plan) : Option (Nat × Nat × Service) :=
  if p.launched && p.teardownCause.isNone && (openRun p).isNone then
    match nextOpen p with
    | some (n, k, v) => if slotStart p v k ≤ s.bell then some (n, k, v) else none
    | none => none
  else none

def slotOpen (s : State) (i : Fin 16) : State :=
  match s.plans[i] with
  | none => s
  | some p =>
    match slotDue s p with
    | some (n, k, v) => startSlot s i n k v
    | none => s

def execSlotOpen (i : Fin 16) (s : State) : Host.Outcome State Fault Refusal := happen s (fun s => slotOpen s i)

/-! ### The release of a slot's replies -/

/-- RECEIPT_MASK of the plan's list entry holds the service (15 R361). -/
def receipted (s : State) (p : Plan) (n : Nat) : Bool :=
  match s.allowed[p.listIndex]? with
  | some e => e.2 / 2 ^ n % 2 == 1
  | none => false

/-- Read the output lane of a request: none where it is lost. A read of the SRAM of a fenced core whose spare is not
ready is taken as lost too (notes/assumptions/24.md). -/
def readLane (s : State) (i : Fin 16) (v : Service) (k : Nat) (r : Req) : Option Bytes × State :=
  match planRead s i (v.outLane k r.lane) v.outBytes with
  | .ok bs => (some bs, s)
  | .fail _ _ pl => (none, placeLost s pl (some i) .release)

def readLanes (s : State) (i : Fin 16) (v : Service) (k : Nat) : List Req → List (Req × Option Bytes) × State
  | [] => ([], s)
  | r :: t =>
    let (o, s) := readLane s i v k r
    let (l, s) := readLanes s i v k t
    ((r, o) :: l, s)

/-- Bytes 8-143 of a receipt. -/
def receiptTail (s : State) (i : Fin 16) (p : Plan) (v : Service) (n : Nat) (widened late : Bool) (r : Req)
    (out : Bytes) : Bytes :=
  leBytes 4 (p.listIndex * 2 ^ 24 + n * 2 ^ 16 + i * 2 ^ 12 + r.lane)
    ++ leBytes 4 (v.stream.toNat * 64 + (!v.promised).toNat * 32 + p.twin.toNat * 16 + widened.toNat * 8
        + (cfgStrict s).toNat * 4 + p.img.hdr.orderFree.toNat * 2 + late.toNat)
    ++ sha512 (leBytes 2 r.ring ++ leBytes 8 r.enqueued ++ r.input) ++ sha512 out

/-- WINDOW of a result (17 R388). -/
def windowField (v : Service) (u : SlotRun) (r : Req) : Nat :=
  if v.stream then
    (u.slot - r.slot.getD u.slot) * 2 ^ 16 + ((u.carried.find? (fun e => some e.1 == r.seq)).map (·.2)).getD 0 % 2 ^ 16
  else 0

/-- After its last window a request leaves the module, and its sequence slot is free. -/
def dropReleased (s : State) (i : Fin 16) (v : Service) (n k : Nat) : State :=
  match s.plans[i] with
  | none => s
  | some p =>
    let gone (r : Req) : Bool := r.inSlot v n k && !r.inSlot v n (k + 1)
    let left := p.requests.filter (fun r => !gone r)
    let s := s.modPlan i (fun q => { q with requests := left, runs := q.runs.filter (fun u => !(u.service == n && u.slot == k)) })
    { s with seqSlots := Vector.ofFn (fun x : Fin 64 =>
        let q := s.seqSlots[x]
        if q.plan = some i ∧ !left.any (fun r => r.seq == some x.val) then { q with bound := false } else q) }

/-- Release every reply of a slot whose last step has committed (09 R210; 10 R228, R231-R233; 15 R361, R362);
`late` where it has committed after its planned end. -/
def releaseSlot (s : State) (i : Fin 16) (u : SlotRun) (late : Bool) : State :=
  match s.plans[i] with
  | none => s
  | some p =>
    match p.img.services[u.service]? with
    | none => s
    | some v =>
      let rs := (slotReqs p v u.service u.slot).mergeSort (fun a b => a.lane ≤ b.lane)
      let now := s.bell
      let lateness := if late then min (now - u.endBell) (2 ^ 32 - 1) else 0
      let ref := p.listIndex + u.service * 256
      let lateRecord (s : State) : State :=
        if late then journalPlan s i 0x0301 (leBytes 2 ref ++ leBytes 2 rs.length ++ leBytes 8 u.endBell ++ leBytes 8 now
          ++ leBytes 4 lateness) else s
      if rs.isEmpty then dropReleased (lateRecord s) i v u.service u.slot
      else
        let code := if late then 0x4001 else 0
        let (outs, s) := readLanes s i v u.slot rs
        let withR := receipted s p u.service
        let index := s.mod.startCount % 2 ^ 24 * 2 ^ 40 + s.journal.next
        let tail (e : Req × Option Bytes) : Bytes :=
          match e.2 with
          | some o => if withR then receiptTail s i p v u.service u.widened late e.1 o else []
          | none => []
        let tails := outs.map tail
        let s := if withR then
            journalPlan s i 0x0703 (leBytes 2 ref ++ leBytes 2 (outs.countP (fun e => e.2.isSome)) ++ leBytes 8 u.slot
              ++ leBytes 8 now ++ sha512 tails.flatten)
          else s
        let s := (outs.zip tails).foldl (fun s e =>
          match e.1.2 with
          | none => requestReply s e.1.1.ring e.1.1.session e.1.1.tag codeDataLost 0 0 (windowField v u e.1.1) []
          | some o => requestReply s e.1.1.ring e.1.1.session e.1.1.tag code lateness 0 (windowField v u e.1.1)
              ((if withR then leBytes 8 index ++ e.2 else []) ++ o)) s
        let s := lateRecord (if late then countControl s 0x403 (outs.countP (fun e => e.2.isSome)) else s)
        dropReleased s i v u.service u.slot

/-- The output lanes that a slot's release reads. -/
def releaseRanges (p : Plan) (n k : Nat) : List (Nat × Nat) :=
  match p.img.services[n]? with
  | some v => (slotReqs p v n k).map (fun r => (v.outLane k r.lane, v.outBytes))
  | none => []

/-- SLOT_RELEASE: the release bell of a promised service's slot. `corrected` and `lost` are the plan addresses at which its
reads meet errors that no read had met before. -/
def slotRelease (s : State) (i : Fin 16) (n k : Nat) (corrected lost : List Nat) : State :=
  match s.plans[i] with
  | none => s
  | some p =>
    match p.runs.find? (fun u => u.service == n && u.slot == k) with
    | some u =>
      if u.ended && u.endBell ≤ s.bell && p.teardownCause.isNone then
        let r := releaseRanges p n k
        releaseSlot (noteErrors s p (within r corrected) (within r lost)) i u false
      else s
    | none => s

/-- SLOT_RELEASE of a service's slot. -/
def execSlotRelease (i : Fin 16) (slot : Nat × Nat) (reads : ReadOutcome) (s : State) : Host.Outcome State Fault Refusal :=
  happen s (fun s => slotRelease s i slot.1 slot.2 reads.corrected reads.lost)

end Sys2Proof.Machine
end

