-- ==== Sys2Proof/Machine/VSlot.lean ====
section
/-! DEFINITION. The V-slot instructions of forms VE and VC (05 R105-R124): lanes, arithmetic, conversions, the weight
update (14 R324, R325, R337) and fused chains. -/

namespace Sys2Proof.Machine
open Sys2Proof

/-! ### Lanes (05 R105, R106) -/

/-- Lanes below `n` that a mask leaves active. -/
def activeLanes (m : KMask) (n : Nat) : List Nat := (List.range n).filter (fun i => m.getLsbD i)

/-- A group value with new codes in some lanes; `new` answers none for a lane that keeps its value. -/
def updateLanes (w n old : Nat) (new : Nat → Option Nat) : Nat :=
  packCodes w ((codesOf w n old).zipIdx.map (fun e => (new e.2).getD e.1)) + old / 2 ^ (w * n) * 2 ^ (w * n)

/-- The lanes of a group operand. -/
def groupCodes (r : Regs) (g : GroupRef) : List Nat := codesOf g.w g.n (r.group g.first g.size)

def tableFlags (t : List (Option (Nat × NumFlags))) : NumFlags := orFlags (t.filterMap (fun e => e.map (·.2)))

/-- The group after a table of results. -/
def Regs.putTable (r : Regs) (g : GroupRef) (t : List (Option (Nat × NumFlags))) : Regs :=
  let old := r.group g.first g.size
  r.setGroup g.first g.size
    (packCodes g.w (((codesOf g.w g.n old).zip t).map (fun e => match e.2 with | some v => v.1 | none => e.1))
      + old / 2 ^ (g.w * g.n) * 2 ^ (g.w * g.n))

/-! ### Issue, and plain mode (05 R131, R132) -/

/-- What a V-slot instruction runs with: its core, the loaded plan (none in plain mode), and its operand registers. -/
structure VIssue where
  c : CoreId
  own : Option (Fin 16 × Plan)
  rd : Regs

/-- Module firmware may run plain mode on the core: it holds no logical slot of a loaded plan, and the module starts, or
the core is a spare that no substitution has taken, or a fenced core, or test access is open. When within those times
firmware enters is not given: it has entered when a V-slot instruction comes (DESIGN CHOICE, notes/assumptions/47.md). -/
def plainMode (s : State) (c : CoreId) : Bool :=
  s.cores[c].plan.isNone
    && ((s.mod.state == .starting && 6 ≤ s.mod.startStep) || s.tap.debugOpen
        || (serving s && (s.coreMap[c] == .fenced
            || (s.coreMap[c] == .spare && !s.subs.any (fun u => u.spare == c)))))

/-- Firmware enters plain mode; the lane bank that it picks is not given. -/
def enterPlain (s : State) (c : CoreId) : State :=
  if s.cores[c].plain then s
  else
    let (b, s) := takeFree s
    s.modCore c (fun k => { k with plain := true, plainBank := BitVec.ofNat 4 b })

/-- COUNT in plain mode: at most the lanes of 128 bits of the widest operand. Groups of that many lanes have one
register, and reach its bits [127:0] only. -/
def plainCount (count : BitVec 12) (w : Nat) : BitVec 12 := BitVec.ofNat 12 (min (countOf count) (128 / w))

/-- The form that acts: in plain mode with the effective COUNT. A form that is legal as written or so acts. -/
def veInForce (s : State) (c : CoreId) (op : Nat) (f : VEForm) : VEForm :=
  if plainMode s c then
    match Fmt.ofCode f.fmt.toNat, f.dstFmt op with
    | some fs, some fd => { f with count := plainCount f.count (max fs.width fd.width) }
    | _, _ => f
  else f

/-- Issue a V-slot instruction in a bundle of a plan's program, or run it in plain mode. -/
def issueV (s : State) (c : CoreId) (op : Nat) (uses : List RegRef) (body : State → VIssue → State) : State :=
  if plainMode s c then
    let s := enterPlain s c
    body s ⟨c, none, s.cores[c].regs⟩
  else issue s c .v op uses (fun s x => some (body s ⟨c, some (x.i, x.p), x.rd⟩))

/-- A V-slot instruction sets flags; in plain mode no plan's watch sees them. -/
def raiseV (s : State) (x : VIssue) (fl : NumFlags) : State :=
  match x.own with
  | some (i, p) => raiseIn s x.c i p fl
  | none => s.modCore x.c (·.flag fl)

/-! ### One lane of an element-wise operation (05 R116) -/

def laneAdd (f : Fmt) (flush sat : Bool) (a b : Nat) : Nat × NumFlags :=
  match f.fp, f.dec with
  | some F, _ => F.add flush a b
  | none, some D => D.add a b
  | none, none => if f = .ledger then ledgerResult (sext 64 a + sext 64 b) else intResult f.width true sat (f.intVal a + f.intVal b)

def laneSub (f : Fmt) (flush sat : Bool) (a b : Nat) : Nat × NumFlags :=
  match f.fp, f.dec with
  | some F, _ => F.sub flush a b
  | none, some D => D.sub a b
  | none, none => if f = .ledger then ledgerResult (sext 64 a - sext 64 b) else intResult f.width true sat (f.intVal a - f.intVal b)

def laneMul (f : Fmt) (flush sat : Bool) (a b : Nat) : Nat × NumFlags :=
  match f.fp, f.dec with
  | some F, _ => F.mul flush a b
  | none, some D => D.mul a b
  | none, none => intResult f.width true sat (f.intVal a * f.intVal b)

def laneFma (f : Fmt) (flush : Bool) (a b c : Nat) : Nat × NumFlags :=
  match f.fp, f.dec with
  | some F, _ => F.fma flush a b c
  | none, some D => D.fma a b c
  | none, none => (0, 0)

def laneMinMax (f : Fmt) (flush wantMax : Bool) (a b : Nat) : Nat × NumFlags :=
  match f.fp with
  | some F => F.minmax flush wantMax a b
  | none => (if wantMax == decide (f.intVal a < f.intVal b) then b else a, 0)

/-- V.CLAMP: V.MAX with Vb, then V.MIN with Vc. -/
def laneClamp (f : Fmt) (flush : Bool) (a b c : Nat) : Nat × NumFlags :=
  let (x, g) := laneMinMax f flush true a b
  let (y, h) := laneMinMax f flush false x c
  (y, g ||| h)

/-- V.ABS and V.NEG of a binary format: a NaN gives the canonical NaN and no flag. -/
def FFmt.signOp (F : FFmt) (flush : Bool) (neg : Bool → Bool) (a : Nat) : Nat × NumFlags :=
  match F.value a with
  | .nan _ => (F.canonNan, 0)
  | _ =>
    let (_, fl) := F.read flush a
    let c := F.codeAsRead flush a
    (F.signBit (neg (c / 2 ^ (F.fb + F.eb) % 2 == 1)) + c % 2 ^ (F.fb + F.eb), fl)

def laneAbs (f : Fmt) (flush sat : Bool) (a : Nat) : Nat × NumFlags :=
  match f.fp with
  | some F => F.signOp flush (fun _ => false) a
  | none => if f = .ledger then ledgerResult (sext 64 a).natAbs else intResult f.width true sat (f.intVal a).natAbs

def laneNeg (f : Fmt) (flush sat : Bool) (a : Nat) : Nat × NumFlags :=
  match f.fp with
  | some F => F.signOp flush (fun n => !n) a
  | none => if f = .ledger then ledgerResult (-(sext 64 a)) else intResult f.width true sat (-(f.intVal a))

/-- V.CMP. -/
def laneCmp (f : Fmt) (flush : Bool) (cond : Nat) (a b : Nat) : Nat × NumFlags :=
  match f.fp, f.dec with
  | some F, _ => let (o, fl) := F.cmp flush a b; ((condBin (BitVec.ofNat 3 cond) o).toNat, fl)
  | none, some D => let (o, fl) := D.cmp a b; ((condBin (BitVec.ofNat 3 cond) o).toNat, fl)
  | none, none =>
    let x := BitVec.ofInt 64 (f.intVal a)
    let y := BitVec.ofInt 64 (f.intVal b)
    ((condInt (BitVec.ofNat 3 cond) x y).toNat, 0)

/-! ### Form VE -/

/-- What a lane function of form VE is given: formats, NUM_CTL, the form, and the operand codes of its lane. -/
structure LaneIn where
  fs : Fmt
  fd : Fmt
  flush : Bool
  i : Nat
  a : Nat
  b : Nat
  c : Nat

/-- Second operand: the low w bits of S[VB] under SB, else the lane of the VB group. -/
def veLaneB (f : VEForm) (r : Regs) (w : Nat) (b : List Nat) (i : Nat) : Nat :=
  if f.sb then (r.getS f.vb.toNat).toNat % 2 ^ w else b.getD i 0

/-- The lanes' results of an instruction of form VE. -/
def veTable (op : Nat) (f : VEForm) (fs fd : Fmt) (flush : Bool) (r : Regs) (lane : LaneIn → Nat × NumFlags) :
    List (Option (Nat × NumFlags)) :=
  let n := countOf f.count
  let g (first w : Nat) : List Nat := groupCodes r ⟨first, w, n⟩
  let a := g f.va.toNat fs.width
  let b := if f.sb then [] else if op = 0x20 then [] else g f.vb.toNat fs.width
  let c := if op = 0x04 ∨ op = 0x09 then g f.vc.toNat fs.width else []
  let m := r.mask f.km
  (a.zipIdx).map (fun e =>
    if m.getLsbD e.2 then some (lane ⟨fs, fd, flush, e.2, e.1, veLaneB f r fs.width b e.2, c.getD e.2 0⟩) else none)

/-- 18 event catalogue: active lanes written, and active decimal lanes. -/
def countLanes (s : State) (c : CoreId) (fs : Fmt) (n : Nat) : State :=
  s.modCore c (fun k => (k.count 0x082 n).count 0x083 (if fs.dec.isSome then n else 0))

/-- An instruction of form VE that writes a group. -/
def veExec (op : Nat) (f : VEForm) (lane : VIssue → LaneIn → Nat × NumFlags) (c : CoreId) (s : State) :
    Host.Outcome State Fault Refusal :=
  let legal := f.legal op
  let f := veInForce s c op f
  whenLegal (legal || f.legal op) (match Fmt.ofCode f.fmt.toNat, f.dstFmt op with
    | some fs, some fd =>
      issueV s c op (veUses op f fs fd) (fun s x =>
        let t := veTable op f fs fd s.cores[c].subFlush x.rd (lane x)
        let s := setRegs s c (·.putTable ⟨f.vd.toNat, fd.width, countOf f.count⟩ t)
        raiseV (countLanes s c (if fd.dec.isSome then fd else fs) (t.countP (·.isSome))) x (tableFlags t))
    | _, _ => s)

/-- A mask with new bits in the active lanes. -/
def putMask (old : KMask) (t : List (Option (Nat × NumFlags))) : KMask :=
  BitVec.ofNat 4096 (updateLanes 1 t.length old.toNat (fun i => (t.getD i none).map (·.1)))

def execVNop (c : CoreId) (s : State) : Host.Outcome State Fault Refusal :=
  .next (issueV s c 0x00 [] (fun s _ => s))
def execVAdd (c : CoreId) (f : VEForm) (s : State) : Host.Outcome State Fault Refusal :=
  veExec 0x01 f (fun _ l => laneAdd l.fs l.flush f.sat l.a l.b) c s
def execVSub (c : CoreId) (f : VEForm) (s : State) : Host.Outcome State Fault Refusal :=
  veExec 0x02 f (fun _ l => laneSub l.fs l.flush f.sat l.a l.b) c s
def execVMul (c : CoreId) (f : VEForm) (s : State) : Host.Outcome State Fault Refusal :=
  veExec 0x03 f (fun _ l => laneMul l.fs l.flush f.sat l.a l.b) c s
def execVFma (c : CoreId) (f : VEForm) (s : State) : Host.Outcome State Fault Refusal :=
  veExec 0x04 f (fun _ l => laneFma l.fs l.flush l.a l.b l.c) c s
def execVMin (c : CoreId) (f : VEForm) (s : State) : Host.Outcome State Fault Refusal :=
  veExec 0x05 f (fun _ l => laneMinMax l.fs l.flush false l.a l.b) c s
def execVMax (c : CoreId) (f : VEForm) (s : State) : Host.Outcome State Fault Refusal :=
  veExec 0x06 f (fun _ l => laneMinMax l.fs l.flush true l.a l.b) c s
def execVAbs (c : CoreId) (f : VEForm) (s : State) : Host.Outcome State Fault Refusal :=
  veExec 0x07 f (fun _ l => laneAbs l.fs l.flush f.sat l.a) c s
def execVNeg (c : CoreId) (f : VEForm) (s : State) : Host.Outcome State Fault Refusal :=
  veExec 0x08 f (fun _ l => laneNeg l.fs l.flush f.sat l.a) c s
def execVClamp (c : CoreId) (f : VEForm) (s : State) : Host.Outcome State Fault Refusal :=
  veExec 0x09 f (fun _ l => laneClamp l.fs l.flush l.a l.b l.c) c s
/-- V.SEL by the mask that VC names; bits are moved. -/
def execVSel (c : CoreId) (f : VEForm) (s : State) : Host.Outcome State Fault Refusal :=
  veExec 0x0A f (fun x l => (if (x.rd.mask (f.vc.setWidth 3)).getLsbD l.i then l.a else l.b, 0)) c s
def execVAnd (c : CoreId) (f : VEForm) (s : State) : Host.Outcome State Fault Refusal :=
  veExec 0x0B f (fun _ l => (l.a &&& l.b, 0)) c s
def execVOr (c : CoreId) (f : VEForm) (s : State) : Host.Outcome State Fault Refusal :=
  veExec 0x0C f (fun _ l => (l.a ||| l.b, 0)) c s
def execVXor (c : CoreId) (f : VEForm) (s : State) : Host.Outcome State Fault Refusal :=
  veExec 0x0D f (fun _ l => (l.a ^^^ l.b, 0)) c s
def execVShl (c : CoreId) (f : VEForm) (s : State) : Host.Outcome State Fault Refusal :=
  veExec 0x0E f (fun _ l => intResult l.fs.width true f.sat (l.fs.intVal l.a * 2 ^ (l.b % 64))) c s
def execVShr (c : CoreId) (f : VEForm) (s : State) : Host.Outcome State Fault Refusal :=
  veExec 0x0F f (fun _ l => (l.a / 2 ^ (l.b % 64), 0)) c s
def execVSra (c : CoreId) (f : VEForm) (s : State) : Host.Outcome State Fault Refusal :=
  veExec 0x10 f (fun _ l => (wrapInt l.fs.width (l.fs.intVal l.a / 2 ^ (l.b % 64)), 0)) c s
def execVMov (c : CoreId) (f : VEForm) (s : State) : Host.Outcome State Fault Refusal :=
  veExec 0x11 f (fun _ l => (l.a, 0)) c s
/-- V.CMP writes the lanes of Kd. -/
def execVCmp (c : CoreId) (f : VEForm) (s : State) : Host.Outcome State Fault Refusal :=
  let legal := f.legal 0x12
  let f := veInForce s c 0x12 f
  whenLegal (legal || f.legal 0x12) (match Fmt.ofCode f.fmt.toNat with
    | some fs =>
      issueV s c 0x12 (veUses 0x12 f fs fs) (fun s x =>
        let t := veTable 0x12 f fs fs s.cores[c].subFlush x.rd (fun l => laneCmp l.fs l.flush f.aux.toNat l.a l.b)
        let s := setRegs s c (fun r => r.setK f.vd.toNat (putMask (r.mask (f.vd.setWidth 3)) t))
        raiseV (countLanes s c fs (t.countP (·.isSome))) x (tableFlags t))
    | none => s)
def execVQuant (c : CoreId) (f : VEForm) (s : State) : Host.Outcome State Fault Refusal :=
  veExec 0x13 f (fun _ l => fmtD64.quantize l.a l.b) c s
def execVDiv (c : CoreId) (f : VEForm) (s : State) : Host.Outcome State Fault Refusal :=
  veExec 0x18 f (fun _ l => fmtB64.div l.flush l.a l.b) c s
def execVSqrt (c : CoreId) (f : VEForm) (s : State) : Host.Outcome State Fault Refusal :=
  veExec 0x19 f (fun _ l => fmtB64.sqrt l.flush l.a) c s

/-- V.FN of one lane. -/
def laneFn (f : Fmt) (flush : Bool) (aux a : Nat) : Nat × NumFlags :=
  match f.fp, FnOp.ofCode aux with
  | some F, some op => F.fn flush op a
  | _, _ => (a, 0)

def execVFn (c : CoreId) (f : VEForm) (s : State) : Host.Outcome State Fault Refusal :=
  veExec 0x1A f (fun _ l => laneFn l.fs l.flush f.aux.toNat l.a) c s

/-- V.CVT of one lane: block scales in 16-bit lanes of the VB group, ledger scales in VC and AUX (05 R119). -/
def laneCvt (f : VEForm) (x : VIssue) (l : LaneIn) : Nat × NumFlags :=
  let j := l.i / 64
  let scale := ((x.rd.v.getD (f.vb.toNat + j / 512) 0).extractLsb' (16 * (j % 512)) 16).toNat
  convert l.fs l.fd ⟨l.flush, f.sat, scale, f.vc.toNat, f.aux.toNat⟩ l.a

def execVCvt (c : CoreId) (f : VEForm) (s : State) : Host.Outcome State Fault Refusal :=
  veExec 0x20 f (fun x l => laneCvt f x l) c s

/-! ### V.WUPD (05 R120; 14 R324, R325, R337) -/

/-- `mix` and `draw` of 14 R324. -/
def drawMix (z : BitVec 64) : BitVec 64 :=
  let z := (z ^^^ (z >>> 31)) * 0x9C4A2F6BD3710E85#64
  let z := (z ^^^ (z >>> 29)) * 0xC2B75E19A84D3F27#64
  z ^^^ (z >>> 32)

def draw (seed step tensor index : Nat) : Nat :=
  let h := drawMix (BitVec.ofNat 64 seed + 0x7F4A1C93E2D8B561#64)
  let h := drawMix (h ^^^ BitVec.ofNat 64 (step % 2 ^ 32 * 2 ^ 32 + tensor % 2 ^ 32))
  let h := drawMix (h ^^^ BitVec.ofNat 64 (index % 2 ^ 32))
  (h >>> 32).toNat

/-- Saturating or infinite result above the largest finite value (14 R325). -/
def FFmt.overResult (F : FFmt) (neg : Bool) : Nat × NumFlags :=
  if F.wide then (F.infCode neg, flagOverflow) else (F.maxCode neg, flagNarrowSat)

/-- `sr_round` of 14 R325. -/
def FFmt.srRound (F : FFmt) (flush : Bool) (r : Nat) (x : FVal) : Nat × NumFlags :=
  match x with
  | .nan _ => (F.canonNan, 0)
  | .inf n => if F.wide then (F.infCode n, 0) else (F.maxCode n, flagNarrowSat)
  | .fin n m e =>
    if m = 0 then (F.signBit n, 0)
    else
      let (a, b) := dyadicRat m e
      let lg := ratLog2 a b
      if flush && F.wide && decide (lg < F.emin) then (F.signBit n, flagFlush)
      else
        let top : Int := (F.emax : Int) - F.fb
        let u : Int := min (max lg F.emin - F.fb) top
        let (A, B) := scaleRat a b u
        let q := if u = top then min (A / B) F.maxSig else A / B
        if A = q * B then (match F.roundMag false a b with | .code c _ => (F.signBit n + c, 0) | .over => F.overResult n)
        else
          let y := if r * B < (A - q * B) * 2 ^ 32 then q + 1 else q
          let (p, d) := dyadicRat y u
          match F.roundMag false p d with
          | .over => F.overResult n
          | .code c _ => (F.signBit n + c, if F.wide && decide (lg < F.emin) then flagUnderflow else 0)

/-- The exact sum of a lane's Va and Vb, and the flags of forming it. -/
def wupdSum (l : LaneIn) : FVal × NumFlags :=
  match l.fs.fp with
  | some F =>
    let (x, f₁) := F.read l.flush l.a
    let (y, f₂) := F.read l.flush l.b
    let (z, f₃) := x.add y
    (z, f₁ ||| f₂ ||| f₃)
  | none => (.nan false, 0)

/-- One lane of V.WUPD; `key` holds the plan's seed and the step number. -/
def laneWupd (f : VEForm) (key : Nat × Nat) (x : VIssue) (l : LaneIn) : Nat × NumFlags :=
  let (z, g) := wupdSum l
  match l.fd.fp with
  | none => (0, g)
  | some F =>
    let k := (x.rd.getS f.vc.toNat).toNat
    let (c, h) :=
      if f.aux.toNat = 1 then F.srRound l.flush (draw key.1 key.2 (k / 2 ^ 32) (k + l.i)) z
      else floatToOther z l.fd ⟨l.flush, false, 0, 0, 0⟩
    (c, g ||| h)

/-- The square of a value in units of 2^-2148, none where it is not finite. -/
def squareOf (v : FVal) : Option Nat :=
  match v with
  | .fin _ m e => some (m * m * 2 ^ (2 * e + 2148).toNat)
  | _ => none

/-- A lane enters a tensor's sums (14 R337). -/
def RatioSlot.lane (k : RatioSlot) (w d : FVal) : RatioSlot :=
  match squareOf w, squareOf d with
  | some a, some b => { k with sw := k.sw + a, sd := k.sd + b }
  | _, _ => { k with notFinite := true }

/-- The monitor of a core takes the active lanes of a V.WUPD: up to 16 tensors in a step. -/
def Core.monitor (k : Core) (tensor : BitVec 32) (lanes : List (FVal × FVal)) : Core :=
  if lanes.isEmpty then k
  else
    let add (e : RatioSlot) : RatioSlot := lanes.foldl (fun e l => e.lane l.1 l.2) e
    if k.ratio.any (fun e => e.tensor == tensor) then
      { k with ratio := k.ratio.map (fun e => if e.tensor = tensor then add e else e) }
    else if k.ratio.length < 16 then { k with ratio := k.ratio ++ [add ⟨tensor, 0, 0, false⟩] }
    else { k with ratioLost := true }

/-- The values that the monitor sums in a V.WUPD. -/
def monitorLanes (f : VEForm) (fs : Fmt) (flush : Bool) (r : Regs) : List (FVal × FVal) :=
  match fs.fp with
  | none => []
  | some F =>
    let n := countOf f.count
    let a := groupCodes r ⟨f.va.toNat, fs.width, n⟩
    let b := if f.sb then [] else groupCodes r ⟨f.vb.toNat, fs.width, n⟩
    ((a.zipIdx).filter (fun e => (r.mask f.km).getLsbD e.2)).map (fun e =>
      ((F.read flush e.1).1, (F.read flush (veLaneB f r fs.width b e.2)).1))

/-- Seed and step number of the draws; plain mode has no plan, and what it draws with is not given. -/
def drawKey (s : State) (x : VIssue) : (Nat × Nat) × State :=
  match x.own with
  | some (_, p) => ((p.img.hdr.seed, p.step), s)
  | none =>
    let (a, s) := takeFree s
    let (b, s) := takeFree s
    ((a, b), s)

/-- V.WUPD. -/
def weightUpdate (f : VEForm) (c : CoreId) (s : State) : State :=
  match Fmt.ofCode f.fmt.toNat, f.dstFmt 0x21 with
  | some fs, some fd =>
    issueV s c 0x21 (veUses 0x21 f fs fd) (fun s x =>
      let flush := s.cores[c].subFlush
      let (key, s) := drawKey s x
      let t := veTable 0x21 f fs fd flush x.rd (laneWupd f key x)
      let s := setRegs s c (·.putTable ⟨f.vd.toNat, fd.width, countOf f.count⟩ t)
      let tensor : BitVec 32 := (x.rd.getS f.vc.toNat).extractLsb' 32 32
      let monitored := (match x.own with | some (_, p) => p.img.ratios.any (fun e => e.tensor == tensor) | none => false)
      let s := if monitored then s.modCore c (·.monitor tensor (monitorLanes f fs flush x.rd)) else s
      raiseV (countLanes s c fs (t.countP (·.isSome))) x (tableFlags t))
  | _, _ => s

def execVWupd (c : CoreId) (f : VEForm) (s : State) : Host.Outcome State Fault Refusal :=
  let legal := f.legal 0x21
  let f := veInForce s c 0x21 f
  whenLegal (legal || f.legal 0x21) (weightUpdate f c s)

/-! ### Reduction accumulators (05 R127) -/

/-- Add one value, as read. -/
def RealAcc.add (a : RealAcc) (v : FVal) : RealAcc :=
  match v with
  | .nan sg => { a with used := true, nonNegZero := true, nan := true, snan := a.snan || sg }
  | .inf n => { a with used := true, nonNegZero := true, pinf := a.pinf || !n, ninf := a.ninf || n }
  | .fin n m e =>
    { a with used := true, nonNegZero := a.nonNegZero || !(n && m == 0), sum := a.sum + sgn n (m * 2 ^ (e + 1074).toNat) }

/-- 05 R128: the result under the *Group rounding table*. -/
def RealAcc.result (a : RealAcc) (F : FFmt) (flush : Bool) : Nat × NumFlags :=
  if a.nan then (F.canonNan, if a.snan then flagInvalid else 0)
  else if a.pinf && a.ninf then (F.canonNan, flagInvalid)
  else if a.pinf || a.ninf then (F.infCode a.ninf, 0)
  else if a.sum = 0 then (F.signBit (a.used && !a.nonNegZero), 0)
  else F.roundRatio flush (a.sum < 0) a.sum.natAbs (2 ^ 1074)

/-- Add codes of a binary format to RA0 or RA1; the flag is FLUSH alone. -/
def Core.addReal (k : Core) (ra : Nat) (F : FFmt) (codes : List Nat) : Core × NumFlags :=
  let i : Fin 2 := ⟨ra % 2, Nat.mod_lt _ (by decide)⟩
  let vs := codes.map (F.read k.subFlush)
  ({ k with ra01 := k.ra01.set i (vs.foldl (fun a v => a.add v.1) k.ra01[i]) }, orFlags (vs.map (·.2)) &&& flagFlush)

/-- Add integers to RA2 or RA3. -/
def Core.addInt (k : Core) (ra : Nat) (vs : List Int) : Core :=
  let i : Fin 2 := ⟨ra % 2, Nat.mod_lt _ (by decide)⟩
  { k with ra23 := k.ra23.set i (k.ra23[i] + BitVec.ofInt 128 vs.sum) }

/-! ### V.CHAIN (05 R121-R124) -/

/-- An operand of a stage. -/
def chainOperand (e : ChainEntry) (r : Regs) (ins outs : List Nat) (sel : Nat) : Nat :=
  if sel < 4 then ins.getD sel 0
  else if sel < 0x20 then outs.getD (sel - 8) 0
  else (r.getS (sel - 0x20)).toNat % 2 ^ e.prec.width

/-- The *Chain stage operation table*. -/
def chainStage (e : ChainEntry) (flush : Bool) (sop a b c : Nat) : Nat × NumFlags :=
  let F := e.fp
  match sop with
  | 0x01 => F.add flush a b
  | 0x02 => F.sub flush a b
  | 0x03 => F.mul flush a b
  | 0x04 => F.fma flush a b c
  | 0x05 => F.mul flush a a
  | 0x06 => F.minmax flush false a b
  | 0x07 => F.minmax flush true a b
  | 0x08 => F.signOp flush (fun _ => false) a
  | 0x09 => F.signOp flush (fun n => !n) a
  | 0x0A => laneClamp e.prec flush a b c
  | 0x0B =>
    let (o, g) := F.cmp flush c 0
    (if o = some .gt then a else b, g)
  | 0x11 => F.div flush a b
  | 0x12 => F.sqrt flush a
  | n => laneFn e.prec flush (n - 0x0C) a

/-- Stages in order: their results and flags. -/
def chainStages (e : ChainEntry) (flush : Bool) (r : Regs) (ins : List Nat) : List Nat × NumFlags :=
  e.stages.foldl (fun acc st =>
    let op := chainOperand e r ins acc.1
    let (v, g) := chainStage e flush st.1 (op st.2.1) (op st.2.2.1) (op st.2.2.2)
    (acc.1 ++ [v], acc.2 ||| g)) ([], 0)

/-- Convert between a chain's precision and another format; equal formats keep the bits. -/
def chainCvt (src dst : Fmt) (A : CvtArgs) (c : Nat) : Nat × NumFlags := if src = dst then (c, 0) else convert src dst A c

/-- One lane of a chain: the result at the working precision, the output code, and the flags. -/
def chainLane (e : ChainEntry) (flush : Bool) (r : Regs) (fo : Fmt) (ins : List (Fmt × Nat)) : Nat × Nat × NumFlags :=
  let A : CvtArgs := ⟨flush, e.sat, 0, 0, e.outScale⟩
  let wide := ins.map (fun i => chainCvt i.1 e.prec A i.2)
  let (outs, g) := chainStages e flush r (wide.map (·.1))
  let v := outs.getLastD 0
  let (o, h) := chainCvt e.prec fo A v
  (v, o, orFlags (wide.map (·.2)) ||| g ||| h)

/-- V.CHAIN under an entry. -/
def runChain (f : VCForm) (e : ChainEntry) (fo : Fmt) (c : CoreId) (s : State) : State :=
  issueV s c 0x30 (chainUses f e fo) (fun s x =>
    let flush := s.cores[c].subFlush
    let n := countOf f.count
    let m := x.rd.mask f.km
    let ins := (chainGroups f e).map (fun g => match g with | some (t, g) => (t, groupCodes x.rd g) | none => (e.prec, []))
    let lanes := (List.range n).map (fun i =>
      if m.getLsbD i then some (chainLane e flush x.rd fo (ins.map (fun p => (p.1, p.2.getD i 0)))) else none)
    let fl := orFlags (lanes.filterMap (fun l => l.map (·.2.2)))
    let s := if f.nowr then s else
      countLanes (setRegs s c (·.putTable ⟨f.vd.toNat, fo.width, n⟩ (lanes.map (fun l => l.map (·.2))))) c fo
        (lanes.countP (·.isSome))
    let (k, g) := if f.red then s.cores[c].addReal f.racc.toNat e.fp (lanes.filterMap (fun l => l.map (·.1)))
      else (s.cores[c], 0)
    raiseV (s.modCore c (fun _ => k)) x (fl ||| g))

/-- The form of V.CHAIN that acts: in plain mode with the effective COUNT. -/
def vcInForce (s : State) (c : CoreId) (f : VCForm) (e : ChainEntry) (fo : Fmt) : VCForm :=
  let w := ((chainGroups f e).filterMap (fun g => g.map (·.1.width))).foldl max (if f.nowr then 0 else fo.width)
  if plainMode s c && w != 0 then { f with count := plainCount f.count w } else f

def execVChain (c : CoreId) (f : VCForm) (s : State) : Host.Outcome State Fault Refusal :=
  whenLegal f.legal (match s.cores[c].chains[f.chain.toNat]? with
    | some w =>
      let e := chainEntry w
      (match Fmt.ofCode e.fmtO with | some fo => runChain (vcInForce s c f e fo) e fo c s | none => s)
    | none => s)

end Sys2Proof.Machine
end

