-- ==== Sys2Proof/Machine/MSlot.lean ====
section
/-! DEFINITION. The M-slot instructions (03 R66, R70-R76; 11 R256-R262), the completion of moves and copies (03 R75,
R84), and the address side (03 R79-R82). -/

namespace Sys2Proof.Machine
open Sys2Proof

/-! ### Addresses and elements -/

def addrPlus (a : AWord) (n : Nat) : Nat := (a + BitVec.ofNat 48 n).toNat

/-- Data of a store element at a bit of its group. -/
def groupBits (r : Regs) (reg off n : Nat) : Nat :=
  ((r.v.getD (reg + off / 8192) 0).extractLsb' (off % 8192) (8 * n)).toNat

/-- Elements of M.LDV and M.STV (`stride` = the width) or M.LDVS and M.STVS. -/
def vectorElems (f : MVForm) (r : Regs) (base : AWord) (stride : AWord) : List Elem :=
  let w := ewBytes f.ew
  (activeLanes (r.mask f.km) (countOf f.count)).map (fun i =>
    ⟨i, (base + BitVec.ofNat 48 i * stride).toNat, w, groupBits r f.reg.toNat (8 * w * i) w, 8 * w * i⟩)

/-- Elements of M.LDF and M.STF: field j of record i in lane i of the group at VD + j G (03 R72). -/
def structElems (f : MVForm) (r : Regs) (base : AWord) : List Elem :=
  let w := ewBytes f.ew
  let nf := nfFields f.nf
  (activeLanes (r.mask f.km) (countOf f.count)).flatMap (fun i => (List.range nf).map (fun j =>
    let bit := j * grpSize f.grp * 8192 + 8 * w * i
    ⟨i, addrPlus base ((i * nf + j) * w), w, groupBits r f.reg.toNat bit w, bit⟩))

/-- The elements of an instruction of form MV, from operand registers. -/
def mvElems (op : Nat) (f : MVForm) (r : Regs) : List Elem :=
  let base := mvBase f r
  let w := ewBytes f.ew
  if op = 0x01 ∨ op = 0x03 then vectorElems f r base (BitVec.ofNat 48 w)
  else if op = 0x02 ∨ op = 0x04 then vectorElems f r base (r.getA f.ast.toNat)
  else if op = 0x05 ∨ op = 0x06 then structElems f r base
  else if op = 0x10 ∨ op = 0x11 then
    (List.range 256).map (fun k => ⟨0, addrPlus base (64 * k), 64,
      ((r.t.getD (f.reg.toNat % 8) 0).extractLsb' (512 * k) 512).toNat, 512 * k⟩)
  else [⟨0, base.toNat, w, (r.getS f.reg.toNat).toNat % 2 ^ (8 * w), 0⟩]

/-- Index of lane i, signed. -/
def mgIndex (f : MGForm) (r : Regs) (i : Nat) : Int :=
  let w := if f.iw then 64 else 32
  sext w (groupBits r f.vi.toNat (w * i) (w / 8))

/-- The elements of a gather or scatter. -/
def mgElems (f : MGForm) (r : Regs) : List Elem :=
  let w := ewBytes f.ew
  (activeLanes (r.mask f.km) (countOf f.count)).map (fun i =>
    ⟨i, (r.getA f.ab.toNat + BitVec.ofInt 48 (mgIndex f r i * 2 ^ f.shift.toNat)).toNat, w,
     groupBits r f.vd.toNat (8 * w * i) w, 8 * w * i⟩)

/-! ### Issue of a move (03 R75) -/

/-- Requests of a move: lines, or element groups of a gather or scatter, of sixteen elements each: the specification
gives a rate of sixteen elements per beat and no group size (DESIGN CHOICE, notes/assumptions/45.md). -/
def moveRequests (op : Nat) (elems : List Elem) : Nat :=
  if op ∈ [0x08, 0x09, 0x0A, 0x0B] then (elems.length + 15) / 16 else ((elems.map (fun e => e.addr / 64)).dedup).length

/-- Every element up to the first fault lies in the core's own SRAM: the move needs no other unit. -/
def ownNow (s : State) (p : Plan) (c : CoreId) (op : Nat) : List Elem → Bool
  | [] => true
  | e :: t =>
    if e.addr % e.n ≠ 0 then true
    else
      match translate s p (storeOp op) (canonAddr s.cores[c].planCore e.addr) e.n with
      | .error _ => true
      | .ok (.sram d _) => d == c && ownNow s p c op t
      | .ok _ => false

/-- Issue a move: one that needs no other unit and follows nothing that overlaps it takes effect at once; another is
outstanding until MOVE_COMPLETE. It waits while 256 requests are outstanding. -/
def issueMove (op reg : Nat) (elems : List Elem) (c : CoreId) (s : State) (x : Issue) : Option State :=
  let k := s.cores[c]
  if 256 ≤ k.requests && !elems.isEmpty then none
  else
    let m : Move := ⟨k.nextId, op, reg, k.bundle, elems, moveRequests op elems⟩
    let s := s.modCore c (fun k => { k with nextId := k.nextId + 1 })
    if ownNow s x.p c op elems && k.moveReady m then some (finishMove s c x.i m)
    else some (s.modCore c (fun k => { k with moves := k.moves ++ [m] }))

/-- A load that the address side has issued: its data moves into the register, or its held fault is raised (03 R80,
R82). -/
def takeAhead (op : Nat) (a : Ahead) (elems : List Elem) (reg : Nat) (c : CoreId) (s : State) (x : Issue) : State :=
  let bundle := s.cores[c].bundle
  let id := s.cores[c].nextId
  let s := s.modCore c (fun k => { k with ahead := { k.ahead with buffer := k.ahead.buffer.filter (· != a) } })
  let s := deliver s c id op reg (elems.zip a.data) a.fault.isSome
  match a.fault with
  | none => s
  | some (lane, addr, st) =>
    let pl := match translate s x.p false (canonAddr s.cores[c].planCore addr) with
      | .ok pl => some pl
      | .error _ => none
    coreFault s c st bundle op reg 3 lane 1 (faultAddr op elems addr) pl

/-- An instruction of form MV that moves elements. -/
def mvExec (op : Nat) (f : MVForm) (c : CoreId) (s : State) : Host.Outcome State Fault Refusal :=
  whenLegal (f.legal op) (issue s c .m op (mvUses op f) (fun s x =>
    let elems := mvElems op f x.rd
    let k := s.cores[c]
    match k.ahead.buffer.find? (fun a => a.pos == k.closed && a.op == op && a.form == f) with
    | some a => some (takeAhead op a elems f.reg.toNat c s x)
    | none => issueMove op f.reg.toNat elems c s x))

def mgExec (op : Nat) (f : MGForm) (c : CoreId) (s : State) : Host.Outcome State Fault Refusal :=
  whenLegal (f.legal op) (issue s c .m op (mgUses f) (fun s x => issueMove op f.vd.toNat (mgElems f x.rd) c s x))

/-! ### The core control window (03 R66) -/

/-- CORE_ID. -/
def coreIdWord (p : Plan) (planCore : Nat) : Nat :=
  p.member * 2 ^ 34 + p.members * 2 ^ 20 + planCore * 2 ^ 10 + p.img.hdr.planCores

/-- The registers of the window: offset, bytes, value. -/
def controlRegs (k : Core) (p : Plan) : List (Nat × Nat × Nat) :=
  [(0x00, 8, coreIdWord p k.planCore), (0x08, 4, k.subFlush.toNat), (0x10, 4, k.openFlags.toNat),
   (0x18, 4, k.route.toNat + k.plain.toNat * 8 + k.plainBank.toNat * 16), (0xA0, 8, p.widen.toNat)]
    ++ (List.finRange 16).map (fun d : Fin 16 => (0x20 + 8 * d.val, 8, k.dc[d].toNat))

/-- Byte at an offset of the window; zero where nothing is listed. -/
def controlByte (k : Core) (p : Plan) (off : Nat) : Byte :=
  match (controlRegs k p).find? (fun r => r.1 ≤ off && off < r.1 + r.2.1) with
  | some r => BitVec.ofNat 8 (r.2.2 / 2 ^ (8 * (off - r.1)))
  | none => 0

/-- M.LDX of the window. -/
def loadControl (f : MVForm) (c : CoreId) (s : State) (x : Issue) : Option State :=
  let a := (mvBase f x.rd).toNat
  let n := ewBytes f.ew
  let k := s.cores[c]
  if a % n ≠ 0 then some (coreFault s c codeMisaligned k.bundle 0x0C f.reg.toNat 3 0 1 a none)
  else if controlWaits (a - baseControl) n && !(k.moves.isEmpty && k.copies.isEmpty && k.issued.isEmpty && k.far.isEmpty)
  then none
  else
    let v := leNat ((List.range n).map (fun j => controlByte k x.p (a - baseControl + j)))
    some (setRegs s c (·.setS f.reg.toNat (BitVec.ofNat 64 v)))

/-! ### Meanings: local moves -/

def execMNop (c : CoreId) (s : State) : Host.Outcome State Fault Refusal :=
  .next (issue s c .m 0x00 [] (fun s _ => some s))
def execMLdv (c : CoreId) (f : MVForm) (s : State) : Host.Outcome State Fault Refusal := mvExec 0x01 f c s
def execMLdvs (c : CoreId) (f : MVForm) (s : State) : Host.Outcome State Fault Refusal := mvExec 0x02 f c s
def execMStv (c : CoreId) (f : MVForm) (s : State) : Host.Outcome State Fault Refusal := mvExec 0x03 f c s
def execMStvs (c : CoreId) (f : MVForm) (s : State) : Host.Outcome State Fault Refusal := mvExec 0x04 f c s
def execMLdf (c : CoreId) (f : MVForm) (s : State) : Host.Outcome State Fault Refusal := mvExec 0x05 f c s
def execMStf (c : CoreId) (f : MVForm) (s : State) : Host.Outcome State Fault Refusal := mvExec 0x06 f c s
def execMGath (c : CoreId) (f : MGForm) (s : State) : Host.Outcome State Fault Refusal := mgExec 0x08 f c s
def execMScat (c : CoreId) (f : MGForm) (s : State) : Host.Outcome State Fault Refusal := mgExec 0x09 f c s
def execMScadd (c : CoreId) (f : MGForm) (s : State) : Host.Outcome State Fault Refusal := mgExec 0x0A f c s
def execMScaddu (c : CoreId) (f : MGForm) (s : State) : Host.Outcome State Fault Refusal := mgExec 0x0B f c s
/-- M.LDX, from memory or from the core control window. -/
def execMLdx (c : CoreId) (f : MVForm) (s : State) : Host.Outcome State Fault Refusal :=
  whenLegal (f.legal 0x0C) (issue s c .m 0x0C (mvUses 0x0C f) (fun s x =>
    let k := s.cores[c]
    if inControl (mvBase f x.rd).toNat 1 then loadControl f c s x
    else
      match k.ahead.buffer.find? (fun a => a.pos == k.closed && a.op == 0x0C && a.form == f) with
      | some a => some (takeAhead 0x0C a (mvElems 0x0C f x.rd) f.reg.toNat c s x)
      | none => issueMove 0x0C f.reg.toNat (mvElems 0x0C f x.rd) c s x))
def execMStx (c : CoreId) (f : MVForm) (s : State) : Host.Outcome State Fault Refusal := mvExec 0x0D f c s
/-- M.FLAGL: applied after every earlier store of the core (`Core.moveReady`). -/
def execMFlagl (c : CoreId) (f : MVForm) (s : State) : Host.Outcome State Fault Refusal := mvExec 0x0E f c s
def execMTld (c : CoreId) (f : MVForm) (s : State) : Host.Outcome State Fault Refusal := mvExec 0x10 f c s
def execMTst (c : CoreId) (f : MVForm) (s : State) : Host.Outcome State Fault Refusal := mvExec 0x11 f c s

/-- M.COPY is outstanding until COPY_COMPLETE. -/
def execMCopy (c : CoreId) (f : MVForm) (s : State) : Host.Outcome State Fault Refusal :=
  whenLegal (f.legal 0x14) (issue s c .m 0x14 [] (fun s x =>
    let k := s.cores[c]
    if 256 ≤ k.requests then none
    else
      let d : CopyOp := ⟨k.nextId, (mvBase f x.rd).toNat, (x.rd.getA f.reg.toNat).toNat, f.count.toNat + 1,
        f.ast.toFin, k.bundle, f.reg.toNat⟩
      some (s.modCore c (fun k => { k with nextId := k.nextId + 1, copies := k.copies ++ [d] }))))

/-- M.LFENCE. -/
def execMLfence (c : CoreId) (s : State) : Host.Outcome State Fault Refusal :=
  .next (issue s c .m 0x1F [] (fun s _ => if s.cores[c].storesDone s.cores[c].nextId then some s else none))

/-! ### Meanings: far operations (11 R256-R262) -/

/-- Bytes that a far operation reaches. -/
def farLen (op : Nat) (f : MFForm) : Nat :=
  if op = 0x1A then (if f.typ = 2 then 16 else 8) else if op = 0x1B then 8 else f.len.toNat + 1

/-- Data that a far operation sends. -/
def farData (op : Nat) (f : MFForm) (r : Regs) : Bytes :=
  let s8 (n : Nat) : Bytes := leBytes 8 (r.getS n).toNat
  if op = 0x19 then leBytes (f.len.toNat + 1) (r.v.getD f.reg.toNat 0).toNat
  else if op = 0x1A then (if f.aop = 4 then s8 f.sb.toNat ++ s8 (f.sb.toNat + 1) else s8 f.sb.toNat)
  else if op = 0x1B then s8 f.reg.toNat
  else []

/-- A far instruction: an address whose bits [47:42] are not zero faults (03 R59); else the operation takes the next sequence number and leaves when R259, R260 and R262 let it. -/
def farExec (op : Nat) (f : MFForm) (c : CoreId) (s : State) : Host.Outcome State Fault Refusal :=
  whenLegal (f.legal op) (issue s c .m op (farUses op f) (fun s x =>
    let k := s.cores[c]
    let h := k.fh[f.fh.toFin]
    let a := (x.rd.getA f.ab.toNat + f.offs.signExtend 48).toNat
    if 2 ^ 42 ≤ a then some (coreFault s c codeTranslation k.bundle op f.reg.toNat 3 0 5 a none)
    else if 256 ≤ k.requests then none
    else
      let o : FarOp := ⟨k.nextId, k.nextSeq, op, f.aop.toNat, f.typ.toNat, f.reg.toNat, f.discard, h.place, h.job, h.key,
        a, farLen op f, farData op f x.rd, x.p.step, x.p.attempt, k.bundle, none, 0⟩
      let s := s.modCore c (fun k => { k with nextId := k.nextId + 1, nextSeq := k.nextSeq + 1, far := k.far ++ [o] }.count 0x0C2 1)
      some (releaseFar s c)))

def execMFld (c : CoreId) (f : MFForm) (s : State) : Host.Outcome State Fault Refusal := farExec 0x18 f c s
def execMFst (c : CoreId) (f : MFForm) (s : State) : Host.Outcome State Fault Refusal := farExec 0x19 f c s
def execMFatom (c : CoreId) (f : MFForm) (s : State) : Host.Outcome State Fault Refusal := farExec 0x1A f c s
def execMFflag (c : CoreId) (f : MFForm) (s : State) : Host.Outcome State Fault Refusal := farExec 0x1B f c s
/-- M.FENCE (11 R261). -/
def execMFence (c : CoreId) (s : State) : Host.Outcome State Fault Refusal :=
  .next (issue s c .m 0x1C [] (fun s _ => if s.cores[c].far.isEmpty then some s else none))

/-! ### MOVE_COMPLETE and COPY_COMPLETE -/

/-- The plan of a core, while its job is not past the fence of a teardown that has discarded its work. -/
def planOf (s : State) (c : CoreId) : Option (Fin 16 × Plan) :=
  match s.cores[c].plan with
  | none => none
  | some i => (match s.plans[i] with | some p => some (i, p) | none => none)

/-- An outstanding move takes effect, once nothing before it overlaps it. `corrected` and `lost` are the plan addresses
at which its reads meet errors that no read had met before. -/
def moveComplete (s : State) (c : CoreId) (id : Nat) (corrected lost : List Nat) : State :=
  match planOf s c, s.cores[c].moves.find? (fun m => m.id == id) with
  | some (i, p), some m =>
    if !s.cores[c].moveReady m then s
    else
      let r := m.ranges s.cores[c].planCore
      let s := noteErrors s p (within r corrected) (within r lost)
      let s := s.modCore c (fun k => { k with moves := k.moves.filter (fun m => m.id != id) })
      finishMove s c i m
  | _, _ => s

def execMoveComplete (c : CoreId) (id : Nat) (corrected lost : List Nat) (s : State) : Host.Outcome State Fault Refusal :=
  .next (if serving s then moveComplete s c id corrected lost else s)

/-- The bytes that a copy writes: a destination byte whose source byte lies in the destination range holds its earlier
value or some byte of the source, as `r` picks (03 R73). -/
def copyBytes (src dst r : Nat) (srcBytes dstBytes : Bytes) : Bytes :=
  let n := srcBytes.length
  (srcBytes.zip dstBytes).zipIdx.map (fun e =>
    let a := src + e.2
    if dst ≤ a ∧ a < dst + n then
      let pick := r / (n + 1) ^ e.2 % (n + 1)
      if pick = 0 then e.1.2 else srcBytes.getD (pick - 1) 0
    else e.1.1)

/-- Where a copy faults first: (KIND, status, address as issued, place), its source side before its destination side. -/
def copyFault (s : State) (i : Fin 16) (pc : Nat) (d : CopyOp) : Option (Nat × Nat × Nat × Option Place) :=
  if d.src % 64 ≠ 0 then some (1, codeMisaligned, d.src, none)
  else if d.dst % 64 ≠ 0 then some (2, codeMisaligned, d.dst, none)
  else
    match planRead s i (canonAddr pc d.src) (64 * d.blocks) with
    | .fail st _ pl => some (1, st, d.src, pl)
    | .ok bs =>
      match planWrite s i (canonAddr pc d.dst) bs with
      | .fail st _ pl => some (2, st, d.dst, pl)
      | .ok _ => none

/-- Copy the blocks that a number picks, where they translate: what a faulting copy leaves is not defined. -/
def copySome (i : Fin 16) (pc : Nat) (d : CopyOp) (r : Nat) (s : State) : State :=
  ((List.range d.blocks).filter (fun k => r / 2 ^ k % 2 = 1)).foldl (fun s k =>
    match planRead s i (canonAddr pc (d.src + 64 * k)) 64 with
    | .ok bs => (match planWrite s i (canonAddr pc (d.dst + 64 * k)) bs with | .ok s' => s' | .fail _ _ _ => s)
    | .fail _ _ _ => s) s

/-- Copy every block. -/
def copyAll (i : Fin 16) (pc : Nat) (d : CopyOp) (s : State) : State :=
  let src := canonAddr pc d.src
  let dst := canonAddr pc d.dst
  let n := 64 * d.blocks
  match planRead s i src n with
  | .fail _ _ _ => s
  | .ok bs =>
    let (out, s) : Bytes × State :=
      if rangesMeet [(src, n)] [(dst, n)] then
        let (r, s) := takeFree s
        (copyBytes src dst r bs (match planRead s i dst n with | .ok o => o | .fail _ _ _ => bs), s)
      else (bs, s)
    match planWrite s i dst out with
    | .ok s' => s'
    | .fail _ _ _ => s

/-- 03 R84: a completion adds 1 to its DC register. -/
def Core.complete (k : Core) (d : Fin 16) : Core := { k with dc := k.dc.set d (k.dc[d] + 1) }

/-- An outstanding M.COPY ends. -/
def copyComplete (s : State) (c : CoreId) (id : Nat) (corrected lost : List Nat) : State :=
  match planOf s c, s.cores[c].copies.find? (fun m => m.id == id) with
  | some (i, p), some d =>
    let pc := s.cores[c].planCore
    if !s.cores[c].clear id (d.srcRange pc) (d.dstRange pc) then s
    else
      let s := noteErrors s p (within (d.srcRange pc) corrected) (within (d.srcRange pc) lost)
      let s := s.modCore c (fun k => { k.complete d.dc with copies := k.copies.filter (fun m => m.id != id) })
      match copyFault s i pc d with
      | none =>
        let at_ (r : List (Nat × Nat)) : List Nat := r.flatMap (fun x => (List.range d.blocks).map (fun b => x.1 + 64 * b))
        releaseFar ((copyAll i pc d s).modCore c (·.countLines (at_ (d.srcRange pc)) (at_ (d.dstRange pc)))) c
      | some (kind, st, a, pl) =>
        let (r, s) := takeFree s
        coreFault (releaseFar (copySome i pc d r s) c) c st d.bundle 0x14 d.reg 3 0 kind a pl
  | _, _ => s

def execCopyComplete (c : CoreId) (id : Nat) (corrected lost : List Nat) (s : State) : Host.Outcome State Fault Refusal :=
  .next (if serving s then copyComplete s c id corrected lost else s)

/-! ### The address side (03 R79-R82) -/

/-- The walk of the address side: its copies, and the store ranges of bundles that the execute side has not issued
(none: a store that may overlap anything). -/
structure Walk where
  pos : Nat
  bundle : Nat
  loops : List Loop
  regs : Regs
  fromS : List Nat
  stores : List (Nat × Nat)
  anyStore : Bool
  harv : Bool
  /-- the M slot of this bundle has issued already -/
  skip : Bool

/-- The C slot of a bundle on the address side; none at a sync point (03 R81). -/
def walkC (w : Walk) (i : Instr) : Option Walk :=
  let setA (d : BitVec 5) (v : AWord) : Walk :=
    { w with regs := w.regs.setA d.toNat v, fromS := w.fromS.filter (· != d.toNat) }
  let go (w : Walk) : Walk :=
    let (b, ls, r) := nextBundle (w.bundle + 1) w.loops w.regs
    { w with bundle := b, loops := ls, regs := r }
  let next (w : Walk) : Walk := { go w with pos := w.pos + 1, skip := false }
  match i with
  | .cAadd _ f => some (next (setA f.d (f.aa w.regs + f.ab w.regs)))
  | .cAaddi _ f => some (next (setA f.d (f.aa w.regs + f.imm.signExtend 48)))
  | .cAli _ f => some (next (setA f.d (f.imm.setWidth 48)))
  | .cAlih _ f => some (next (setA f.d (f.imm.extractLsb' 0 16 ++ (w.regs.getA f.d.toNat).extractLsb' 0 32)))
  | .cAaddl _ f => some (next (setA f.d (f.aa w.regs + (w.regs.getL f.b.toNat).setWidth 48 * f.imm.signExtend 48)))
  | .cBr _ f => some { w with bundle := ((w.bundle : Int) + f.immInt).toNat, pos := w.pos + 1, skip := false }
  | .cLoop _ f =>
    if f.useS then none
    else
      match loopFlow f w.regs with
      | .loop ctr len count =>
        let r := w.regs.setL ctr 0
        if count = 0 then
          let (b, ls, r) := nextBundle (w.bundle + 1 + len) w.loops r
          some { w with bundle := b, loops := ls, regs := r, pos := w.pos + 1, skip := false }
        else some { w with bundle := w.bundle + 1, loops := ⟨ctr, w.bundle + 1, len, count⟩ :: w.loops, regs := r,
                           pos := w.pos + 1, skip := false }
      | _ => none
  | .cAmovs _ _ | .cBrc _ _ | .cWaitf _ _ | .cWaitdc _ _ | .cHalt _ _ => none
  | .cHarv _ _ => some { next w with harv := true }
  | _ => some (next w)

/-- The M slot as a store of the walk. -/
def walkStore (w : Walk) (pc : Nat) (i : Instr) : Walk :=
  let mv (op : Nat) (f : MVForm) : Walk :=
    { w with stores := w.stores ++ (mvElems op f { w.regs with k := .replicate 8 (BitVec.allOnes 4096) }).map (fun e => (canonAddr pc e.addr, e.n)) }
  match i with
  | .mStv _ f => mv 0x03 f
  | .mStvs _ f => mv 0x04 f
  | .mStf _ f => mv 0x06 f
  | .mStx _ f => mv 0x0D f
  | .mFlagl _ f => mv 0x0E f
  | .mTst _ f => mv 0x11 f
  | .mScat _ _ | .mScadd _ _ | .mScaddu _ _ | .mCopy _ _ => { w with anyStore := true }
  | _ => w

/-- The load of an M slot that may run ahead: opcode and form (03 R80, first and third conditions). -/
def walkLoad (i : Instr) : Option (Nat × MVForm) :=
  match i with
  | .mLdv _ f => if f.km = 0 then some (0x01, f) else none
  | .mLdvs _ f => if f.km = 0 then some (0x02, f) else none
  | .mLdf _ f => if f.km = 0 then some (0x05, f) else none
  | .mLdx _ f => if f.km = 0 then some (0x0C, f) else none
  | .mTld _ f => if f.km = 0 then some (0x10, f) else none
  | _ => none

/-- A place that no step writes (03 R65, R80). -/
def readOnlyPlace (p : Plan) (pc a : Nat) : Bool :=
  if a < topHbm then (match p.img.pages[a / pageBytes]? with | some d => d.readOnly | none => false)
  else if baseGranary ≤ a ∧ a < baseGranary + 512 * binBytes then
    (match p.img.bins[(a - baseGranary) / binBytes]? with | some ro => ro | none => false)
  else
    match p.img.cores[pc]? with
    | some d => baseShared + pc * sharedStride + d.roOffset ≤ a && a < baseShared + pc * sharedStride + d.roOffset + d.ro.length
    | none => false

/-- The remaining conditions of 03 R80. -/
def eligible (p : Plan) (k : Core) (w : Walk) (op : Nat) (f : MVForm) (elems : List Elem) : Bool :=
  let r := elems.map (fun e => (canonAddr k.planCore e.addr, e.n))
  !elems.any (fun e => inControl e.addr e.n)
  && !w.fromS.contains f.ab.toNat && !(op == 0x02 && w.fromS.contains f.ast.toNat)
  && !w.anyStore && !rangesMeet w.stores r && k.clear k.nextId r []
  && (!w.harv || r.all (fun x => readOnlyPlace p k.planCore x.1 && readOnlyPlace p k.planCore (x.1 + x.2 - 1)))

/-- Load early: the values up to the first fault, which is held. -/
def loadAhead (s : State) (c : CoreId) (i : Fin 16) (pos op : Nat) (f : MVForm) (elems : List Elem) : Ahead :=
  let (_, l, flt) := runOrder ⟨c, i, s.cores[c].planCore, 0, op, elems⟩ elems s
  ⟨pos, op, f, l.map (·.2), flt.map (fun e => (e.1.lane, e.1.addr, e.2.1))⟩

/-- Walk up to 64 bundles ahead and issue the first eligible load that has not been issued. -/
def runAhead (s : State) (c : CoreId) (i : Fin 16) (p : Plan) (corrected lost : List Nat) : Nat → Walk → State
  | 0, _ => s
  | fuel + 1, w =>
    let k := s.cores[c]
    let stop (w : Walk) : State := s.modCore c (fun k => { k with
      ahead := { k.ahead with a := w.regs.a, l := w.regs.l, bundle := w.bundle, loops := w.loops, synced := true } })
    if anyBad k.sramBad 8 (32 * w.bundle) 32 then stop w
    else
      let b := BitVec.ofNat 256 (leNat (memRead 0 k.sram (32 * w.bundle) 32))
      match decodeSlot .c c (bundleSlot b .c), decodeSlot .m c (bundleSlot b .m) with
      | some ci, some mi =>
        let load := if w.skip || (walkC w ci).isNone then none else walkLoad mi
        let go (w : Walk) : State := (match walkC w ci with | some w' => runAhead s c i p corrected lost fuel w' | none => stop w)
        match load with
        | some (op, f) =>
          let elems := mvElems op f w.regs
          if k.ahead.buffer.any (fun a => a.pos == w.pos) || !eligible p k w op f elems then go w
          else
            let r := elems.map (fun e => (canonAddr k.planCore e.addr, e.n))
            let s := noteErrors s p (within r corrected) (within r lost)
            let a := loadAhead s c i w.pos op f elems
            let got := (r.take a.data.length).map (·.1)
            s.modCore c (fun k => { k.countLines got [] with ahead := { k.ahead with
              a := w.regs.a, l := w.regs.l, bundle := w.bundle, loops := w.loops, synced := true, buffer := k.ahead.buffer ++ [a] } })
        | none => go (if w.skip then w else walkStore w k.planCore mi)
      | _, _ => stop w

/-- RUNAHEAD_LOAD of a core, with the errors that its reads meet and no read had met before. -/
def execRunaheadLoad (load : CoreId × ReadOutcome) (s : State) : Host.Outcome State Fault Refusal :=
  let c := load.1
  .next (match planOf s c with
    | none => s
    | some (i, p) =>
      let k := s.cores[c]
      if (k.run = .running ∨ k.run = .voted) ∧ p.teardownCause.isNone ∧ usable s.coreMap[c] ∧ serving s then
        runAhead s c i p load.2.corrected load.2.lost 64
          { pos := k.closed, bundle := k.bundle, loops := k.loops, regs := k.regs, fromS := k.fromS, stores := [],
            anyStore := false, harv := k.run == .voted, skip := k.slotM }
      else s)

end Sys2Proof.Machine
end

