-- ==== Sys2Proof/Machine/Units.lean ====
section
/-! DEFINITION. C.ISSUE (03 R83), and the ends of cart descriptors (06 R146, R147), reckoner solves (07 R167, R168) and
collectives (12 R272). -/

namespace Sys2Proof.Machine
open Sys2Proof

/-! ### C.ISSUE -/

/-- Event of the descriptors that a core's carts (0) or reckoners (1) have ended (18 event catalogue). -/
def descEvent (unit : Nat) : Nat := if unit = 0 then 0x100 else if unit = 1 then 0x140 else 0xFFF

/-- The core loses a descriptor that has completed: its DC register gains 1 (03 R84). -/
def Core.descDone (k : Core) (unit desc : Nat) (dc : Fin 16) : Core :=
  let at_ := k.issued.findIdx (fun e => e.unit == unit && e.desc == desc && e.dc == dc)
  ({ k.complete dc with issued := k.issued.eraseIdx at_ }).count (descEvent unit) 1

/-- A core's fault of KIND 6 for a descriptor that it issued. -/
def unitFault (rd : Reader) (s : State) (c : CoreId) (status bundle : Nat) (dc : Fin 16) (addr : Nat)
    (pl : Option Place) : State :=
  coreFaultBy rd s c status bundle 0x3A dc 0 0 6 addr pl

/-- The base word of an indirect descriptor: none where it reads uncorrectable (06 R138). -/
def baseWord (s : State) (c : CoreId) (off : Nat) : Option Nat :=
  if anyBad s.cores[c].sramBad 8 off 8 then none else some (leNat (memRead 0 s.cores[c].sram off 8))

def flushes (status : Nat) : Bool := status == codeDataLost || status == codeTargetFenced

def jobsDone (unit : Nat) (l : List UnitJob) (s : State) : State :=
  l.foldl (fun s j => s.modCore j.core (·.descDone unit j.desc j.dc)) s

/-- After DATA_LOST or TARGET_FENCED each remaining queued descriptor ends at once with that status (06 R147; 07
R168). -/
def Cart.flush (k : Cart) (status : Nat) : Cart :=
  { k with status := status, desc := (k.queue.getLast?.map (·.desc)).getD k.desc, queue := [] }
def Reck.flush (k : Reck) (status : Nat) : Reck :=
  { k with status := status, desc := (k.queue.getLast?.map (·.desc)).getD k.desc, queue := [] }

/-- The unit's status block after a descriptor has ended at issue. -/
def Cart.endedAtIssue (k : Cart) (status desc : Nat) : Cart :=
  if flushes status then ({ k with desc := desc }).flush status else { k with status := status, desc := desc }
def Reck.endedAtIssue (k : Reck) (status desc : Nat) : Reck :=
  if flushes status then ({ k with desc := desc }).flush status else { k with status := status, desc := desc }

/-- A cart descriptor that ends at issue with a fault: it is the most recently ended (06 R148), and DATA_LOST ends what
the cart has queued (R147); a descriptor that runs goes on. -/
def cartEndAtIssue (s : State) (x : Issue) (u : Fin 32) (n : Nat) (dc : Fin 16) (status addr : Nat)
    (pl : Option Place) : State :=
  let k := s.carts[u]
  let bundle := s.cores[x.c].bundle
  let s := { s with carts := s.carts.set u (k.endedAtIssue status n) }
  let s := if flushes status then jobsDone 0 k.queue s else s
  unitFault .cart (s.modCore x.c (fun k => (k.complete dc).count (descEvent 0) 1)) x.c status bundle dc addr pl

/-- A reckoner descriptor that ends at issue with a fault (07 R168, R169). -/
def reckEndAtIssue (s : State) (x : Issue) (u : Fin 32) (n : Nat) (dc : Fin 16) (status addr : Nat)
    (pl : Option Place) : State :=
  let k := s.recks[u]
  let bundle := s.cores[x.c].bundle
  let s := { s with recks := s.recks.set u (k.endedAtIssue status n) }
  let s := if flushes status then jobsDone 1 k.queue s else s
  unitFault .reckoner (s.modCore x.c (fun k => (k.complete dc).count (descEvent 1) 1)) x.c status bundle dc addr pl

/-- A unit of a plan that a plan core owns. -/
def ownsUnit (owners : List (Nat × Nat)) (u planCore : Nat) : Bool := owners.any (fun e => e.1 == u && e.2 == planCore)

def Cart.add (k : Cart) (j : UnitJob) : Cart :=
  if k.running.isNone then { k with running := some j } else { k with queue := k.queue ++ [j] }
def Reck.add (k : Reck) (j : UnitJob) : Reck :=
  if k.running.isNone then { k with running := some j } else { k with queue := k.queue ++ [j] }

def Core.issue (k : Core) (unit desc : Nat) (dc : Fin 16) : Core := { k with issued := k.issued ++ [⟨unit, desc, dc⟩] }

/-- UNIT 0: none while the cart's queue is full, or a store before an indirect descriptor is outstanding. Only the
cart's owner issues to it (06 R134). A base word that reads uncorrectable ends the descriptor here with DATA_LOST, ADDR
the word's own-SRAM address: the *Cart status table* finds DATA_LOST during the copy only (DESIGN CHOICE,
notes/assumptions/46.md). -/
def issueCart (s : State) (x : Issue) (dc : Fin 16) (n : Nat) : Option State :=
  let k := s.cores[x.c]
  match x.p.img.cartDesc[n]?, x.p.img.cartOf[n]? with
  | some b, some u =>
    if h : u < 32 then
      let u : Fin 32 := ⟨u, h⟩
      let d := cartDesc b
      let add (base : Option Nat) (s : State) : State :=
        { s with carts := s.carts.set u (s.carts[u].add ⟨n, dc, x.c, k.bundle, base⟩) }.modCore x.c (·.issue 0 n dc)
      if s.carts[u].plan != some x.i || !ownsUnit x.p.img.cartOwner u k.planCore then some s
      else if 16 ≤ s.carts[u].queue.length + s.carts[u].running.isSome.toNat then none
      else if !d.ind then some (add none s)
      else if !k.storesDone k.openId then none
      else
        match baseWord s x.c d.src with
        | none => some (cartEndAtIssue s x u n dc codeDataLost (baseOwn + d.src) (some (.sram x.c d.src)))
        | some w =>
          let base := w % 2 ^ 48
          let (r, s') := takeFree s
          match d.issueFault s x.p k.planCore base r with
          | some (st, a) => some (cartEndAtIssue s' x u n dc st a none)
          | none => some (add (some base) s)
    else some s
  | _, _ => some s

/-- A class as installed on a reckoner. -/
def Plan.reckClass (p : Plan) (n : Nat) : Option Bytes := (p.img.reckClasses[n]?).map (·.data)

/-- UNIT 1, as UNIT 0: the owner alone issues (07 R163), and a base word that reads uncorrectable ends the descriptor
here with DATA_LOST, ADDR the word's own-SRAM address (DESIGN CHOICE, notes/assumptions/46.md). -/
def issueReck (s : State) (x : Issue) (dc : Fin 16) (n : Nat) : Option State :=
  let k := s.cores[x.c]
  match x.p.img.reckDesc[n]?, x.p.img.reckOf[n]? with
  | some b, some u =>
    if h : u < 32 then
      let u : Fin 32 := ⟨u, h⟩
      let d := reckDesc b
      let add (base : Option Nat) (s : State) : State :=
        { s with recks := s.recks.set u (s.recks[u].add ⟨n, dc, x.c, k.bundle, base⟩) }.modCore x.c (·.issue 1 n dc)
      if s.recks[u].plan != some x.i || !ownsUnit x.p.img.reckOwner u k.planCore then some s
      else if 16 ≤ s.recks[u].queue.length + s.recks[u].running.isSome.toNat then none
      else if !d.ind then some (add none s)
      else if !k.storesDone k.openId then none
      else
        match baseWord s x.c d.baseOffs, x.p.reckClass d.cls with
        | none, _ => some (reckEndAtIssue s x u n dc codeDataLost (baseOwn + d.baseOffs) (some (.sram x.c d.baseOffs)))
        | some w, some q =>
          (match d.issueFault s x.p k.planCore (qpClass q) w with
           | some (st, a) => some (reckEndAtIssue s x u n dc st a none)
           | none => some (add (some (w % 2 ^ 48)) s))
        | some _, none => some s
    else some s
  | _, _ => some s

/-- UNIT 2: taken after every earlier store of the core (12 R272). -/
def issueMill (s : State) (x : Issue) (dc : Fin 16) (n : Nat) : Option State :=
  let k := s.cores[x.c]
  if !k.storesDone k.openId then none
  else
    match x.p.img.collDesc[n]? with
    | none => some s
    | some b =>
      if ((collDesc b).parts x.p).contains k.planCore then
        some (issueColl (s.modCore x.c (·.issue 2 n dc)) x.i x.p x.c dc n)
      else some s

/-- C.ISSUE: a core holds at most 16 descriptors that have not completed. Descriptors that no loaded plan's program
names have no effect. -/
def execCIssue (c : CoreId) (f : CForm) (s : State) : Host.Outcome State Fault Refusal :=
  whenLegal (f.legal 0x3A) (issueC s c 0x3A [] (fun s x =>
    let dc : Fin 16 := ⟨f.d.toNat % 16, Nat.mod_lt _ (by decide)⟩
    let n := f.imm.toNat % 2 ^ 16
    if 16 ≤ s.cores[c].issued.length then none
    else
      (if f.unit = 0 then issueCart s x dc n else if f.unit = 1 then issueReck s x dc n else issueMill s x dc n).map
        (fun s => (s, .next))))

/-! ### The end of a descriptor -/

/-- A unit records an ended descriptor and takes the next. -/
def Cart.next (k : Cart) (status desc : Nat) : Cart :=
  { k with status := status, desc := desc, running := k.queue.head?, queue := k.queue.tail }
def Reck.next (k : Reck) (status desc : Nat) : Reck :=
  { k with status := status, desc := desc, running := k.queue.head?, queue := k.queue.tail }

/-- The cart counts of a core: aligned and misaligned blocks, and staging lines. A descriptor that faults has done some
part of them. -/
def countCart (s : State) (c : CoreId) (n : Nat × Nat × Nat) (whole : Bool) : State :=
  let (r, s) := if whole then (0, s) else takeFree s
  let some_ (k m : Nat) : Nat := if whole then m else r / 2 ^ (24 * k) % (m + 1)
  s.modCore c (fun k => ((k.count 0x101 (some_ 0 n.1)).count 0x102 (some_ 1 n.2.1)).count 0x103 (some_ 2 n.2.2))

/-- What the descriptor of a cart does: the state and the fault. -/
def cartRun (s : State) (i : Fin 16) (p : Plan) (j : UnitJob) : State × Option AccessFault :=
  match p.img.cartDesc[j.desc]? with
  | none => (s, none)
  | some b =>
    let d := cartDesc b
    let base := j.base.getD d.src
    let (s', f) := cartCopy s i s.cores[j.core].planCore d base
    (countCart s' j.core (d.blocks base) f.isNone, f)

/-- A cart descriptor's ranges, in which its reads may meet new errors. -/
def cartReads (p : Plan) (pc : Nat) (j : UnitJob) : List (Nat × Nat) :=
  match p.img.cartDesc[j.desc]? with
  | none => []
  | some b =>
    let d := cartDesc b
    d.cellRanges pc ++ ((cartCells d.dims).filter (·.valid)).map (fun c =>
      (canonAddr pc (cartAddr (j.base.getD d.src) c.src), d.esize))

/-- Parity errors in a cart (20 R438): UNIT_ERROR, and at the third since start the cart leaves service. -/
def cartParity (s : State) (n : Fin 32) (i : Fin 16) : State :=
  let e := s.carts[n].errors + 1
  let (step, att) := planStep s (some i)
  let s := { s with carts := s.carts.set n { s.carts[n] with errors := e } }
  let s := journalPlan s i 0x0809 (leBytes 1 2 ++ leBytes 2 n ++ leBytes 4 step ++ leBytes 1 att ++ leBytes 1 e)
  if e = 3 then
    unitOut { s with carts := s.carts.set n { s.carts[n] with inService := false } } 2 n
      (fun p => bits p.img.hdr.cartMask n n == 1) 0x5010
  else s

/-- The cart ends its descriptor with a status. -/
def cartFinish (s : State) (n : Fin 32) (j : UnitJob) (status : Nat) : State :=
  let k := s.carts[n]
  let s := s.modCore j.core (·.descDone 0 j.desc j.dc)
  if flushes status then
    jobsDone 0 k.queue { s with carts := s.carts.set n ({ k with desc := j.desc, running := none }.flush status) }
  else { s with carts := s.carts.set n (k.next status j.desc) }

/-- CART_DESC_END: the running descriptor of a cart ends. `corrected` and `lost` are plan addresses at which its
accesses meet errors not met before; `parity` tells of a parity error in the cart, whose fault address is not given. -/
def cartEnd (s : State) (n : Fin 32) (corrected lost : List Nat) (parity : Bool) : State :=
  match s.carts[n].plan, s.carts[n].running with
  | some i, some j =>
    (match s.plans[i] with
    | none => s
    | some p =>
      let pc := s.cores[j.core].planCore
      let r := cartReads p pc j
      let s := noteErrors s p (within r corrected) (within r lost)
      if parity then
        let (a, s) := takeFree s
        let fault (s : State) : State := unitFault .cart s j.core codeDataLost j.bundle j.dc (a % 2 ^ 48) none
        let s := cartFinish s n j codeDataLost
        -- the error that takes the cart out ends the plan: the fault is recorded first
        if s.carts[n].errors = 2 then attend (fault s) (cartParity (fault s) n i) else fault (attend s (cartParity s n i))
      else
        match cartRun s i p j with
        | (s, none) => cartFinish s n j 0
        | (s, some (a, st, pl)) => unitFault .cart (cartFinish s n j st) j.core st j.bundle j.dc a pl)
  | _, _ => s

def execCartDescEnd (n : Fin 32) (corrected lost : List Nat) (parity : Bool) (s : State) :
    Host.Outcome State Fault Refusal := .next (if serving s then cartEnd s n corrected lost parity else s)

/-! ### Reckoner solves -/

/-- The records that a solve reads and writes, as plan ranges. -/
def reckReads (p : Plan) (pc : Nat) (j : UnitJob) : List (Nat × Nat) :=
  match p.img.reckDesc[j.desc]? with
  | none => []
  | some b =>
    let d := reckDesc b
    match p.reckClass d.cls with
    | some q => (d.records (qpClass q) (j.base.getD 0)).map (fun r => (canonAddr pc r.1, r.2.1))
    | none => []

/-- A solve from its records, or the fault of reading or writing one. -/
def reckRun (s : State) (i : Fin 16) (p : Plan) (j : UnitJob) : State × Option AccessFault :=
  match p.img.reckDesc[j.desc]? with
  | none => (s, none)
  | some b =>
    let d := reckDesc b
    match p.reckClass d.cls with
    | none => (s, none)
    | some c =>
      let q := qpClass c
      let base := j.base.getD 0
      let pc := s.cores[j.core].planCore
      let at_ (x : Nat) : Nat := (x + base) % 2 ^ 48
      match planRead s i (canonAddr pc (at_ d.inAddr)) q.bytesIn with
      | .fail st a pl => (s, some (a - canonAddr pc (at_ d.inAddr) + at_ d.inAddr, st, pl))
      | .ok input =>
        let go (warm : Option Bytes) : State × Option AccessFault :=
          let out := qpRun q input warm
          let s := s.modCore j.core (fun k => (k.count 0x141 (leNat ((out.drop 12).take 4))).count 0x142
            (bits (leNat ((out.drop 8).take 4)) 10 10))
          match planWrite s i (canonAddr pc (at_ d.out)) out with
          | .ok s' => (s', none)
          | .fail st a pl => (s, some (a - canonAddr pc (at_ d.out) + at_ d.out, st, pl))
        if d.warm then
          match planRead s i (canonAddr pc (at_ d.warmAddr)) q.bytesOut with
          | .fail st a pl => (s, some (a - canonAddr pc (at_ d.warmAddr) + at_ d.warmAddr, st, pl))
          | .ok w => go (some w)
        else go none

/-- An uncorrectable word of a reckoner's SRAM (07 R168; 20 R438): the classes are rebuilt, which changes no bit of
them; at the third since start the reckoner leaves service. -/
def reckWord (s : State) (n : Fin 32) (i : Option (Fin 16)) (off : Nat) (patrol : Bool) : State :=
  let e := s.recks[n].errors + 1
  let (step, _) := planStep s i
  let s := { s with recks := s.recks.set n { s.recks[n] with errors := e } }
  let s := journalOpt s i 0x0804 (leBytes 1 2 ++ leBytes 2 n ++ leBytes 4 off ++ leBytes 1 patrol.toNat ++ leBytes 4 step)
  if e = 3 then
    unitOut { s with recks := s.recks.set n { s.recks[n] with inService := false } } 3 n
      (fun p => bits p.img.hdr.reckMask n n == 1) 0x5010
  else s

def reckFinish (s : State) (n : Fin 32) (j : UnitJob) (status : Nat) : State :=
  let k := s.recks[n]
  let s := s.modCore j.core (·.descDone 1 j.desc j.dc)
  if flushes status then
    jobsDone 1 k.queue { s with recks := s.recks.set n ({ k with desc := j.desc, running := none }.flush status) }
  else { s with recks := s.recks.set n (k.next status j.desc) }

/-- RECK_SOLVE_END: the running solve of a reckoner ends. `words` counts corrected words of the reckoner's SRAM, and
`lostWord` is the offset of an uncorrectable one, whose fault address is not given. -/
def reckEnd (s : State) (n : Fin 32) (corrected lost : List Nat) (words : Nat) (lostWord : Option Nat) : State :=
  match s.recks[n].plan, s.recks[n].running with
  | some i, some j =>
    (match s.plans[i] with
    | none => s
    | some p =>
      let r := reckReads p s.cores[j.core].planCore j
      let s := noteErrors s p (within r corrected) (within r lost)
      let s := (List.range words).foldl (fun s _ => countCorrected s 2) s
      match lostWord with
      | some off =>
        let (a, s) := takeFree s
        let fault (s : State) : State := unitFault .reckoner s j.core codeDataLost j.bundle j.dc (a % 2 ^ 48) none
        let s := reckFinish s n j codeDataLost
        if s.recks[n].errors = 2 then attend (fault s) (reckWord (fault s) n (some i) off false)
        else fault (attend s (reckWord s n (some i) off false))
      | none =>
        match reckRun s i p j with
        | (s, none) => reckFinish s n j 0
        | (s, some (a, st, pl)) => unitFault .reckoner (reckFinish s n j st) j.core st j.bundle j.dc a pl)
  | _, _ => s

def execReckSolveEnd (n : Fin 32) (corrected lost : List Nat) (words : Nat) (lostWord : Option Nat) (s : State) :
    Host.Outcome State Fault Refusal := .next (if serving s then reckEnd s n corrected lost words lostWord else s)

/-! ### Collectives -/

/-- A residue mismatch in a chunk that this mill combined alone, found before the collective ends: the chunk's bytes of
DST are what the adders computed, which is not given. -/
def spoilChunk (s : State) (i : Fin 16) (p : Plan) (d : CollDesc) (k : Coll) (j : Nat) : State :=
  let (r, s) := takeFree s
  let s := millError (markCorrupt s i k j (some 1)) i (millOf j)
  let pc := (d.parts p).headD 0
  let cells := (List.range (d.chunkLen p.members j)).filterMap (fun e =>
    (d.dstAddr p.member (j * d.perChunk + e)).map (fun a => (a, leBytes d.elem (r / 2 ^ (8 * d.elem * e)))))
  (writeCells i pc (cellsCover s pc cells) cells s).1

/-- The collective ends: each participant of this member gains 1, what staging holds is no longer defined, and a waiting
occurrence may start. -/
def finishColl (s : State) (i : Fin 16) (p : Plan) (d : CollDesc) (k : Coll) : State :=
  let s := k.issuers.foldl (fun s c => s.modCore c.1 (·.descDone 2 k.desc c.2)) s
  let s := freeStaging (millStatus s p d k) p d
  let s := if collOver p d k then { s with colls := s.colls.filter (fun c => !sameColl c k) } else s.putColl { k with ended := true }
  let n := p.endedOcc k.desc + 1
  let s := s.modPlan i (fun q => { q with occs := q.occs.filter (fun e => e.1 != k.desc) ++ [(k.desc, n)] })
  tryModuleVote (tryStart s i p k.desc) i

/-- COLLECTIVE_END of a descriptor on this member. `residue` names a chunk in which the mill's own adders fail their
check in a job of one member. -/
def collEnd (s : State) (i : Fin 16) (desc : Nat) (residue : Option Nat) : State :=
  match s.plans[i] with
  | none => s
  | some p =>
    match s.colls.find? (fun k => k.plan == i && k.desc == desc && k.attempt == p.attempt && k.started && !k.ended),
          p.img.collDesc[desc]? with
    | some k, some b =>
      let d := collDesc b
      if !collDue p d k || p.teardownCause.isSome then s
      else
        let s := (match residue with
          | some j => if p.members ≤ 1 ∧ j < d.chunks p.members then spoilChunk s i p d k j else s
          | none => s)
        withColl i k (fun s k => finishColl s i p d k) s
    | _, _ => s

def execCollectiveEnd (i : Fin 16) (desc : Nat) (residue : Option Nat) (s : State) : Host.Outcome State Fault Refusal :=
  happen s (fun s => collEnd s i desc residue)

def execChunkFrameReceive (f : Frame) (residue : Bool) (word : Option (Fin 512 × Nat)) (s : State) :
    Host.Outcome State Fault Refusal := happen s (fun s => receiveChunk s f residue word)

end Sys2Proof.Machine
end

