-- ==== Sys2Proof/Machine/Harvest.lean ====
section
/-! DEFINITION. Harvest results (09 R203-R207, R211, R213): commit, replay, mismatch and stop; what a commit records
(02 R48; 03 R61, R87; 14 R329, R330, R334-R337), and the reopening of a replayed step. -/

namespace Sys2Proof.Machine
open Sys2Proof

/-! ### What a commit does to cores and sequence slots -/

def Core.commitStep (k : Core) : Core :=
  { k with flagsCommitted := k.flagsCommitted ||| k.flagsStep, flagsStep := 0, ckpt := k.candidate.getD k.ckpt,
           candidate := none, topDown := { k.topDown with attempt := 0 },
           run := match k.run with
             | .voted | .sitsOut => .running
             | .halting => .idle
             | r => r }

/-- 03 R87. -/
def SeqSlot.commitStep (k : SeqSlot) : SeqSlot :=
  if k.resetMark then { k with cl := 0, tl := 0, p := 0 } else { k with cl := k.cl + k.p, p := 0 }

def SeqSlot.replayStep (k : SeqSlot) : SeqSlot := { k with cl := k.clOpen, tl := k.tlOpen, p := 0, resetMark := false }

/-! ### The tally history (14 R329, R330) -/

def tallyEntries (p : Plan) : List TallyRec :=
  let one (t : Nat × Nat) (layer : Nat) : TallyRec := ⟨t.2, t.1, p.step, layer, p.cls, p.jobId, p.member⟩
  ((p.img.tallies.zip p.tallies).filter (fun e => e.1.cls == p.cls)).map (fun e => one e.2 e.1.layer)
    ++ [one (stepTally p) 0xFFFF]

/-- The 4,096 most recent entries. -/
def addHistory (old new : List TallyRec) : List TallyRec := (old ++ new).drop ((old ++ new).length - 4096)

/-! ### The update-to-weight ratio (14 R336, R337) -/

/-- The sums of a tensor over the cores of the plan. -/
def ratioSums (ks : List Core) (tensor : BitVec 32) : Option RatioSlot :=
  let l := ks.flatMap (fun k => k.ratio.filter (fun e => e.tensor == tensor))
  if l.isEmpty then none
  else some (l.foldl (fun a e => ⟨tensor, a.sw + e.sw, a.sd + e.sd, a.notFinite || e.notFinite⟩) ⟨tensor, 0, 0, false⟩)

/-- The square of a binary64 code as a ratio. -/
def thresholdSquare (code : Nat) : Nat × Nat :=
  match fmtB64.value code with
  | .fin _ m e => dyadicRat (m * m) (2 * e)
  | _ => (0, 1)

/-- The square root of a positive ratio, with a sticky last digit. -/
def sqrtRatio (num den : Nat) : Nat × Nat :=
  let k : Int := 100 - ratLog2 num den / 2
  let (a, b) := scaleRat num den (-2 * k)
  let r := isqrt (a / b)
  dyadicRat (2 * r + (if a % b = 0 ∧ r * r = a / b then 0 else 1)) (-1 - k)

/-- 0 within the thresholds, 1 above HI, 2 below LO; and the ratio in binary32. -/
def ratioOutcome (e : RatioEntry) (t : RatioSlot) : Nat × Nat :=
  let (hn, hd) := thresholdSquare e.hi
  let (ln, ld) := thresholdSquare e.lo
  if t.notFinite then (1, fmtB32.canonNan)
  else if t.sw = 0 ∧ 0 < t.sd then (1, fmtB32.infCode false)
  else
    let ratio := if t.sd = 0 ∨ t.sw = 0 then 0
      else let (a, b) := sqrtRatio t.sd t.sw; (fmtB32.roundRatio false false a b).1
    if hn * t.sw < t.sd * hd then (1, ratio) else if t.sd * ld < ln * t.sw then (2, ratio) else (0, ratio)

/-- The entries of tensors updated in the step that fall outside their thresholds. -/
def ratioFindings (p : Plan) (ks : List Core) : List (RatioEntry × Nat × Nat) :=
  (p.img.ratios.filterMap (fun e => (ratioSums ks e.tensor).map (fun t => (e, ratioOutcome e t)))).filter (fun f => f.2.1 != 0)

/-- MONITOR_INCOMPLETE and UPDATE_RATIO records of a commit. -/
def journalRatios (s : State) (i : Fin 16) (p : Plan) (ks : List Core) (l : List (RatioEntry × Nat × Nat)) : State :=
  let s := (ks.filter (·.ratioLost)).foldl (fun s k => journalPlan s i 0x0603 (leBytes 4 p.step ++ leBytes 2 k.planCore)) s
  l.foldl (fun s f => journalPlan s i 0x0602
    (leBytes 4 p.step ++ leBytes 2 f.1.layer ++ leBytes 4 f.1.tensor.toNat ++ leBytes 1 f.2.1 ++ leBytes 4 f.2.2)) s

/-! ### Commit (09 R205) -/

/-- WIDENED_REPLAY of a committing attempt that raised levels (14 R338). -/
def journalWidened (s : State) (i : Fin 16) (p : Plan) : State :=
  if p.attempt = 1 ∧ !p.raised.isEmpty then
    journalPlan s i 0x0601 (leBytes 4 p.step ++ leBytes 2 p.member ++ leBytes 1 p.raised.length
      ++ (p.raised.take 16).flatMap (fun w =>
        leBytes 1 w.1 ++ leBytes 2 (((p.img.watches.find? (fun e => e.watch == w.1)).map (·.layer)).getD 0)
          ++ leBytes 1 w.2.1 ++ leBytes 1 w.2.2))
  else s

/-- The step counts in the service windows of the requests in progress (09 R211). -/
def Req.stepDone (p : Plan) (r : Req) : Req :=
  if inRun p r then
    let win := match p.img.services[r.service]? with
      | some v => v.stream && (r.steps + 1) % max v.windowSteps 1 == 0
      | none => false
    { r with steps := r.steps + 1, replays := if win then 0 else r.replays }
  else r

/-- Positions that a STREAM request has committed in the window that ends. -/
def carriedBy (s : State) (r : Req) : Option (Nat × Nat) :=
  match r.seq with
  | some q => if h : q < 64 then some (q, min s.seqSlots[q].cl.toNat r.target - min r.clStart r.target) else none
  | none => none

/-- The slot's last step has committed: best-effort and late replies leave at once (10 R231, R233). -/
def endSlot (s : State) (i : Fin 16) : State :=
  match s.plans[i] with
  | none => s
  | some p =>
    match openRun p with
    | none => s
    | some u =>
      match p.img.services[u.service]? with
      | none => s
      | some v =>
        let mine := slotReqs p v u.service u.slot
        let u' : SlotRun := { u with ended := true, widened := p.slotWidened, carried := if v.stream then mine.filterMap (carriedBy s) else [] }
        let reqs := p.requests.map (fun (r : Req) =>
          match r.seq with
          | some q => if h : q < 64 then (if r.inSlot v u.service u.slot then { r with clStart := s.seqSlots[q].cl.toNat } else r) else r
          | none => r)
        let s := s.modPlan i (fun q => { q with stepOpen := false, requests := reqs,
                                                runs := q.runs.map (fun w => if w = u then u' else w) })
        if !v.promised then releaseSlot s i u' false
        else if u'.endBell < s.bell then releaseSlot s i u' true
        else s

/-- A twin's root of tree A reports the domain tally (13 R314). -/
def reportTally (s : State) (p : Plan) (v : Vote) : State :=
  if p.twin && (p.members ≤ 1 || isRoot false p.members p.member) then
    sendControl s [s.domain.primary] 0x30 p.jobId p.step (leBytes 8 v.t0 ++ leBytes 8 v.t1)
  else s

/-- The job's next step: what belongs to the committed one is past. -/
def nextStep (s : State) (i : Fin 16) : State :=
  { s with colls := s.colls.filter (fun k => k.plan != i) }.modPlan i (fun q =>
    { q with step := (q.step + 1) % 2 ^ 32, attempt := 0, highest := 0, foundBy := (false, false), corruptMark := false })

/-- A commit result. -/
def commitStep (s : State) (i : Fin 16) (v : Vote) : State :=
  match s.plans[i] with
  | none => s
  | some p =>
    let ks := planCores s i
    let found := ratioFindings p ks
    let s := journalRatios (journalWidened s i p) i p ks found
    let s := reportTally s p v
    let s := s.modPlanCores i Core.commitStep
    let s := { s with seqSlots := s.seqSlots.map (fun (k : SeqSlot) => if k.plan = some i then k.commitStep else k) }
    let s := s.modPlan i (fun q => { q with
      history := addHistory q.history (tallyEntries q), widenCkpt := q.widen, raised := [],
      requests := q.requests.map (Req.stepDone p) })
    let ends := (planCores s i).all (fun k => k.run == .idle)
    let s := if ends then endSlot s i else s
    let s := if found.any (fun f => f.1.jobFault) then jobFault s i 0x500E 0 FaultRec.reset else s
    let s := nextStep s i
    match s.plans[i] with
    | some q => if ends || q.teardownCause.isSome then s else openAttempt s i 0
    | none => s

/-! ### Replay (09 R205, R211) -/

/-- Restore the step checkpoint (03 R61); slots kept by the discarded attempt move (18 R404). -/
def Core.restore (k : Core) : Core :=
  let c := k.ckpt
  let t := k.topDown
  { k.discardAhead with
    regs := { k.regs with s := c.s, a := c.a, l := c.l }, dc := c.dc, loops := c.loops, bundle := c.bundle,
    fromS := c.fromS, view := none, candidate := none, flagsStep := 0, far := [], issued := [],
    topDown := { k.discardAhead.topDown with
      kept := t.kept - t.attempt, spilt := addStick k.discardAhead.topDown.spilt t.attempt.toNat, attempt := 0 } }

/-- Promised requests in progress, to whose windows a replay is charged. -/
def charged (p : Plan) (r : Req) : Bool :=
  inRun p r && (match p.img.services[r.service]? with
    | some v => v.promised
    | none => false)

/-- The member whose replay vote was the first at this module's node of a tree: known where it is this member or a leaf of
the tree. -/
def voterAt (p : Plan) (b : Bool) : Option Nat :=
  match (p.node b).got.find? (fun g => g.2.replay) with
  | some (m, _) => if m = p.member ∨ (treeChildren b p.members m).isEmpty then some m else none
  | none => none

def firstVoter (p : Plan) : Option Nat :=
  if p.members ≤ 1 then some p.member else voterAt p (isRoot true p.members p.member)

/-- STEP_REPLAYED (09 R220). The result does not carry the first voting member and its cause: what this module has not
itself seen of them is a free value (notes/assumptions/14.md). -/
def journalReplayed (s : State) (i : Fin 16) (p : Plan) (early : Bool) : State :=
  let (m, s) := match firstVoter p with
    | some m => (m, s)
    | none => takeFree s
  let (c, s) := if firstVoter p = some p.member then ((if early then p.replayCause else 0x500A), s) else takeFree s
  journalPlan s i 0x0401 (leBytes 4 p.step ++ leBytes 2 p.cls ++ leBytes 1 0 ++ leBytes 1 early.toNat ++ leBytes 2 m ++ leBytes 2 c)

/-- A second replay of a step or in a service window (09 R211). -/
def replayLimit (s : State) (i : Fin 16) (p : Plan) : State :=
  jobFault (journalPlan s i 0x0402 (leBytes 4 p.step ++ leBytes 2 p.cls ++ leBytes 2 (serviceRef p))) i 0x5009 0 FaultRec.reset

/-- WIDEN rises by 1 for each watch that fired on a core of this member (14 R334). -/
def raiseWidths (s : State) (i : Fin 16) : State :=
  match s.plans[i] with
  | none => s
  | some p =>
    let ws := (((planCores s i).flatMap (·.fired)).dedup).mergeSort (fun a b => a ≤ b)
    let from_ (w : Nat) : Nat := ((p.img.watches.find? (fun e => e.watch == w)).map (·.from_)).getD 0
    let up := ws.map (fun w => (w, from_ w + p.level w, from_ w + p.level w + 1))
    let word := ws.foldl (fun (x : BitVec 64) w => x + BitVec.ofNat 64 (4 ^ w)) p.widen
    s.modPlan i (fun q => { q with widen := word, widenCkpt := word, raised := up,
                                   slotWidened := q.slotWidened || !up.isEmpty })

/-- Attempt 1 opens from the checkpoint. -/
def reopen (s : State) (i : Fin 16) : State :=
  openAttempt (raiseWidths (s.modPlanCores i Core.restore) i) i 1

/-- A replay result. -/
def replayStep (s : State) (i : Fin 16) (v : Vote) (bell : Bell) : State :=
  match s.plans[i] with
  | none => s
  | some p =>
    if p.attempt = 1 || p.requests.any (fun r => charged p r && 1 ≤ r.replays) then replayLimit s i p
    else
      let s := journalReplayed s i p v.early
      let reqs := p.requests.map (fun (r : Req) => if charged p r then { r with replays := r.replays + 1 } else r)
      let s := s.modPlan i (fun q => { q with widen := q.widenCkpt, requests := reqs })
      let s := { s with seqSlots := s.seqSlots.map (fun (k : SeqSlot) => if k.plan = some i then k.replayStep else k) }
      if v.early then
        let s := cutCarts s i (fun _ => true)
        let s := { s with recks := s.recks.map (fun (k : Reck) => if k.plan = some i then k.stop else k),
                          colls := s.colls.filter (fun k => k.plan != i || k.attempt == 1) }
        let s := s.modPlanCores i (fun k => { k.discardAhead with far := [], issued := [], view := none })
        s.modPlan i (fun q => { q with stepOpen := false, reopenBell := some bell })
      else reopen s i

/-! ### Results, votes and deadlines -/

/-- A member applies a result (*Result table*). -/
def applyResult (s : State) (i : Fin 16) (v : Vote) (bell : Nat) : State :=
  match s.plans[i] with
  | none => s
  | some p =>
    let done := countControl s 0x404 1
    if p.teardownCause.isSome || !p.stepOpen then s
    else if v.cls = clsMismatch then jobFault (journalPlan done i 0x0404 (leBytes 4 p.step)) i 0x5008 0 FaultRec.reset
    else if v.cls = clsTwinStop then jobFault done i (bell % 65536) 0 FaultRec.reset
    else if v.step ≠ p.step ∨ v.attempt ≠ p.attempt then s
    else if v.replay then replayStep done i v bell
    else if p.voteSent && !p.earlySent then commitStep done i v
    else s

/-- A result as it travels is the one that this module has formed. -/
def isOwnResult (p : Plan) (word reopen : BitVec 64) (t0 t1 : Nat) : Bool :=
  match p.ownResult with
  | some (v, r) => Vote.word p.jobId v == word && BitVec.ofNat 64 r == reopen && v.t0 == t0 && v.t1 == t1
  | none => false

/-- HARVEST_RESULT: a result from the parent in a tree, or this module's own as root or only member. -/
def harvestResult (s : State) (b : Bool) (word reopen : BitVec 64) (t0 t1 : Nat) : State :=
  match planOfJob s (voteJob word) with
  | none => s
  | some (i, p) =>
    let n := p.node b
    let v := Vote.ofWord word t0 t1
    match n.parent with
    | none => if isOwnResult p word reopen t0 t1 then applyResult s i v reopen.toNat else s
    | some _ => applyResult (n.children.foldl (fun s m => s.emit (.result b m word reopen t0 t1)) s) i v reopen.toNat

def execHarvestResult (treeB : Bool) (word reopen : BitVec 64) (tally : Nat × Nat) (s : State) :
    Host.Outcome State Fault Refusal :=
  happen s (fun s => harvestResult (freezeLatch s) treeB word reopen tally.1 tally.2)

/-- A vote of an attempt that has not opened here yet. -/
def voteAhead (p : Plan) (v : Vote) : Bool :=
  v.step == (p.step + 1) % 2 ^ 32 || (v.step == p.step &&
    (if p.stepOpen || p.reopenBell.isSome then p.attempt < v.attempt else true))

/-- A vote of an attempt that is past here. -/
def voteStale (p : Plan) (v : Vote) : Bool :=
  !p.stepOpen || (v.step + 1) % 2 ^ 32 == p.step || (v.step == p.step && v.attempt < p.attempt)

/-- VOTE_RECEIVE from a child of this module's node in a tree. -/
def voteReceive (s : State) (b : Bool) (src : Nat) (word : BitVec 64) (t0 t1 : Nat) : State :=
  match planOfJob s (voteJob word) with
  | none => s
  | some (i, p) =>
    let v := Vote.ofWord word t0 t1
    if p.teardownCause.isSome || !(p.node b).children.contains src then s
    else if voteAhead p v then s.modPlan i (fun q => { q with heldVotes := q.heldVotes ++ [(b, src, v)] })
    else if voteStale p v then s
    else nodeVote s i b src v

def execVoteReceive (treeB : Bool) (src : Nat) (word : BitVec 64) (tally : Nat × Nat) (s : State) :
    Host.Outcome State Fault Refusal :=
  happen s (fun s => voteReceive s treeB src word tally.1 tally.2)

/-- ATTEMPT_REOPEN: REOPEN_BELL has come, the cores' local operations have completed, and every fenced core's slot has
passed to its spare. -/
def attemptReopen (s : State) (i : Fin 16) : State :=
  match s.plans[i] with
  | none => s
  | some p =>
    match p.reopenBell with
    | none => s
    | some b =>
      if s.bell < b || p.teardownCause.isSome || s.subs.any (fun u => u.plan == i)
          || (planCores s i).any (fun k => !k.moves.isEmpty || !k.copies.isEmpty) then s
      else reopen s i

def execAttemptReopen (i : Fin 16) (s : State) : Host.Outcome State Fault Refusal := happen s (fun s => attemptReopen s i)

/-- The step deadline (09 R207). -/
def stepDeadline (p : Plan) : Bell :=
  match p.img.classes[p.cls]? with
  | some c => p.openBell + c.workBound + c.harvAllow + 80000
  | none => p.openBell + 80000

def stepTimeout (s : State) (i : Fin 16) : State :=
  match s.plans[i] with
  | none => s
  | some p =>
    if p.stepOpen && p.teardownCause.isNone && stepDeadline p ≤ s.bell then
      jobFault (journalPlan s i 0x0403 (leBytes 4 p.step ++ leBytes 1 p.attempt ++ leBytes 8 (stepDeadline p))) i 0x5007 0
        FaultRec.reset
    else s

def execStepTimeout (i : Fin 16) (s : State) : Host.Outcome State Fault Refusal := happen s (fun s => stepTimeout s i)

end Sys2Proof.Machine
end

