-- ==== Sys2Proof/Machine/Faults.lean ====
section
/-! DEFINITION. Faults of units in service (20 R435-R448), patrol (08 R180, R191), the end of map-out and of zero fills
(08 R176, R185), stack temperature (08 R181, R183; 19 R422), substitution (09 R218), the plough (08 R188, R189), and the
summaries of errors and refusals (20 R441; 10 R237). -/

namespace Sys2Proof.Machine
open Sys2Proof

/-! ### Patrol -/

/-- An error of four or more symbols that the decoder did not report: the line now stands for bytes that nothing gives
(08 R178). -/
def changeLine (s : State) (line : Nat) : State :=
  let (r, s) := takeFree s
  (writePlace s (.hbm (64 * line)) (leBytes 64 r) true).getD s

/-- A patrol read of a window line. -/
def patrolLine (s : State) (line outcome : Nat) : State :=
  match lineOf s (64 * line) with
  | none => s
  | some (ch, _) =>
    if !inService s ch then s
    else if outcome = 2 || s.hbmBad.contains line then hbmLost (markLost s (.hbm (64 * line))) (64 * line) none .patrol
    else if outcome = 1 then markCorrected s (.hbm (64 * line))
    else if outcome = 3 then markCorrected (changeLine s line) (.hbm (64 * line))
    else if outcome = 4 then changeLine s line
    else s

/-- PATROL_READ of a line, by window number and offset: 0 clean, 1 corrected, 2 uncorrectable; and of a line with an error
of four or more symbols, 3 wrongly corrected, 4 taken for clean (08 R178). -/
def execPatrolRead (line : Nat) (outcome : Fin 5) (s : State) : Host.Outcome State Fault Refusal :=
  happen s (fun s => patrolLine s line outcome)

/-- A patrolled word of a core's SRAM (0), a reckoner's SRAM (1) or a granary bin (2). -/
def patrolWord (s : State) (store : Fin 3) (unit off : Nat) (lost : Bool) : State :=
  if store = 0 then
    if h : unit < 576 then
      let c : CoreId := ⟨unit, h⟩
      if lost || s.cores[c].sramBad.contains (off / 8) then
        journalRaw (markLost s (.sram c off)) 0x0804 0 0 0xFF
          (leBytes 1 1 ++ leBytes 2 unit ++ leBytes 4 (off / 8 * 8) ++ leBytes 1 1 ++ leBytes 4 0)
      else markCorrected s (.sram c off)
    else s
  else if store = 1 then
    if h : unit < 32 then
      if lost then reckWord s ⟨unit, h⟩ none (off / 8 * 8) true else countCorrected s 2
    else s
  else
    if h : unit < 512 then
      let b : Fin 512 := ⟨unit, h⟩
      if lost || s.bins[b].bad.contains (off / 8) then granaryLost (markLost s (.granary b off)) b (off / 8 * 8) true none
      else markCorrected s (.granary b off)
    else s

def execSramPatrol (store : Fin 3) (unit off : Nat) (lost : Bool) (s : State) : Host.Outcome State Fault Refusal :=
  happen s (fun s => patrolWord s store unit off lost)

/-! ### The ends of zero fills -/

/-- A map-out entry of the window still waits for its place in flash (08 R185 order 3). -/
def mapOutDue (s : State) (w : Nat) : Bool :=
  s.health.pending.any (fun e => bits e 31 24 == 0 && windowOfChannel s (bits e 15 0) == w)

/-- MAP_OUT_FILL_END: the window is formed again with the shorter list and zero-filled, and holds its journal spill in two
copies (08 R185 orders 4 to 6; `spillKey`). -/
def mapOutFillEnd (s : State) (w : Nat) : State :=
  if s.reforming.contains w && !mapOutDue s w then
    { s with
      hbm := memClear s.hbm (w * windowSpan) ((w + 1) * windowSpan),
      hbmBad := s.hbmBad.filter (fun l => l * 64 / windowSpan != w),
      reforming := s.reforming.erase w,
      channels := Vector.ofFn (fun ch : Fin 256 =>
        if windowOfChannel s ch = w ∧ !s.channels[ch].granting then { s.channels[ch] with inService := false }
        else s.channels[ch]) }
  else s

/-! ### Stack temperature -/

/-- Degrees in 1/16 °C. -/
def deg (t : Int) : Int := 16 * t

/-- 08 R181: the refresh code of a stack, and its counts of readings at least 3 °C below each threshold. -/
def refreshNext (old : Nat) (cool : Nat × Nat) (t : Int) : Nat × Nat × Nat :=
  let c85 := if t ≤ deg 82 then cool.1 + 1 else 0
  let c95 := if t ≤ deg 92 then cool.2 + 1 else 0
  let r := if deg 95 ≤ t || (old = 2 && c95 < 10) then 2
    else if deg 85 ≤ t || (1 ≤ old && c85 < 10) then 1 else 0
  (r, c85, c95)

/-- Main rails fall (19 R417). -/
def mainRailsOff (s : State) : State :=
  { s with power := { s.power with rails := Vector.ofFn (fun r : Fin 16 =>
      if r.val < 13 then { s.power.rails[r] with mv := 0 } else s.power.rails[r]) } }

/-- The module entered FAULT_STOPPED at this bell. -/
def stoppedNow (s : State) : Bool :=
  match s.journal.records.getLast? with
  | some r => r.type == 0x0808 && r.bell == s.bell
  | none => false

/-- 19 R422: a thermal stop. A module that stopped at an earlier bell does not act on it (20 R448); one that a rail short
stops at this bell sets its flag too (19 R432). -/
def thermalStop (s : State) : State :=
  if s.mod.state == .stopped && !stoppedNow s then s else
  let s := { s with power := { s.power with flags := s.power.flags ||| 0x80 } }
  mainRailsOff (faultStop s 0x000A 0xFF 0 0)

/-- THERMAL_REFUSE is set while REFUSING_THERMAL follows from 19 R421 or R422. -/
def flagThermal (s : State) : State :=
  if !s.adm.hotDies.isEmpty || s.adm.railThermal then { s with power := { s.power with flags := s.power.flags ||| 1 } } else s

def stackTemp (s : State) (k : Fin 16) (t : BitVec 16) : State :=
  let x := t.toInt
  let old := (s.channels[16 * k.val]'(by omega)).refresh.toNat
  let (r, c85, c95) := refreshNext old s.sensors.stackCool[k] x
  let s := { s with
    sensors := { s.sensors with stack := s.sensors.stack.set k t, stackCool := s.sensors.stackCool.set k (c85, c95) },
    channels := Vector.ofFn (fun ch : Fin 256 =>
      if ch.val / 16 = k then { s.channels[ch] with refresh := BitVec.ofNat 2 r } else s.channels[ch]) }
  let ceil : Int := deg (cfgTempCeil s)
  let hot := ceil < x || (s.adm.stackHot && !s.sensors.stack.toList.all (fun t => t.toInt ≤ ceil - deg 3))
  let n := if deg 110 < x then s.power.stackStop[k] + 1 else 0
  let s := { s with adm := { s.adm with stackHot := hot }, power := { s.power with stackStop := s.power.stackStop.set k n } }
  if 10 ≤ n then thermalStop s else s

/-- STACK_TEMP_READ: the reading of a stack in 1/16 °C. -/
def execStackTempRead (stack : Fin 16) (temp : BitVec 16) (s : State) : Host.Outcome State Fault Refusal :=
  happen s (fun s => stackTemp s stack temp)

/-! ### Fences and substitution -/

/-- CORE_FENCE for a cause of the *Fence cause table*. Cause 3 is found by the reads themselves; cause 4 is due at 4,096
corrected words within the interval. -/
def coreFence (s : State) (c : CoreId) (cause : Nat) : State :=
  let k := s.cores[c]
  let due : Bool := match cause with
    | 1 | 2 => true
    | 4 => k.sramCorrected.1 == s.bell / 1000000000 && 4096 ≤ k.sramCorrected.2
    | 5 => s.coreMap[c] == .spare
    | _ => false
  if due then fenceCore s c cause else s

def execCoreFence (c : CoreId) (cause : Fin 6) (s : State) : Host.Outcome State Fault Refusal :=
  happen s (fun s => coreFence s c cause)

/-- HANDSHAKE_STALL: cause 2. -/
def execHandshakeStall (c : CoreId) (s : State) : Host.Outcome State Fault Refusal :=
  happen s (fun s => fenceCore s c 2)

/-- SPARE_SELF_TEST: a spare that fails is fenced with cause 5; one that a substitution has taken is not tested (20
R437). -/
def execSpareSelfTest (c : CoreId) (pass : Bool) (s : State) : Host.Outcome State Fault Refusal :=
  happen s (fun s =>
    if s.coreMap[c] == .spare && !s.subs.any (fun u => u.spare == c) then
      let s := s.modCore c Core.leavePlain
      if pass then s else fenceCore s c 5
    else s)

/-- The core's vote for the current step is cast: what the vote took stands for the commit (09 R213). -/
def Core.castVote (k : Core) : Bool := k.run == .voted || k.run == .halting || k.run == .sitsOut

/-- What a spare takes over from the fenced core: its copied SRAM and checkpoint store, and all that the plan gives the
plan core. -/
def Core.takeOver (sp k : Core) : Core :=
  { k with
    sram := k.sram, sramBad := [], sramUncorrectable := sp.sramUncorrectable, sramCorrected := sp.sramCorrected,
    sramLostStep := sp.sramLostStep, counters := sp.counters, topDown := sp.topDown, fault := sp.fault,
    regs := { Regs.reset with s := k.ckpt.s, a := k.ckpt.a, l := k.ckpt.l }, dc := k.ckpt.dc, loops := k.ckpt.loops,
    bundle := k.ckpt.bundle, fromS := k.ckpt.fromS, flagsStep := if k.castVote then k.flagsStep else 0, view := none,
    candidate := if k.castVote then k.candidate else none, moves := [], copies := [],
    issued := [], far := [], ahead := AddrSide.reset, replayVote := k.replayVote, run := if k.castVote || k.run == .idle then k.run else .stopped }

/-- The fenced core no longer belongs to the plan. -/
def Core.leave (k : Core) : Core :=
  { Core.reset with sram := k.sram, sramBad := k.sramBad, sramUncorrectable := k.sramUncorrectable,
                    sramCorrected := k.sramCorrected, counters := k.counters, topDown := k.topDown, fault := k.fault,
                    flagsCommitted := k.flagsCommitted, flagsStep := k.flagsStep }

/-- SUBSTITUTION_COPY_END: `bad` are words of the fenced core's SRAM that the copy finds uncorrectable. -/
def copyEnd (s : State) (c : CoreId) (bad : List Nat) : State :=
  match s.subs.find? (fun u => u.fenced == c) with
  | none => s
  | some u =>
    let s := bad.foldl (fun s w => markLost s (.sram c (8 * w))) s
    let s := { s with subs := s.subs.filter (fun v => v.fenced != c) }
    let pass (s : State) : State := { s with coreMap := s.coreMap.set u.spare (.mapped u.logical) }
    match s.plans[u.plan] with
    | none => pass s
    | some p =>
      if p.teardownCause.isSome then pass s
      else
        match s.cores[c].sramBad with
        | w :: _ =>
          let s := journalPlan s u.plan 0x0804 (leBytes 1 1 ++ leBytes 2 c ++ leBytes 4 (8 * w) ++ leBytes 1 0 ++ leBytes 4 p.step)
          pass (dropPlan s u.plan codeDataLost)
        | [] =>
          let s := { s with cores := (s.cores.set u.spare (s.cores[u.spare].takeOver s.cores[c])).set c s.cores[c].leave }
          journalPlan (pass s) u.plan 0x0405 (leBytes 2 c ++ leBytes 2 u.spare ++ leBytes 2 u.logical ++ leBytes 4 p.step)

def execSubstitutionCopyEnd (c : CoreId) (bad : List Nat) (s : State) : Host.Outcome State Fault Refusal :=
  happen s (fun s => copyEnd s c bad)

/-- ROUTER_STALL and PACKAGE_FAULT (20 R443). -/
def execRouterStall (s : State) : Host.Outcome State Fault Refusal := happen s (fun s => faultStop s 0x000C 0xFF 0 0)
def execPackageFault (s : State) : Host.Outcome State Fault Refusal := happen s (fun s => faultStop s 0x000C 0xFF 0 0)

/-! ### The plough -/

/-- `x -> a x + c` composed with itself, for counts below two to the fuel, modulo 2^32. -/
def lcgPow : Nat → Nat → Nat × Nat
  | 0, _ => (1, 0)
  | fuel + 1, n =>
    let h := lcgPow fuel (n / 2)
    let sq : Nat × Nat := (h.1 * h.1 % 2 ^ 32, (h.1 * h.2 + h.2) % 2 ^ 32)
    if n % 2 = 1 then (1664525 * sq.1 % 2 ^ 32, (1664525 * sq.2 + 1013904223) % 2 ^ 32) else sq

/-- Content of line `l`, the `pos`-th visited, under a pattern (*Plough pattern table*). -/
def patternLine (pat seed l pos : Nat) : Bytes :=
  if pat = 0 then List.replicate 64 0
  else if pat = 1 then List.replicate 64 0xFF
  else if pat = 2 then List.replicate 64 (if l % 2 = 0 then 0x55 else 0xAA)
  else if pat = 3 then List.replicate 64 (BitVec.ofNat 8 (2 ^ (l % 8)))
  else if pat = 4 then (List.range 8).flatMap (fun w =>
    let v := (l * 8 + w) % 2 ^ 32
    leBytes 4 v ++ leBytes 4 (2 ^ 32 - 1 - v))
  else
    (List.range 16).flatMap (fun w =>
      let f := lcgPow 36 (16 * pos + w)
      leBytes 4 ((f.1 * seed + f.2) % 2 ^ 32))

/-- A plough run, from PLOUGH_CTL and PLOUGH_ARG. -/
structure PloughRun where
  lines : Nat
  loops : Nat
  pattern : Nat
  op : Nat
  down : Bool
  crypt : Bool
  inject : Nat
  seed : Nat
  start : Nat

def ploughRun (r : BitVec 64 × BitVec 64) : PloughRun :=
  let c := r.1.toNat
  let a := r.2.toNat
  ⟨bits c 58 32 + 1, bits c 31 27 + 1, bits c 26 24, bits c 23 22, bits c 21 21 == 1, bits c 20 20 == 1, bits c 19 18,
   bits a 63 32, bits a 26 0⟩

def PloughRun.legal (r : PloughRun) : Bool := r.start + r.lines - 1 ≤ 75497471 && r.pattern < 6 && r.inject != 3
def PloughRun.covers (r : PloughRun) (l : Nat) : Bool := r.start ≤ l && l < r.start + r.lines
def PloughRun.pos (r : PloughRun) (l : Nat) : Nat := if r.down then r.start + r.lines - 1 - l else l - r.start
def PloughRun.line (r : PloughRun) (pos : Nat) : Nat := if r.down then r.start + r.lines - 1 - pos else r.start + pos

/-- The XTS tweak of a line: T = stack x 2^31 + channel x 2^27 + channel line index, where a channel is numbered
stack x 16 + channel (08 R177, R186). -/
def lineTweak (ch l : Nat) : Nat := ch / 16 * 2 ^ 31 + ch % 16 * 2 ^ 27 + l

/-- What the run stores in a line, before any injected error. -/
def PloughRun.stored (r : PloughRun) (key ch l : Nat) : Bytes :=
  let b := patternLine r.pattern r.seed l (r.pos l)
  if r.crypt then xtsEncrypt (leBytes 64 key) (lineTweak ch l) b else b

/-- The 68 symbols that stand in a line after the write, with the injected error. -/
def PloughRun.symbols (r : PloughRun) (key ch l : Nat) : Bytes :=
  let c := lineEncode (r.stored key ch l)
  if r.inject = 1 then lineFlip 0 0xFF c else if r.inject = 2 then lineFlip 37 0xFF (lineFlip 0 0xFF c) else c

/-- What the decoder makes of a line that a run has written: 0 clean, 1 corrected, 2 uncorrectable, and whether the line
that it delivers differs from what was stored. -/
def PloughRun.decoded (w : PloughRun) (key ch l : Nat) : Nat × Bool :=
  match lineDecode (w.symbols key ch l) with
  | .clean b => (0, b != w.stored key ch l)
  | .corrected b => (1, b != w.stored key ch l)
  | .uncorrectable => (2, false)

/-- One checked read: whether it mismatches and whether it was corrected. `odd` is what the channel did instead of
returning the stored line with its injected error, as `decoded` answers. Of a line that no run has written, what is not
known is free. -/
def ploughRead (r : PloughRun) (key ch l : Nat) (src : Option PloughRun) (odd : Option (Nat × Bool)) (free : Nat) : Bool × Bool :=
  match src with
  | none =>
    let o := (odd.map (·.1)).getD (free / 2 % 3)
    ((o == 2 && r.inject != 2) || free % 2 == 1, o == 1)
  | some w =>
    let (o, differs) := odd.getD (w.decoded key ch l)
    let bad := (o != 2 && (differs || r.stored key ch l != w.stored key ch l)) || (o == 2 && r.inject != 2)
      || (w.inject == 1 && o == 0) || (w.inject == 2 && o != 2)
    (bad, o == 1)

/-- The counts of a run: MISMATCH, CORRECTED and the first mismatch. -/
def ploughCount (k : Plough) (key ch free : Nat) (odd : List (Nat × Nat × Nat × Bool)) : Nat × Nat × Option Nat :=
  let r := ploughRun k.active
  let writes := r.op == 0
  let one (acc : Nat × Nat × Option Nat) (n : Nat) : Nat × Nat × Option Nat :=
    let pass := n / r.lines
    let l := r.line (n % r.lines)
    let src := if writes then some r else (k.written.map ploughRun).find? (fun w => w.covers l)
    let x := (odd.find? (fun e => e.1 == pass && e.2.1 == l)).map (fun e => e.2.2)
    let (bad, corr) := ploughRead r key ch l src x (Config.freeNat (free + n))
    let bad := bad && r.op != 3
    (acc.1 + bad.toNat, acc.2.1 + corr.toNat, if bad then acc.2.2.or (some l) else acc.2.2)
  if r.op = 1 then (0, 0, none) else (List.range (r.loops * r.lines)).foldl one (0, 0, none)

/-- PLOUGH_DONE. -/
def ploughDone (s : State) (ch : Fin 256) (odd : List (Nat × Nat × Nat × Bool)) : State :=
  let k := s.channels[ch].plough
  if k.state ≠ 1 then s
  else
    let r := ploughRun k.active
    let (m, c, first) := ploughCount k s.mod.hbmKey ch s.free odd
    let k' : Plough := { k with state := 2, fail := m != 0, firstFail := BitVec.ofNat 27 (first.getD 0),
                                mismatch := BitVec.ofNat 16 (min m 0xFFFF), corrected := BitVec.ofNat 16 (min c 0xFFFF),
                                written := if r.op ≤ 1 then k.active :: k.written else k.written }
    { s with free := s.free + r.loops * r.lines, channels := s.channels.set ch { s.channels[ch] with plough := k' } }

def execPloughDone (ch : Fin 256) (odd : List (Nat × Nat × Nat × Bool)) (s : State) : Host.Outcome State Fault Refusal :=
  happen s (fun s => ploughDone s ch odd)

/-- The RW fields of PLOUGH_CTL and of PLOUGH_ARG. -/
def ctlMask : BitVec 64 := 0x07FFFFFFFFFC0000
def argMask : BitVec 64 := 0xFFFFFFFF07FFFFFF

/-- Write a plough register; a GO while the plough runs is ignored, and an illegal one aborts (08 R188, R189). -/
def Plough.put (k : Plough) (ctl arg : BitVec 64) : Plough :=
  { k with ctl := ctl &&& ctlMask, arg := arg &&& argMask }

def Plough.go (k : Plough) : Plough :=
  if k.state = 1 then k
  else if (ploughRun (k.ctl, k.arg)).legal then
    { k with active := (k.ctl, k.arg), state := 1, fail := false, firstFail := 0, mismatch := 0, corrected := 0 }
  else { k with state := 3, fail := true, firstFail := 0, mismatch := 0, corrected := 0 }

/-- PLOUGH (17 R386). -/
def execPlough (h : HostHdr) (ch : Nat) (ctl arg : BitVec 64) (s : State) : Host.Outcome State Fault Refusal :=
  .next (hostRequest s h 0x2B (fun _ k => isOwner k) (fun s _ =>
    if hc : ch < 256 then
      let c := s.channels[ch]
      if c.inService || c.granting then hostReply s h 0x2B codeRole []
      else
        let k := c.plough.put ctl arg
        hostReply { s with channels := s.channels.set ch { c with plough := if ctl.getLsbD 0 then k.go else k } } h 0x2B 0 []
    else hostReply s h 0x2B codeFrame []))

/-- REGISTER_WRITE: PLOUGH_CTL without GO, or PLOUGH_ARG, of a mapped-out channel. -/
def execRegisterWrite (ch : Fin 256) (arg : Bool) (value : BitVec 64) (s : State) : Host.Outcome State Fault Refusal :=
  happen s (fun s =>
    let c := s.channels[ch]
    if c.inService || c.granting then s
    else
      let k := c.plough
      { s with channels := s.channels.set ch { c with plough := if arg then k.put k.ctl value else k.put value k.arg } })

/-! ### Summaries -/

/-- CORRECTED_SUMMARY of an interval that has ended (20 R441). -/
def correctedSummary (s : State) : State :=
  let k := s.counting
  if s.bell < k.correctedStart + 1000000000 then s
  else
    let s' := if k.corrected.toList.all (· == 0) then s
      else journalRaw s 0x0807 0 0 0xFF (leBytes 8 k.correctedStart ++ k.corrected.toList.flatMap (leBytes 4))
    { s' with counting := { s'.counting with
        corrected := .replicate 7 0, correctedStart := s.bell / 1000000000 * 1000000000 } }

def execCorrectedSummary (s : State) : Host.Outcome State Fault Refusal := happen s correctedSummary

/-- The first `n` of a list of (key, count), with (0, 0) for what is missing. -/
def padPairs (n : Nat) (l : List (Nat × Nat)) : List (Nat × Nat) := (l ++ List.replicate n (0, 0)).take n

/-- REFUSAL_SUMMARY of a second that has ended (10 R237): codes in rising order; rings with most refusals first. -/
def refusalSummary (s : State) : State :=
  let a := s.adm
  if s.bell < a.secondStart + 1000000000 then s
  else
    let codes := padPairs 12 (a.byCode.mergeSort (fun x y => x.1 ≤ y.1))
    let rings := padPairs 10 (a.byRing.mergeSort (fun x y => y.2 < x.2 || (x.2 == y.2 && x.1 ≤ y.1)))
    let put (l : List (Nat × Nat)) : Bytes := l.flatMap (fun e => leBytes 2 e.1 ++ leBytes 4 e.2)
    let s' := if a.byCode.isEmpty then s else journalRaw s 0x0303 0 0 0xFF (leBytes 8 a.secondStart ++ put codes ++ put rings)
    { s' with adm := { s'.adm with byCode := [], byRing := [], secondStart := s.bell / 1000000000 * 1000000000 } }

def execRefusalSummary (s : State) : Host.Outcome State Fault Refusal := happen s refusalSummary

end Sys2Proof.Machine
end

