-- ==== Sys2Proof/Machine/Power.lean ====
section
/-! DEFINITION. The input (19 R410-R413), the power manager (10 R234, R235; 19 R414, R420, R421; 18 R406), rail
protection (19 R417-R419), die temperatures (19 R422) and the reference (19 R427). -/

namespace Sys2Proof.Machine
open Sys2Proof

/-- An event of the power stage: nothing happens in a module without power. -/
def powered (s : State) (f : State → State) : Host.Outcome State Fault Refusal :=
  .next (if s.power.inputOk then (if serving s then attend s (f s) else f s) else s)

/-! ### The input -/

/-- 19 R411: a dip of at most 0.5 ms, in microseconds, is ridden through. -/
def execInputDip (us : Nat) (s : State) : Host.Outcome State Fault Refusal :=
  powered s (fun s => if us ≤ 500 then { s with power := { s.power with flags := s.power.flags ||| 4 } } else s)

/-- 19 R411: a power loss; the input is absent for `ms` milliseconds, at least 1 s of which closes the fuse (R413) and
ends the dark of a shorted control rail (R418). -/
def inputLoss (s : State) (ms : Nat) : State :=
  let fuse := s.power.fuseOpen && ms < 1000
  let s := beginAgain s true
  { s with power := { s.power with fuseOpen := fuse, dark := false } }

def execInputLoss (ms : Nat) (s : State) : Host.Outcome State Fault Refusal := .next (inputLoss s ms)

/-- 19 R413: the electronic fuse opens; nothing is reported. -/
def openFuse (s : State) : State :=
  let s := beginAgain s true
  { s with power := { s.power with fuseOpen := true } }.emit .fuse

/-- 19 R411: above 72 V, or above 60 V for more than 10 ms. -/
def execInputSurge (mv us : Nat) (s : State) : Host.Outcome State Fault Refusal :=
  .next (if s.power.inputOk && (72000 < mv || (60000 < mv && 10000 < us)) then openFuse s else s)

/-- 19 R413: an input current above 110 A. -/
def execInputOvercurrent (ma : Nat) (s : State) : Host.Outcome State Fault Refusal :=
  .next (if s.power.inputOk && 110000 < ma then openFuse s else s)

/-- 19 R412. -/
def execInputReversed (s : State) : Host.Outcome State Fault Refusal :=
  let s := beginAgain s true
  .next { s with power := { s.power with reversed := true } }

/-! ### Sensors (18 R406, R407) -/

/-- What the 100 ms window sums: input voltage and power, then voltage and current of each rail. -/
def powerFigures (p : PowerReading) : List Nat :=
  [p.inputV.toNat, p.inputW1ms.toNat] ++ p.railV.toList.map (·.toNat) ++ p.railA.toList.map (·.toNat)

/-- A quotient whose rounding the specification does not give. -/
def freeQuot (r a b : Nat) : Nat := a / b + (if a % b = 0 then 0 else r % 2)

def addLists : List Nat → List Nat → List Nat
  | [], l => l
  | l, [] => l
  | a :: t, b :: u => (a + b) :: addLists t u

/-- One sample in each millisecond; the averages of a 100 ms window stand once it ends. -/
def sample (s : State) (p : PowerReading) : State :=
  let k := s.sensors
  if k.samples ≠ 0 ∧ k.bell / 1000000 = s.bell / 1000000 then s
  else
    let (r, s) := takeFree s
    let w := s.bell / 100000000
    let ended := k.samples ≠ 0 ∧ k.window ≠ w
    let avg := if ended then k.sums.zipIdx.map (fun e => freeQuot (r / 2 ^ e.2) e.1 k.samples) else k.averages
    let k' := { k with
      rates := p.rates, input := #v[p.inputV, p.inputA, p.inputW1ms], railV := p.railV, railA := p.railA, bell := s.bell,
      window := w, samples := if ended then 1 else k.samples + 1,
      sums := if ended then (powerFigures p) else addLists k.sums (powerFigures p), averages := avg }
    { s with sensors := k' }

/-! ### The power manager -/

/-- The lowest setting, in steps of 10 mV, that is not below the voltage of R234. -/
def floorMv (vf : BitVec 16) : Nat := (vf.toNat + 9) / 10 * 10

/-- One step of at most 10 mV toward a setting, within 550-850 mV. -/
def stepMv (v want : Nat) : Nat :=
  let w := min 850 (max 550 want)
  if v < w then min (v + 10) w else max (v - 10) w

/-- 19 R421: where the power manager takes a core rail: over-power, cap pressure, relief, or neither. -/
def wantMv (excess pressure relief : Bool) (v vf : Nat) : Nat :=
  let top := max 750 vf
  if excess then 550 else if pressure then vf else if relief then top else min (max v vf) top

/-- The core rails are on. -/
def coreRails (s : State) : List (Fin 4) := (List.finRange 4).filter (fun r => (s.power.rails[r.val]'(by omega)).mv != 0)

def railMv (s : State) (r : Fin 4) : Nat := (s.power.rails[r.val]'(by omega)).mv

/-- Input power beyond the limits of R414. -/
def beyondLimits (p : PowerReading) : Bool := 3600 < p.inputW5ms.toNat || 4300 < p.inputWNow.toNat

/-- Set the core rails (19 R414, R421). -/
def setCoreRails (s : State) (p : PowerReading) : State :=
  let cap := s.adm.capW
  let sealed := s.mod.startStep == 10
  let on := coreRails s
  let low := !on.isEmpty && on.all (fun r => railMv s r ≤ floorMv p.vf[r])
  let excess := beyondLimits p && (s.power.overPower || low)
  let pressure := sealed && cap < p.inputW1ms.toNat
  let relief := !sealed || p.inputW1ms.toNat * 100 ≤ cap * 97
  let rails := Vector.ofFn (fun r : Fin 16 =>
    let k := s.power.rails[r]
    if h : r.val < 4 then
      if k.mv = 0 then k
      else { k with mv := stepMv k.mv (wantMv excess pressure relief k.mv (floorMv (p.vf[r.val]'h))) }
    else k)
  { s with power := { s.power with
      rails := rails, overPower := excess, flags := if excess then s.power.flags ||| 8 else s.power.flags } }

/-- The admission bits that follow from the rails (10 R235, R236; 19 R421). -/
def railAdmission (s : State) (p : PowerReading) : State :=
  let on := coreRails s
  let atFloor := on.any (fun r => railMv s r ≤ floorMv p.vf[r])
  let hot := on.any (fun r => 850 < p.vf[r].toNat) || (s.adm.railThermal && on.any (fun r => 840 ≤ p.vf[r].toNat))
  let ms := s.bell / 1000000
  let clear := if ms = s.power.msWindow then s.adm.powerClear
    else if p.inputW1ms.toNat * 100 ≤ s.adm.capW * 97 then s.adm.powerClear + 1 else 0
  let bites := atFloor && s.adm.capW < p.inputW1ms.toNat
  flagThermal { s with
    adm := { s.adm with railAtFloor := atFloor, railThermal := hot, powerClear := if bites then 0 else clear,
                        powerLimited := bites || (s.adm.powerLimited && clear < 10) },
    power := { s.power with msWindow := ms } }

/-- POWER_MANAGER_TICK, every 10 µs. -/
def powerTick (s : State) (p : PowerReading) : State :=
  let n := if 4300 < p.inputWNow.toNat then s.power.surgeTicks + 1 else 0
  let s := { s with power := { s.power with surgeTicks := n } }
  let s := setCoreRails (sample s p) p
  if s.mod.startStep = 10 then railAdmission s p else s

/-- Above 4,300 W for more than 100 µs the fuse opens (19 R414). -/
def execPowerManagerTick (p : PowerReading) (s : State) : Host.Outcome State Fault Refusal :=
  if s.power.inputOk && 4300 < p.inputWNow.toNat && 10 ≤ s.power.surgeTicks then .next (openFuse s)
  else powered s (fun s => powerTick s p)

/-! ### Rail protection -/

/-- A thermal stop stopped the module at this bell: with a rail short it is one FAULT_STOPPED with the code of the rail
short (19 R432). -/
def thermalNow (s : State) : Bool := s.mod.state == .stopped && s.mod.failCode == 0x000A && stoppedNow s

/-- RAIL_SHORT of a main rail: phase, and its current in 0.1 A. -/
def mainShort (s : State) (rail phase amps : Nat) : State :=
  let s := { s with power := { s.power with flags := s.power.flags ||| 16 } }
  let s := if thermalNow s then { s with mod := { s.mod with failCode := 0x0009 } } else s
  mainRailsOff (faultStop s 0x0009 rail phase amps)

/-- A shorted control rail takes every rail down; the module is dark until the input is removed (19 R418). -/
def controlShort (s : State) : State :=
  let s := beginAgain s true
  { s with power := { s.power with dark := true } }

def execRailShort (rail : Fin 16) (phase amps : Nat) (s : State) : Host.Outcome State Fault Refusal :=
  if rail.val < 13 then powered s (fun s => if s.power.rails[rail].mv = 0 && !thermalNow s then s else mainShort s rail phase amps)
  else .next (if s.power.inputOk then controlShort s else s)

/-- SENSE_OPEN: the setting rises by the rail's current times its path resistance (19 R419). -/
def senseOpen (s : State) (rail : Fin 16) : State :=
  let k := s.power.rails[rail]
  if k.mv = 0 then s
  else
    let raise := s.sensors.railA[rail].toNat * Config.pathMicroOhm rail / 100000
    { s with power := { s.power with
        flags := s.power.flags ||| 32,
        rails := s.power.rails.set rail { mv := if k.onLocalSense then k.mv else k.mv + raise, onLocalSense := true } } }

def execSenseOpen (rail : Fin 16) (s : State) : Host.Outcome State Fault Refusal := powered s (fun s => senseOpen s rail)

/-! ### Die temperatures -/

/-- The sensors that hold REFUSING_THERMAL, after a reading. -/
def hotNext (l : List (Nat × Nat)) (k : Nat) (x : Int) : List (Nat × Nat) :=
  if deg 105 < x then (l.filter (fun e => e.1 != k)) ++ [(k, 0)]
  else l.filterMap (fun e =>
    if e.1 = k then (if x ≤ deg 102 then (if 9 ≤ e.2 then none else some (k, e.2 + 1)) else some (k, 0)) else some e)

def thermalReading (s : State) (k : Fin 64) (t : BitVec 16) : State :=
  let x := t.toInt
  let n := if deg 115 < x then s.power.dieStop[k] + 1 else 0
  let s := flagThermal { s with
    sensors := { s.sensors with die := s.sensors.die.set k t },
    adm := { s.adm with hotDies := hotNext s.adm.hotDies k x },
    power := { s.power with dieStop := s.power.dieStop.set k n } }
  if 10 ≤ n then thermalStop s else s

/-- THERMAL_READING of a die sensor in 1/16 °C. -/
def execThermalReading (sensor : Fin 64) (temp : BitVec 16) (s : State) : Host.Outcome State Fault Refusal :=
  powered s (fun s => thermalReading s sensor temp)

/-! ### The reference -/

/-- REFERENCE_MISSING: held at step 3, or FAULT_STOPPED with REFERENCE_LOST. -/
def referenceMissing (s : State) : State :=
  let s := { s with power := { s.power with flags := s.power.flags ||| 64 } }
  if s.mod.state == .starting && s.mod.startStep == 3 then
    { s with bellRunning := false, mod := { s.mod with failCode := 8 } }
  else
    let s := faultStop s 0x000B 0xFF 0 0
    { s with bellRunning := false }

def execReferenceMissing (s : State) : Host.Outcome State Fault Refusal := powered s referenceMissing

end Sys2Proof.Machine
end

