-- ==== Sys2Proof/Machine/Links.lean ====
section
/-! DEFINITION. Fabric ports: the link protocol (11 R249, R250), routing (R241, R248, R251-R253; 13 R297), training and
retraining (R243, R244; 15 R348), TIME (R267) and the summary of drops (R268). -/

namespace Sys2Proof.Machine
open Sys2Proof

/-- The module's ports carry frames: in service, and while step 8 waits for the seal. -/
def carries (s : State) : Bool := serving s || (s.mod.state == .starting && s.mod.startStep == 8)

def linkEvent (s : State) (f : State → State) : Host.Outcome State Fault Refusal :=
  .next (if carries s then (if serving s then attend s (f s) else f s) else s)

def State.modPort (s : State) (p : Fin 32) (f : Port → Port) : State := { s with ports := s.ports.set p (f s.ports[p]) }

def Port.count (q : Port) (event n : Nat) : Port :=
  { q with counters := q.counters.map (fun (k : Counter) => k.count event n) }

/-! ### Sending (11 R249, R250) -/

/-- REQUEST, CONTINUE, REPLY and CHUNK frames are payload (18 R405). -/
def payloadFrame (f : Frame) : Bool := [1, 2, 3, 5].contains f.typ.toNat

def Port.credit (q : Port) (f : Frame) : Nat := q.credits.toList.getD f.cls.toNat 0

def Port.canSend (q : Port) (f : Frame) : Bool := q.state == 2 && q.replayBuf.length < 1024 && 0 < q.credit f

/-- A direction's key is replaced at every multiple of 2^40 frames (15 R348). -/
def linkRekey (key count : Nat) : Nat :=
  if count % 2 ^ 40 = 0 then leNat ((sha512 (leBytes 32 key ++ leBytes 8 count)).take 32) else key

/-- The link field of a frame with its count: it acknowledges what has been received in sequence. -/
def Port.linkField (q : Port) (count : Nat) : LinkField := ⟨BitVec.ofNat 24 count, BitVec.ofNat 24 q.rxCount, false, 0, 0⟩

/-- Put a frame on the link with the next count; the first frame of a direction has count 1. -/
def transmit (s : State) (p : Fin 32) (e : Queued) : State :=
  let q := s.ports[p]
  let n := q.txCount + 1
  let key := linkRekey q.keyTx n
  let body := sealFrame key n e.frame
  (s.modPort p (fun q => { q.count 0x300 1 with
    txCount := n, keyTx := key, replayBuf := q.replayBuf ++ [⟨n, e.frame, e.arrival, body, s.bell, 0⟩],
    credits := q.credits.setIfInBounds e.frame.cls.toNat (q.credit e.frame - 1),
    bwTx := if payloadFrame e.frame then q.bwTx + 224 else q.bwTx })).emit (.port p (wireOf e.frame body (q.linkField n)))

/-- The oldest frame of a class, where the class's credits and the replay buffer let it leave. -/
def Port.ready (q : Port) (c : Nat) : Option Queued := q.queue.find? (fun e => e.frame.cls.toNat == c && q.canSend e.frame)

/-- The frame granted next (01 R29): class 0 before 1 before 2, but at least 1 grant of 16 to class 1 and 1 of 256 to class 2
while it waits, due when the others have had 15 or 254 (notes/assumptions/7.md). No class waits for another's credits. -/
def Port.grant (q : Port) : Option Queued :=
  (if 15 ≤ q.since1 then q.ready 1 else none) <|> (if 254 ≤ q.since2 then q.ready 2 else none)
    <|> q.ready 0 <|> q.ready 1 <|> q.ready 2

/-- The grants counted after one. -/
def Port.granted (q : Port) (e : Queued) : Port :=
  { q with
    queue := q.queue.erase e,
    since1 := if e.frame.cls = 1 ∨ (q.ready 1).isNone then 0 else q.since1 + 1,
    since2 := if e.frame.cls = 2 ∨ (q.ready 2).isNone then 0 else q.since2 + 1 }

/-- Grant frames of a port's queue, at most as many as the count. -/
def pumpTimes (p : Fin 32) : Nat → State → State
  | 0, s => s
  | n + 1, s =>
    match s.ports[p].grant with
    | some e => pumpTimes p n (transmit (s.modPort p (·.granted e)) p e)
    | none => s

def pump (s : State) (p : Fin 32) : State := pumpTimes p s.ports[p].queue.length s

def sendOn (s : State) (p : Fin 32) (f : Frame) (arrival : Option (Fin 32)) : State :=
  pump (s.modPort p (fun q => { q with queue := q.queue ++ [⟨f, arrival⟩] })) p

/-! ### Routing (11 R241, R248, R251-R253) -/

/-- Low bits of a place that LEVEL leaves out of the comparison. -/
def levelShift : Nat → Nat
  | 0 => 0 | 1 => 2 | 2 => 6 | 3 => 11 | 4 => 16 | _ => 22

def routeTakes (e : RouteEntry) (f : Frame) : Bool :=
  e.valid && e.job == f.job && e.level.toNat ≤ 5 && e.place >>> levelShift e.level.toNat == f.dst >>> levelShift e.level.toNat

/-- The matching entry with the lowest LEVEL. -/
def routeOf (s : State) (f : Frame) : Option RouteEntry :=
  (s.routes.toList.filter (fun (e : RouteEntry) => routeTakes e f)).foldl (fun b e =>
    match b with
    | some x => if e.level.toNat < x.level.toNat then some e else b
    | none => some e) none

def routeIsLocal (s : State) (e : RouteEntry) : Bool := e.ports == 0 && e.level == 0 && e.place.toNat == cfgPlace s

/-- Fields, from HALL downward, in which two places agree. -/
def agreement (a b : BitVec 22) : Nat := ([16, 11, 6, 2, 0].takeWhile (fun n => a >>> n == b >>> n)).length

/-- Up ports that a test picks, but for the port of arrival. -/
def upPorts (s : State) (arrival : Option (Fin 32)) (pick : Fin 32 → Bool) : List (Fin 32) :=
  (List.finRange 32).filter (fun p => pick p && s.ports[p].state == 2 && arrival != some p)

/-- The port with the best figure, the lowest on a tie. -/
def leastBy (f : Fin 32 → Nat) (l : List (Fin 32)) : Option (Fin 32) :=
  l.foldl (fun b p =>
    match b with
    | some q => if f p < f q then some p else b
    | none => some p) none

/-- Where a frame goes. -/
inductive Hop where
  | here
  | port (p : Fin 32)
  /-- dropped for a reason of R253: 1 no matching entry, 2 no port up, 3 age -/
  | drop (reason : Nat)
  /-- dropped where received and counted (R248) -/
  | unknown
  /-- dropped where received (R241) -/
  | badPlace
  deriving DecidableEq, Repr

/-- Age of a frame's copy, modulo 2^32. -/
def age (s : State) (f : Frame) : Nat := (s.bell + 2 ^ 32 - f.issueBell.toNat) % 2 ^ 32

/-- The port for a frame among candidates: the fewest frames queued in its class. -/
def fewestQueued (s : State) (f : Frame) : List (Fin 32) → Option (Fin 32) :=
  leastBy (fun p => s.ports[p].queue.countP (fun g => g.frame.cls == f.cls))

/-- The neighbour rule for CONTROL frames of job id 0 before its entries exist (13 R297). -/
def neighbour (s : State) (f : Frame) (arrival : Option (Fin 32)) : Hop :=
  if f.dst.toNat = cfgPlace s then .here
  else match leastBy (fun p => 5 - agreement s.ports[p].peerPlace f.dst) (upPorts s arrival (fun _ => true)) with
    | some p => .port p
    | none => .drop 2

def hopOf (s : State) (f : Frame) (arrival : Option (Fin 32)) : Hop :=
  if f.dst.toNat / 2 ^ 20 ≠ 0 ∨ f.src.toNat / 2 ^ 20 ≠ 0 then .badPlace
  else if 8 ≤ f.typ.toNat ∨ f.cls = 3 then .unknown
  else
    let aged (h : Hop) : Hop := if 40000 < age s f then .drop 3 else h
    if f.job = 0 ∧ f.typ = 6 ∧ !s.routes.toList.any (fun e => e.valid && e.job == 0) then
      match neighbour s f arrival with
      | .drop r => .drop r
      | h => aged h
    else match routeOf s f with
      | none => .drop 1
      | some e =>
        if routeIsLocal s e then aged .here
        else match fewestQueued s f (upPorts s arrival (fun p => e.ports.getLsbD p)) with
          | some p => aged (.port p)
          | none => .drop 2

/-- Count a drop by reason and job (11 R253), and on the port of arrival. -/
def countDrop (s : State) (reason : Nat) (f : Frame) : State :=
  let k := s.endpoint
  let same (e : Nat × Nat × Nat) : Bool := e.1 == reason && e.2.1 == f.job.toNat
  let l := if k.drops.any same then k.drops.map (fun e => if same e then (e.1, e.2.1, e.2.2 + 1) else e)
    else k.drops ++ [(reason, f.job.toNat, 1)]
  { s with endpoint := { k with drops := l } }

def countPortDrop (s : State) (arrival : Option (Fin 32)) : State :=
  match arrival with
  | some p => s.modPort p (·.count 0x305 1)
  | none => s

/-- Deliver, forward or drop a frame. -/
def routeFrame (s : State) (f : Frame) (arrival : Option (Fin 32)) : State :=
  match hopOf s f arrival with
  | .here => s.emit (.deliver f)
  | .port p => sendOn s p f arrival
  | .drop r => countPortDrop (countDrop s r f) arrival
  | .unknown => countPortDrop s arrival
  | .badPlace => s

/-! ### Receiving (11 R249) -/

/-- A count that the 24 bits of an acknowledgement cover. -/
def acked (ack : BitVec 24) (count : Nat) : Bool := (ack - BitVec.ofNat 24 count).toNat < 2 ^ 23

/-- Replay frames of the buffer: the same content and count, in a frame with a new acknowledgement. -/
def replayFrames (s : State) (p : Fin 32) (pick : Sent → Bool) : State :=
  let l := s.ports[p].replayBuf.filter pick
  if l.isEmpty then s
  else
    let s := s.modPort p (fun q => { (q.count 0x300 l.length).count 0x302 l.length with
      replayBuf := q.replayBuf.map (fun e => if pick e then { e with bell := s.bell, tries := e.tries + 1 } else e),
      replays := q.replays + l.length })
    l.foldl (fun s e => s.emit (.port p (wireOf e.frame e.body (s.ports[p].linkField e.count)))) s

/-- Acknowledgement, credits and NAK of a link field. -/
def takeLink (s : State) (p : Fin 32) (l : LinkField) : State :=
  let s := s.modPort p (fun q => { q with
    replayBuf := q.replayBuf.filter (fun e => !acked l.ackSeq e.count),
    credits := q.credits.setIfInBounds l.cls.toNat (min 64 (q.credits.toList.getD l.cls.toNat 0 + l.credits.toNat)) })
  pump (if l.nak then replayFrames s p (fun _ => true) else s) p

/-- A NAK with the highest frame received in sequence. -/
def sendNak (s : State) (p : Fin 32) : State := s.emit (.idle p s.ports[p].rxCount true 0 0)

/-- The frame that a port's next count gives 256 bytes: none where the CRC or the tag fails, or the count is another. -/
def Port.opens (q : Port) (wire : Bytes) : Option Frame :=
  let n := q.rxCount + 1
  if wireCrcGood wire && (wireLink wire).txSeq == BitVec.ofNat 24 n then openFrame (linkRekey q.keyRx n) n wire else none

/-- A frame has arrived in sequence: it is acknowledged and its buffer's credit returns. -/
def accept (s : State) (p : Fin 32) (l : LinkField) (f : Frame) : State :=
  let n := s.ports[p].rxCount + 1
  let s := (s.modPort p (fun q => { q.count 0x301 1 with
    rxCount := n, keyRx := linkRekey q.keyRx n, bwRx := if payloadFrame f then q.bwRx + 224 else q.bwRx })).emit
      (.idle p n false f.cls.toNat 1)
  takeLink s p l

/-! ### Time (11 R267) -/

/-- The domain's time source: its primary reeve, and for the primary of a twin's side B that of side A (13 R296, R312). -/
def timeSource (s : State) : Nat :=
  if cfgTwin s && cfgTwinSideB s && s.domain.primary == cfgPlace s then cfgTwinPrimary s else s.domain.primary

/-- The up port whose peer lies nearest to the time source: its bell is the one followed (notes/assumptions/28.md). -/
def timePort (s : State) : Option (Fin 32) :=
  leastBy (fun p => 5 - agreement s.ports[p].peerPlace (BitVec.ofNat 22 (timeSource s))) (upPorts s none (fun _ => true))

/-- A peer's TIME frame: its transmit bell, and the receive bell of this module's last. The offset of the peer's bell follows
with the link's delay taken out. -/
def timeTake (s : State) (p : Fin 32) (f : Frame) : State :=
  let sent := leNat (f.content.take 8)
  let received := leNat ((f.content.drop 8).take 8)
  let mine := s.ports[p].timeSent
  let off : Int := (((received : Int) - mine) + ((sent : Int) - s.bell)) / 2
  { s.modPort p (fun q => { q with timeReceived := s.bell }) with
    timeError := if mine = 0 ∨ received = 0 ∨ timePort s ≠ some p then s.timeError else off }

/-- What becomes of a frame taken from a port: TIME ends here, unless its places or class are illegal; IDLE carries nothing
further; every other frame is routed. -/
def takeFrame (s : State) (p : Fin 32) (f : Frame) : State :=
  if f.typ = 0 then s
  else if f.typ = 7 then
    match hopOf s f (some p) with
    | .badPlace => s
    | .unknown => countPortDrop s (some p)
    | _ => timeTake s p f
  else routeFrame s f (some p)

/-- 256 bytes arrive on a port: discarded with a NAK where they fail their CRC or tag or come out of sequence. -/
def receive (s : State) (p : Fin 32) (wire : Bytes) : State :=
  if s.ports[p].state ≠ 2 then s
  else
    match s.ports[p].opens wire with
    | none => sendNak s p
    | some f => takeFrame (accept s p (wireLink wire) f) p f

/-- FRAME_ROUTE: a frame received on a port as its 256 bytes, or issued by this module. -/
def frameRoute (s : State) (wire : Bytes) : FrameSource → State
  | .received p => receive s p wire
  | .issued output frame =>
    match issuedFrame s output frame with
    | some f => routeFrame s f none
    | none => s

def execFrameRoute (src : FrameSource) (wire : Bytes) (s : State) : Host.Outcome State Fault Refusal :=
  linkEvent s (fun s => frameRoute s wire src)

/-- IDLE: acknowledgements, credits or a NAK; a damaged one is answered with a NAK. The nonce of an IDLE frame's tag is not
given, so the outcome of that check comes with the frame (notes/assumptions/28.md). -/
def idle (s : State) (p : Fin 32) (wire : Bytes) (tag : Bool) : State :=
  if s.ports[p].state ≠ 2 then s
  else if wireCrcGood wire && tag then takeLink s p (wireLink wire)
  else sendNak s p

def execIdle (f : IdleFrame) (s : State) : Host.Outcome State Fault Refusal :=
  linkEvent s (fun s => idle s f.port f.wire f.tag)

/-- LINK_ACK_TIMEOUT: frames without acknowledgement 2,000 bells after they were sent are replayed. -/
def execLinkAckTimeout (p : Fin 32) (s : State) : Host.Outcome State Fault Refusal :=
  linkEvent s (fun s =>
    if s.ports[p].state ≠ 2 then s else replayFrames s p (fun e => decide (e.bell + 2000 ≤ s.bell)))

/-! ### Training (11 R243, R244; 15 R348) -/

/-- PORT_WIDTH where a port's WIDTH or STATE changes. -/
def setPort (s : State) (p : Fin 32) (q : Port) : State :=
  let old := s.ports[p]
  let s := { s with ports := s.ports.set p q }
  if old.width = q.width ∧ old.state = q.state then s
  else journalRaw s 0x0503 0 0 0xFF (leBytes 1 p ++ leBytes 1 old.width.toNat ++ leBytes 1 q.width.toNat
    ++ leBytes 1 q.state.toNat ++ leBytes 1 q.laneMask.toNat ++ leBytes 4 q.peerPlace.toNat)

/-- WIDTH and LANE_MASK: four lanes; two lanes, 0-1 before 2-3; the lowest lane that works; or none. -/
def laneChoice (lanes : BitVec 4) : Nat × Nat :=
  if lanes = 0xF then (3, 0xF)
  else if lanes.getLsbD 0 && lanes.getLsbD 1 then (2, 0x3)
  else if lanes.getLsbD 2 && lanes.getLsbD 3 then (2, 0xC)
  else match [0, 1, 2, 3].find? (fun k => lanes.getLsbD k) with
    | some k => (1, 2 ^ k)
    | none => (0, 0)

/-- A port without lanes: down or failed. -/
def Port.dark (q : Port) (state : BitVec 2) : Port :=
  { q with state := state, width := 0, laneMask := 0, secure := false, keyTx := 0, keyRx := 0 }

/-- A direction's key from the half-secrets and nonces of the end with the lower place and the other. -/
def linkKey (ze zf ne nf : Bytes) (b : Nat) : Nat := leNat ((sha512 (ze ++ zf ++ ne ++ nf ++ leBytes 1 b)).take 32)

/-- The body of a certificate: its layout, SIGNER, signer's key and TARGET, and its signature (15 R343-R345). -/
def certBody (type signer keyDigest target : Nat) (b : Bytes) : Option Bytes :=
  let h := leNat (b.take 32)
  let n := bits h 127 96
  let at_ := 552 + (n + 7) / 8 * 8
  let key := (b.drop 32).take 520
  if bits h 31 0 = objMagic ∧ bits h 47 32 = 0 ∧ bits h 63 48 = 1 ∧ bits h 79 64 = type ∧ bits h 87 80 = 0 ∧ b.length = at_ + 512
      ∧ bits h 95 88 = signer ∧ digestOf key = keyDigest ∧ bits h 191 128 = target ∧ rsaVerify key (b.take at_) (b.drop at_) then
    some ((b.drop 552).take n)
  else none

/-- The identity key block that an IDENTITY_CERT of VENDOR_ROOT names; the certificate's TARGET is that key's. -/
def peerIdentity (s : State) (cert : Bytes) : Option Bytes :=
  let key := (cert.drop 552).take 520
  (certBody 5 0 s.fuses.vendorRoot (digestOf key % 2 ^ 64) cert).map (fun _ => key)

/-- The body of the peer's TRANSPORT_CERT, signed by its identity key. -/
def peerTransport (identity cert : Bytes) : Option Bytes :=
  certBody 6 5 (digestOf identity) (digestOf identity % 2 ^ 64) cert

/-- The transport key block, place, and active owner slots in a TRANSPORT_CERT's body, as `transportCert` arranges it. -/
def certTransportKey (body : Bytes) : Bytes := body.take 520
def certPlace (body : Bytes) : Nat := leNat ((body.drop 524).take 4)
def certActive (body : Bytes) : List Nat :=
  ((List.range 4).filter (fun k => leNat ((body.drop 784).take 1) / 4 ^ k % 4 == 1)).map (fun k =>
    leNat ((body.drop (528 + 64 * k)).take 64))

def activeSlots (s : State) : List Nat := (s.fuses.slots.toList.filter (fun e => e.1 == 1)).map (·.2)

/-- What a half-secret's signature covers (notes/assumptions/48.md): both nonces, the receiver's first, the ciphertext and
the digest of the transport key that it is encrypted under. -/
def secretMessage (receiver sender cipher transport : Bytes) : Bytes :=
  sha512 (receiver ++ sender ++ cipher ++ leBytes 64 (digestOf transport))

/-- The number of the first of R348's three conditions that the peer fails, or its certified keys: identity and transport. -/
def peerChecks (s : State) (t : TrainFacts) : Except Nat (Bytes × Bytes) :=
  match peerIdentity s t.identity with
  | none => .error 1
  | some id =>
    match peerTransport id t.transport with
    | none => .error 1
    | some b =>
      if certPlace b ≠ t.peerPlace.toNat then .error 2
      else if !(certActive b).any (fun d => (activeSlots s).contains d) then .error 3
      else .ok (id, certTransportKey b)

/-- The peer's half-secret, signed by its identity key and encrypted under this module's transport key. -/
def peerSecret (s : State) (t : TrainFacts) (identity own : Bytes) : Option Bytes :=
  let start := s.mod.startCount
  if rsaVerify identity (secretMessage own t.nonce t.secret (keyBlockOf (Config.transportKey start))) t.signature then
    (oaepDecrypt (Config.transportKey start).1 (Config.transportPrivate start) t.secret).bind (fun z =>
      if z.length = 32 then some z else none)
  else none

/-- The port comes up with a new session: both directions' keys from the half-secrets and nonces. -/
def portUp (s : State) (p : Fin 32) (t : TrainFacts) (lanes : Nat × Nat) (zOwn zPeer nOwn : Bytes) : State :=
  let low := decide (cfgPlace s < t.peerPlace.toNat)
  let key (b : Nat) : Nat := if low then linkKey zOwn zPeer nOwn t.nonce b else linkKey zPeer zOwn t.nonce nOwn b
  let q := s.ports[p]
  setPort s p { q with
    peerPlace := t.peerPlace, peerPort := t.peerPort, laneMask := BitVec.ofNat 4 lanes.2, width := BitVec.ofNat 2 lanes.1,
    state := 2, secure := true, keyTx := key (if low then 1 else 2), keyRx := key (if low then 2 else 1), txCount := 0,
    rxCount := 0, replayBuf := [], since1 := 0, since2 := 0, credits := .replicate 3 64, timeSent := 0, timeReceived := 0,
    lastTrain := s.bell }

/-- LINK_REFUSED, and the port stays down. -/
def linkRefused (s : State) (p : Fin 32) (down : Port) (t : TrainFacts) (check : Nat) : State :=
  journalRaw (setPort s p down) 0x070F 0 0 0xFF (leBytes 1 p ++ leBytes 4 t.peerPlace.toNat ++ leBytes 1 check)

/-- The exchange of R348: certificates and nonce; then, with a peer that passes the three conditions, the half-secrets. The
check number of a half-secret that fails is not given (a free value). -/
def portExchange (s : State) (p : Fin 32) (t : TrainFacts) (lanes : Nat × Nat) (down : Port) : State :=
  let draw (k n : Nat) : Bytes := leBytes n (Config.randomNat (s.free + k) n)
  let nOwn := draw 0 32
  let s := { s with free := s.free + 4 }.emit (.trainCerts p Config.identityCert (transportCert s) nOwn)
  match peerChecks s t with
  | .error n => linkRefused s p down t n
  | .ok (id, transport) =>
    let zOwn := draw 1 32
    let cipher := oaepEncrypt transport zOwn (draw 2 64)
    let sig := rsaSign Config.identityKey.1 Config.identityPrivate (secretMessage t.nonce nOwn cipher transport) (draw 3 64)
    let s := s.emit (.trainSecret p cipher sig)
    match peerSecret s t id nOwn with
    | some zPeer => portUp s p t lanes zOwn zPeer nOwn
    | none =>
      let (check, s) := takeFree s
      linkRefused s p down t check

/-- PORT_TRAIN of a port that is not up. A port that meets its own place, or whose peer fails R348, stays down. -/
def portTrain (s : State) (p : Fin 32) (t : TrainFacts) : State :=
  let q := s.ports[p]
  if q.state = 2 || !(cfgPortEnable s).testBit p then s
  else
    let lanes := laneChoice t.lanes
    let met := { q with peerPlace := t.peerPlace, peerPort := t.peerPort, lastTrain := s.bell }
    if lanes.1 = 0 then setPort s p ({ q with lastTrain := s.bell }.dark 3)
    else if t.peerPlace.toNat = cfgPlace s then setPort s p (met.dark 0)
    else portExchange s p t lanes (met.dark 0)

def execPortTrain (p : Fin 32) (t : TrainFacts) (s : State) : Host.Outcome State Fault Refusal :=
  linkEvent s (fun s => portTrain s p t)

/-- A port goes down to train: its unacknowledged and queued frames are routed again, each still barred from the port on
which it arrived (R252). -/
def portDown (s : State) (p : Fin 32) : State :=
  let q := s.ports[p]
  let l := q.replayBuf.map (fun e => (⟨e.frame, e.arrival⟩ : Queued)) ++ q.queue
  let s := setPort s p { q.dark 1 with replayBuf := [], queue := [], since1 := 0, since2 := 0, retrains := q.retrains + 1 }
  (l.filter (fun e => e.frame.typ != 0 && e.frame.typ != 7)).foldl (fun s e => routeFrame s e.frame e.arrival) s

/-- PORT_RETRAIN: a frame that has been replayed eight times without acknowledgement (0), uncorrectable codewords (1) or a
lost signal (2). -/
def execPortRetrain (p : Fin 32) (cause : Fin 3) (s : State) : Host.Outcome State Fault Refusal :=
  linkEvent s (fun s =>
    if s.ports[p].state = 2 ∧ (cause ≠ 0 ∨ s.ports[p].replayBuf.any (fun e => 8 ≤ e.tries)) then portDown s p else s)

/-- PORT_WIDEN_ATTEMPT, 10 s after the last training of a narrowed port. -/
def execPortWidenAttempt (p : Fin 32) (s : State) : Host.Outcome State Fault Refusal :=
  linkEvent s (fun s =>
    let q := s.ports[p]
    if q.state = 2 ∧ q.width ≠ 3 ∧ q.lastTrain + 10000000000 ≤ s.bell then portDown s p else s)

/-! ### TIME frames and the bell (11 R267) -/

/-- TIME_SEND: every 100,000 bells, the transmit bell and the receive bell of the peer's last TIME frame. The frame's
class is not given. -/
def timeSend (s : State) (p : Fin 32) : State :=
  let q := s.ports[p]
  if q.state ≠ 2 || s.bell < q.timeSent + 100000 then s
  else
    let (r, s) := takeFree s
    let f := ownFrame s 0 q.peerPlace 7 (r % 3) (leBytes 8 s.bell ++ leBytes 8 q.timeReceived)
    sendOn (s.modPort p (fun q => { q with timeSent := s.bell })) p f none

def execTimeSend (p : Fin 32) (s : State) : Host.Outcome State Fault Refusal := linkEvent s (fun s => timeSend s p)

/-- TIME: a peer's frame. -/
def execTimeFrame (p : Fin 32) (wire : Bytes) (s : State) : Host.Outcome State Fault Refusal :=
  linkEvent s (fun s => receive s p wire)

/-- One tick of the bell, once it runs. A module that is not the time source moves its bell by one more or one less than a
tick, toward the source, in one tick of 2,000 at most (notes/assumptions/28.md). -/
def tick (s : State) : State :=
  if !s.bellRunning then s
  else if s.timeError = 0 ∨ timeSource s = cfgPlace s ∨ s.steerTicks + 1 < 2000 then
    { s with bell := s.bell + 1, steerTicks := s.steerTicks + 1 }
  else if 0 < s.timeError then { s with bell := s.bell + 2, steerTicks := 0, timeError := s.timeError - 1 }
  else { s with steerTicks := 0, timeError := s.timeError + 1 }

/-! ### Summary of drops (11 R253, R268) -/

def dropSummary (s : State) : State :=
  let k := s.endpoint
  if s.bell < k.dropStart + 1000000000 then s
  else
    let total (r : Nat) : Nat := ((k.drops.filter (fun e => e.1 == r)).map (fun e => e.2.2)).sum
    let jobs := (k.drops.map (fun e => e.2.1)).dedup.mergeSort (fun a b => a ≤ b)
    let s' := if k.drops.isEmpty then s else
      journalRaw s 0x0504 0 0 0xFF (leBytes 4 (total 1) ++ leBytes 4 (total 2) ++ leBytes 4 (total 3)
        ++ (jobs.take 16).flatMap (fun j =>
          leBytes 2 j ++ leBytes 4 ((k.drops.filter (fun e => e.2.1 == j)).map (fun e => e.2.2)).sum))
    { s' with endpoint := { s'.endpoint with drops := [], dropStart := s.bell / 1000000000 * 1000000000 } }

def execDropSummary (s : State) : Host.Outcome State Fault Refusal := happen s dropSummary

end Sys2Proof.Machine
end

