-- ==== Sys2Proof/Machine/Mgmt.lean ====
section
/-! DEFINITION. The management port (18 R407, R408; 16 R366, R370, R378; 15 R346), and what bulk transfers and staged
regions share (16 R365; 17 R389). -/

namespace Sys2Proof.Machine
open Sys2Proof

def codeFlash : Nat := 0x3019

/-! ### Transfers -/

def Transfer.start (target device region total : Nat) : Transfer := ⟨target, device, region, total, [], [], none, none⟩

/-- Bytes arrive in any order; a byte sent twice keeps its last value. -/
def Transfer.take (t : Transfer) (off : Nat) (data : Bytes) : Transfer :=
  { t with data := memWrite 0 t.data off data, got := if data.isEmpty then t.got else t.got ++ [(off, data.length)] }

/-- The end of the run of received bytes that starts at `a`. -/
def coveredTo : Nat → List (Nat × Nat) → Nat → Nat
  | 0, _, a => a
  | fuel + 1, l, a =>
    match l.find? (fun r => r.1 ≤ a && a < r.1 + r.2) with
    | some r => coveredTo fuel l (r.1 + r.2)
    | none => a

/-- Every byte from 0 to TOTAL - 1 is present. -/
def Transfer.whole (t : Transfer) : Bool := t.total ≤ coveredTo (t.got.length + 1) t.got 0
def Transfer.bytes (t : Transfer) : Bytes := memRead 0 t.data 0 t.total

/-- A signed object's TYPE belongs to the region (16 R365). -/
def typeFits (region : Nat) (b : Bytes) : Bool :=
  leNat (b.take 4) != objMagic || region > 4 || bits (leNat (b.take 16)) 79 64 == region

/-! ### The port -/

def mgmtReply (s : State) (status : Nat) (content : Bytes) : State := s.emit (.mgmt status content)

/-- A message on the management port: answered while the control rails stand; a bad PEC is not acted on. -/
def mgmt (s : State) (pec : Bool) (f : State → State) : Host.Outcome State Fault Refusal :=
  .next (if s.power.inputOk && s.power.rails[14].mv != 0 && pec then (if serving s then attend s (f s) else f s) else s)

def sealed (s : State) : Bool := s.mod.startStep == 10

/-- GET_STATE. -/
def execGetState (pec : Bool) (s : State) : Host.Outcome State Fault Refusal :=
  mgmt s pec (fun s => mgmtReply s 0 (leBytes 1 (moduleState s) ++ leBytes 8 (stStart s)
    ++ leBytes 1 (stIdentity s % 256) ++ leBytes 1 s.power.flags.toNat))

/-- A temperature in whole °C; the direction of an exact half is not given. -/
def wholeDeg (r : Nat) (t : BitVec 16) : Nat :=
  let x := t.toInt
  let q := if x % 16 = 8 then x / 16 + ((r % 2 : Nat) : Int) else (x + 8) / 16
  (q % 256).toNat

def averageOf (s : State) (n : Nat) : Nat := s.sensors.averages.getD n 0

/-- A page of TELEMETRY; `r` fills in the roundings that are not given. -/
def mgmtPage (s : State) (page r : Nat) : Option Bytes :=
  let k := s.sensors
  if page = 0 then some (leBytes 2 (freeQuot r (averageOf s 0) 10) ++ leBytes 2 (averageOf s 1)
    ++ leBytes 1 (wholeDeg (r / 2) (hottest k.die.toList)) ++ leBytes 1 (wholeDeg (r / 4) (hottest k.stack.toList)))
  else if page = 1 then some (k.die.toList.zipIdx.flatMap (fun e => leBytes 1 (wholeDeg (r / 2 ^ e.2) e.1)))
  else if page = 2 then some (k.stack.toList.zipIdx.flatMap (fun e => leBytes 1 (wholeDeg (r / 2 ^ e.2) e.1)))
  else if page = 3 then some ((List.finRange 16).flatMap (fun n : Fin 16 =>
    leBytes 2 (if s.power.rails[n].mv = 0 then 0 else averageOf s (2 + n))
      ++ leBytes 2 (freeQuot (r / 2 ^ n.val) (averageOf s (18 + n)) 10)))
  else none

def execMgmtTelemetry (pec : Bool) (page : Nat) (s : State) : Host.Outcome State Fault Refusal :=
  mgmt s pec (fun s =>
    let (r, s) := takeFree s
    match mgmtPage s page r with
    | some b => mgmtReply s 0 b
    | none => mgmtReply s codeFrame [])

/-- GET_CAP, in force after the seal. -/
def execGetCap (pec : Bool) (s : State) : Host.Outcome State Fault Refusal :=
  mgmt s pec (fun s =>
    if sealed s then mgmtReply s 0 (leBytes 2 s.adm.capW ++ leBytes 2 (capMin s) ++ leBytes 2 (capMax s))
    else mgmtReply s codeRole [])

/-- SET_CAP, in force after the seal (16 R370). -/
def execMgmtSetCap (pec : Bool) (watts : Nat) (s : State) : Host.Outcome State Fault Refusal :=
  mgmt s pec (fun s =>
    if !sealed s then mgmtReply s codeRole []
    else match setCap s watts with
      | some s' => mgmtReply s' 0 []
      | none => mgmtReply s 0x2006 [])

/-- The port has taken a RESTART within 10 s. -/
def restartTooSoon (s : State) : Bool :=
  match s.mgmt.lastRestart with
  | some b => s.bell < b + 10000000000
  | none => false

/-- RESTART (16 R378, R380; 18 R408). Before READY and in FAULT_STOPPED there is nothing to drain. -/
def mgmtRestart (s : State) (orderly : Bool) : State :=
  if restartTooSoon s && !(s.draining.isSome && !orderly) then mgmtReply s codeRole []
  else
    let s := { mgmtReply s 0 [] with mgmt := { s.mgmt with lastRestart := some s.bell } }
    if s.mod.state == .starting then beginAgain s false
    else if orderly && s.mod.state != .stopped then orderlyRestart s 0
    else immediateRestart s

def execMgmtRestart (pec orderly : Bool) (s : State) : Host.Outcome State Fault Refusal :=
  mgmt s pec (fun s => mgmtRestart s orderly)

/-- CLAIM_PERMIT, in force while every owner slot is empty (15 R346). -/
def execClaimPermit (pec : Bool) (s : State) : Host.Outcome State Fault Refusal :=
  mgmt s pec (fun s =>
    if slotsEmpty s then mgmtReply { s with fuses := { s.fuses with claimPermit := true } } 0 []
    else mgmtReply s codeRole [])

/-! ### Staging (16 R366; 18 R408) -/

def stagingOpen (s : State) : Bool :=
  !s.fuses.slots.toList.any (fun e => e.1 == 1) || (s.mod.state == .stopped && s.mod.failCode == 1)

def setStaging (s : State) (t : Option (Nat × Transfer)) : State := { s with mgmt := { s.mgmt with staging := t } }

/-- STAGE_BEGIN: regions 1 FIRMWARE and 2 CONFIG. A second transfer is refused. -/
def stageBegin (s : State) (region total : Nat) : State :=
  if !stagingOpen s || !(region == 1 || region == 2) then mgmtReply s codeRole []
  else if s.mgmt.staging.isSome then mgmtReply s codeFrame []
  else if regionSize region < total then mgmtReply s codeFlash []
  else mgmtReply (setStaging s (some (region, Transfer.start 3 0 region total))) 0 []

def execStageBegin (pec : Bool) (region total : Nat) (s : State) : Host.Outcome State Fault Refusal :=
  mgmt s pec (fun s => stageBegin s region total)

/-- STAGE_DATA of up to 240 bytes. -/
def stageData (s : State) (off : Nat) (data : Bytes) : State :=
  if !stagingOpen s then mgmtReply s codeRole []
  else match s.mgmt.staging with
    | none => mgmtReply s codeFrame []
    | some (r, t) =>
      if 240 < data.length then mgmtReply s codeFrame []
      else if t.total < off + data.length then mgmtReply s codeFlash []
      else mgmtReply (setStaging s (some (r, t.take off data))) 0 []

def execStageData (pec : Bool) (off : Nat) (data : Bytes) (s : State) : Host.Outcome State Fault Refusal :=
  mgmt s pec (fun s => stageData s off data)

/-- STAGE_END: the region of FL0 is written, or the transfer ends refused. -/
def stageEnd (s : State) : State :=
  if !stagingOpen s then mgmtReply s codeRole []
  else match s.mgmt.staging with
    | none => mgmtReply s codeFrame []
    | some (r, t) =>
      let s := setStaging s none
      if !t.whole then mgmtReply s codeFrame []
      else if !typeFits r t.bytes then mgmtReply s codeFlash []
      else mgmtReply (flashWrite s 0 (regionBase r) t.bytes) 0 []

def execStageEnd (pec : Bool) (s : State) : Host.Outcome State Fault Refusal := mgmt s pec stageEnd

end Sys2Proof.Machine
end

