-- ==== Sys2Proof/Machine/PlanCheck.lean ====
section
/-! DEFINITION. What a plan image declares (09 R194, R195, R199, R209, R210; 10 R221; 14 R327, R332, R336), and the load
checks that look at the image alone: checks 3 to 10 of the *Load check table* (09 R196). -/

namespace Sys2Proof.Machine
open Sys2Proof

/-! ### Reading the image -/

def word32 (b : Bytes) (off : Nat) : Nat := leNat ((b.drop off).take 4)
/-- Entry `k` of a table of `n`-byte entries that starts at `off`. -/
def entryAt (b : Bytes) (off n k : Nat) : Nat := leNat ((b.drop (off + n * k)).take n)
def entries (b : Bytes) (off n count : Nat) : List Nat := (List.range count).map (entryAt b off n)
/-- A section cut into blocks of `n` bytes. -/
def blocksOf (n : Nat) (b : Bytes) : List Bytes := (List.range (b.length / n)).map (fun k => (b.drop (n * k)).take n)

/-- 09 R194. -/
def planHeader (b : Bytes) : PlanHeader :=
  let h := leNat (b.take 128)
  { imageBytes := bits h 1023 960, seed := bits h 959 896, dirOffs := bits h 831 800, dirCount := bits h 799 792,
    services := bits h 783 768, stepClasses := bits h 767 755, powerW := bits h 735 724, basisChannels := bits h 723 715,
    basisPorts := bits h 714 709, reckMask := bits h 703 672, cartMask := bits h 671 640, regions := bits h 639 627,
    seqSlots := bits h 626 620, granaryBins := bits h 619 610, hbmPages := bits h 609 590, members := bits h 589 576,
    planCores := bits h 575 566, logicalCores := bits h 565 556, sramKib := bits h 555 544, orderFree := bits h 3 3 == 1,
    strict := bits h 2 2 == 1, interleave := bits h 0 0 == 1 }

def inRange (lo hi n : Nat) : Bool := lo ≤ n && n ≤ hi

/-- MAGIC, VERSION, reserved fields and the ranges of the *Plan header field map*. -/
def headerLegal (b : Bytes) : Bool :=
  let h := leNat (b.take 128)
  let p := planHeader b
  128 ≤ b.length && bits h 63 32 == 0x4E414C50 && bits h 31 16 == 1
    && [(895, 832), (791, 784), (754, 736), (708, 704), (543, 64), (15, 4), (1, 1)].all (fun r => bits h r.1 r.2 == 0)
    && p.imageBytes == b.length && p.imageBytes ≤ 2 ^ 32 && p.dirOffs % 8 == 0 && inRange 1 32 p.dirCount
    && inRange 1 256 p.services && inRange 1 8190 p.stepClasses && inRange 1 3600 p.powerW
    && inRange 1 256 p.basisChannels && p.basisPorts ≤ 32 && p.regions ≤ 4096 && p.seqSlots ≤ 64 && p.granaryBins ≤ 512
    && inRange 1 8192 p.members && [384, 448, 512].contains p.logicalCores && inRange 1 p.logicalCores p.planCores
    && inRange 1 3072 p.sramKib

/-- The directory's entries: type, offset, bytes, reserved bits. -/
def directory (b : Bytes) : List (Nat × Nat × Nat × Nat) :=
  let p := planHeader b
  (entries b p.dirOffs 16 p.dirCount).map (fun e => (bits e 15 0, bits e 127 64, bits e 63 32, bits e 31 16))

/-- No two ranges share a byte. -/
def allApart : List (Nat × Nat) → Bool
  | [] => true
  | r :: t => (r.2 == 0 || t.all (fun x => x.2 == 0 || !rangesMeet [r] [x])) && allApart t

def requiredSections : List Nat := [0x1, 0x7, 0x8, 0x9, 0xA, 0xB, 0xC]

/-- 09 R195. -/
def sectionsLegal (b : Bytes) : Bool :=
  let p := planHeader b
  let d := directory b
  p.dirOffs + 16 * p.dirCount ≤ b.length
    && d.all (fun e => inRange 1 12 e.1 && e.2.1 % 8 == 0 && e.2.2.2 == 0 && e.2.1 + e.2.2.1 ≤ b.length)
    && (d.map (·.1)).Nodup
    && allApart ((0, 128) :: (p.dirOffs, 16 * p.dirCount) :: d.map (fun e => (e.2.1, e.2.2.1)))
    && requiredSections.all (fun t => d.any (fun e => e.1 == t))

/-- A section's bytes; empty where the image has none of the type. -/
def section_ (b : Bytes) (type : Nat) : Bytes :=
  match (directory b).find? (fun e => e.1 == type) with
  | some e => (b.drop e.2.1).take e.2.2.1
  | none => []

/-- 09 R199: reserved bits are zero and both lists lie inside the section. -/
def stepClassWhole (sec : Bytes) (cores k : Nat) : Bool :=
  let e := entryAt sec 0 32 k
  bits e 111 0 == 0 && 32 * (k + 1) ≤ sec.length && bits e 191 160 + 8 * cores ≤ sec.length
    && bits e 159 128 + 4 * bits e 127 112 ≤ sec.length
    && (entries sec (bits e 159 128) 4 (bits e 127 112)).all (fun d => bits d 31 18 == 0)

/-- A step class; the lists of an entry that breaks the layout are empty, and check 10 refuses it. -/
def stepClassAt (sec : Bytes) (cores k : Nat) : StepClass :=
  let e := entryAt sec 0 32 k
  let whole := stepClassWhole sec cores k
  { workBound := bits e 255 224, harvAllow := bits e 223 192,
    ranges := if whole then (entries sec (bits e 191 160) 8 cores).map (fun r => (bits r 31 0, bits r 63 32)) else [],
    descs := if whole then (entries sec (bits e 159 128) 4 (bits e 127 112)).map (fun d => (bits d 17 16, bits d 15 0)) else [] }

def allSome {α : Type} : List (Option α) → Option (List α)
  | [] => some []
  | none :: _ => none
  | some a :: t => (allSome t).map (a :: ·)

/-- 09 R209, R210; 10 R221: a service with its I/O record and demand entry. -/
def serviceAt (svc dem : Bytes) (cores k : Nat) : Option Service :=
  let e := entryAt svc 0 16 k
  let o := bits e 31 0
  let io := leNat ((svc.drop o).take 32)
  let d := entryAt dem 0 16 k
  let v : Service :=
    { bound := bits e 127 88, windowSteps := bits e 87 64, kind := bits e 33 32, inBase := bits io 191 144,
      outBase := bits io 255 208, inBytes := bits io 95 72, outBytes := bits io 127 104,
      entries := entries svc (o + 32) 4 cores, slotBells := bits d 127 96, leadBells := bits d 95 64, lanes := bits d 63 48 }
  if svc.length < 16 * (k + 1) ∨ svc.length < o + 32 + 4 * cores ∨ dem.length < 16 * (k + 1) ∨ bits e 63 34 ≠ 0
      ∨ v.kind = 3 ∨ (if v.kind = 2 then v.windowSteps = 0 else v.windowSteps ≠ 0)
      ∨ bits io 207 192 ≠ 0 ∨ bits io 143 128 ≠ 0 ∨ bits io 103 96 ≠ 0 ∨ bits io 71 0 ≠ 0 ∨ v.inBytes = 0 ∨ v.outBytes = 0
      ∨ (v.kind = 2 ∧ v.inBytes < 4) ∨ v.inBase % 64 ≠ 0 ∨ v.outBase % 64 ≠ 0
      ∨ v.slotBells < 1000 ∨ bits d 47 0 ≠ 0 ∨ !inRange 1 (if v.kind = 2 then 64 else 4096) v.lanes then none
  else some v

/-- Share entries: distinct resources of the *Resource code table*, each at most 65,536. -/
def sharesOf (dem : Bytes) (services : Nat) : Option (List (Nat × Nat)) :=
  let rest := dem.drop (16 * services)
  let l := (blocksOf 8 rest).map leNat
  let sh := l.map (fun e => (bits e 63 48, bits e 16 0))
  if rest.length % 8 = 0 ∧ l.all (fun e => bits e 47 17 == 0) ∧ sh.all (fun e => inRange 1 12 e.1 && e.2 ≤ 65536)
      ∧ (sh.map (·.1)).Nodup then some sh else none

/-- A counted table at a byte of the section: its entries and the byte after it. -/
def countedTable (b : Bytes) (off n : Nat) : List Nat × Nat :=
  let c := leNat ((b.drop off).take 8)
  let k := min c (b.length / n)
  (entries b (off + 8) n k, off + 8 + n * c)

def tallyEntry (e : Nat) : TallyEntry := ⟨bits e 127 80, bits e 79 48, bits e 47 35, bits e 31 16⟩
def watchEntry (e : Nat) : WatchEntry :=
  ⟨bits e 127 115, bits e 111 102, bits e 63 32, bits e 95 64, bits e 31 27, BitVec.ofNat 9 (bits e 26 18), bits e 17 16,
   bits e 15 0⟩
def ratioEntry (e : Nat) : RatioEntry :=
  ⟨bits e 255 192, bits e 191 128, BitVec.ofNat 32 (bits e 127 96), bits e 95 80, bits e 0 0 == 1⟩

/-- The three tables that end NUMERICS: entries whose reserved bits are zero, filling the section. -/
def numericsTables (b : Bytes) (off : Nat) : Option (List TallyEntry × List WatchEntry × List RatioEntry) :=
  let (t, o1) := countedTable b off 16
  let (w, o2) := countedTable b o1 16
  let (r, o3) := countedTable b o2 32
  if o3 = b.length ∧ t.all (fun e => bits e 34 32 == 0 && bits e 15 0 == 0)
      ∧ w.all (fun e => bits e 114 112 == 0 && bits e 101 96 == 0) ∧ r.all (fun e => bits e 79 1 == 0) then
    some (t.map tallyEntry, w.map watchEntry, r.map ratioEntry)
  else none

/-- What a plan core declares, from PROGRAMS, CHAINS and NUMERICS. -/
def coreProgram (d : Nat × Bytes × Nat × Bytes) (chains : List (BitVec 320)) (num : Nat × Nat) : CoreProgram :=
  ⟨d.1, d.2.1, d.2.2.1, d.2.2.2, num.1, num.2, chains⟩

/-- The image as read: none where R194, R195 or the arrangement of a section is broken. -/
def planImage (b : Bytes) : Option PlanImage :=
  let h := planHeader b
  let sec := section_ b
  if !(headerLegal b && sectionsLegal b) then none
  else
    match Config.programs (sec 1), Config.addressMap (sec 7), Config.owners (sec 8),
        allSome ((List.range h.services).map (serviceAt (sec 0xA) (sec 0xB) h.planCores)),
        sharesOf (sec 0xB) h.services, Config.numericsHead (sec 0xC) with
    | some progs, some am, some ow, some services, some shares, some (num, off) =>
      match numericsTables (sec 0xC) off, (if (sec 2).isEmpty then some [] else Config.chains (sec 2)),
          (if (sec 4).isEmpty then some [] else Config.reckClasses (sec 4)) with
      | some (tl, wt, rt), some ch, some rc =>
        let nColl := Config.collCount (sec 6)
        let im : PlanImage :=
          { hdr := h, classes := (List.range h.stepClasses).map (stepClassAt (sec 9) h.planCores),
            stepsWhole := (List.range h.stepClasses).all (stepClassWhole (sec 9) h.planCores), services := services,
            cores := progs.zipIdx.map (fun e => coreProgram e.1 (ch.getD e.2 []) (num.getD e.2 (0, 0))),
            pages := am.1.map (fun e => ⟨e.1, e.2⟩), bins := am.2.1,
            regions := am.2.2.1.map (fun r => ⟨r.1, r.2.1, bits r.2.2.1 0 0 == 1, bits r.2.2.1 1 1 == 1,
              bits r.2.2.1 2 2 == 1, bits r.2.2.1 3 3 == 1, r.2.2.2⟩),
            handles := am.2.2.2.map (fun e => ⟨e.1, e.2.1, e.2.2.1, e.2.2.2⟩),
            cartDesc := blocksOf 128 (sec 3), cartOf := Config.cartOf b, reckOf := Config.reckOf b,
            reckClasses := rc.map (fun c => ⟨c.1, c.2⟩), reckDesc := blocksOf 32 (sec 5),
            collDesc := (blocksOf 32 (sec 6)).take nColl,
            collParts := (blocksOf 2 ((sec 6).drop (32 * nColl))).map leNat,
            cartOwner := ow.1, reckOwner := ow.2.1, seqOwner := ow.2.2, shares := shares, tallies := tl, watches := wt,
            ratios := rt }
        if im.cores.length = h.planCores ∧ im.pages.length = h.hbmPages ∧ im.bins.length = h.granaryBins
            ∧ im.regions.length = h.regions ∧ im.seqOwner.length = h.seqSlots ∧ (sec 3).length % 128 = 0
            ∧ (sec 5).length % 32 = 0 ∧ im.cartDesc.length ≤ 65536 ∧ im.reckDesc.length ≤ 65536
            ∧ im.collDesc.length ≤ 65536 then some im else none
      | _, _, _ => none
    | _, _, _, _, _, _ => none

/-! ### The plan to which the checks refer -/

/-- A plan of an image with nothing placed. -/
def Plan.fresh (img : PlanImage) (digest listIndex : Nat) : Plan where
  img := img
  digest := digest
  listIndex := listIndex
  logical := []
  frames := []
  bins := []
  seqs := []
  regionEntries := []
  filled := false
  draining := false
  packages := []
  jobId := 0
  member := 0
  members := 0
  memberPlaces := []
  twin := false
  jobState := .none
  launchBell := none
  goHeld := false
  answers := []
  teardownCause := none
  teardownBell := 0
  step := 0
  attempt := 0
  cls := 0
  openBell := 0
  stepOpen := false
  reopenBell := none
  replayed := false
  replayCause := 0
  voteSent := false
  earlySent := false
  corruptMark := false
  foundBy := (false, false)
  occs := []
  ownResult := none
  heldVotes := []
  treeA := ⟨none, [], [], false⟩
  treeB := ⟨none, [], [], false⟩
  highest := 0
  tallies := img.tallies.map (fun _ => (0, 0))
  history := []
  widen := 0
  widenCkpt := 0
  raised := []
  slotWidened := false
  twinStop := none
  launched := false
  gridBell := 0
  nextSlot := img.services.map (fun _ => 0)
  runs := []
  requests := []

/-- A plan and a state in which every declared place has some place: what the image's own checks translate in. -/
def Plan.assumed (img : PlanImage) : Plan :=
  { Plan.fresh img 0 0 with logical := img.cores.map (fun _ => 0), frames := img.pages.map (fun _ => (0, 0)),
                            bins := List.range img.bins.length }
def assumedState (s : State) : State := { s with coreMap := .replicate 576 (.mapped 0) }

/-! ### Programs -/

/-- The slot words of a bundle. -/
def progWord (prog : Bytes) (n : Nat) (sl : Slot) : BitVec 64 := bundleSlot (BitVec.ofNat 256 (entryAt prog 0 32 n)) sl
def bundles (prog : Bytes) : List Nat := List.range (prog.length / 32)

/-- A register that a slot word writes: file (0 S, 1 A, 2 K, 3 L, 4 V, 5 T), first, count. -/
def slotWrites (chains : List (BitVec 320)) (sl : Slot) (w : BitVec 64) : List (Nat × Nat × Nat) :=
  let op := slotOpcode w
  match sl with
  | .c =>
    let d := (CForm.ofWord w).d.toNat
    if inRange 0x01 0x1A op || op == 0x26 || inRange 0x40 0x44 op then [(0, d, 1)]
    else if inRange 0x20 0x25 op then [(1, d, 1)] else if inRange 0x28 0x2C op then [(2, d, 1)]
    else if op = 0x32 then [(3, d, 1)] else []
  | .x =>
    let f := XForm.ofWord w
    if op = 0x04 then [(4, f.vr.toNat, grpSize f.grp)] else if inRange 0x01 0x05 op then [(5, f.td.toNat, 1)] else []
  | .v =>
    if op = 0 then []
    else if op < 0x30 then
      let f := VEForm.ofWord w
      if op = 0x12 then [(2, f.vd.toNat, 1)]
      else (match f.dstFmt op with
        | some t => [(4, f.vd.toNat, GroupRef.size ⟨0, t.width, countOf f.count⟩)]
        | none => [])
    else if op = 0x30 then
      let f := VCForm.ofWord w
      (match chains[f.chain.toNat]?.bind (fun c => Fmt.ofCode (chainEntry c).fmtO) with
        | some t => if f.nowr then [] else [(4, f.vd.toNat, GroupRef.size ⟨0, t.width, countOf f.count⟩)]
        | none => [])
    else
      let f := VRForm.ofWord w
      (match vrUse op, Fmt.ofCode f.fmt.toNat with
        | some u, some t =>
          if !u.vd then [] else if u.toS then [(0, f.vd.toNat, 1)]
          else [(4, f.vd.toNat, GroupRef.size ⟨0, t.width, countOf f.count⟩)]
        | _, _ => [])
  | .m =>
    let f := MVForm.ofWord w
    if op = 0x01 ∨ op = 0x02 then [(4, f.reg.toNat, grpSize f.grp)]
    else if op = 0x05 then [(4, f.reg.toNat, grpSize f.grp * nfFields f.nf)]
    else if op = 0x08 then [(4, (MGForm.ofWord w).vd.toNat, grpSize (MGForm.ofWord w).grp)]
    else if op = 0x0C then [(0, f.reg.toNat, 1)]
    else if op = 0x10 then [(5, f.reg.toNat, 1)]
    else if op = 0x18 then [(4, (MFForm.ofWord w).reg.toNat, 1)]
    else if op = 0x1A ∧ !(MFForm.ofWord w).discard then [(0, (MFForm.ofWord w).reg.toNat, 1)]
    else []

/-- Two slots of the bundle write one register. -/
def doubleWrite (chains : List (BitVec 320)) (prog : Bytes) (n : Nat) : Bool :=
  let ws := [Slot.c, .x, .v, .m].flatMap (fun sl => slotWrites chains sl (progWord prog n sl))
  [0, 1, 2, 3, 4, 5].any (fun file => !allApart ((ws.filter (fun r => r.1 == file)).map (·.2)))

/-- A counted loop of a program (03 R69): the C.LOOP bundle, the body's first and last bundle, the counter, and whether
its COUNT may be zero and may be more. -/
structure LoopDecl where
  head : Nat
  first : Nat
  last : Nat
  ctr : Nat
  maySkip : Bool
  mayRun : Bool
  deriving DecidableEq, Repr

def loopsOf (prog : Bytes) : List LoopDecl :=
  (bundles prog).filterMap (fun n =>
    let w := progWord prog n .c
    let f := CForm.ofWord w
    let count := f.imm.toNat % 2 ^ 20
    if slotOpcode w = 0x32 then
      some ⟨n, n + 1, n + f.imm.toNat / 2 ^ 20, f.d.toNat % 4, f.useS || count == 0, f.useS || count != 0⟩
    else none)

def LoopDecl.holds (l : LoopDecl) (n : Nat) : Bool := l.first ≤ n && n ≤ l.last

/-- Loops nest, at most 4 deep and with distinct counters, inside the program range. -/
def loopsLegal (prog : Bytes) : Bool :=
  let ls := loopsOf prog
  ls.all (fun l =>
    let outer := ls.filter (fun o => o.holds l.head)
    l.last < prog.length / 32 && outer.all (fun o => l.last ≤ o.last && o.ctr != l.ctr) && outer.length < 4)

/-- Bundle that a branch names. -/
def branchTo (prog : Bytes) (n : Nat) : Int := (n : Int) + (CForm.ofWord (progWord prog n .c)).imm.toInt

/-- A branch stays in the program range and inside the same loop bodies. -/
def branchLegal (prog : Bytes) (n : Nat) : Bool :=
  let op := slotOpcode (progWord prog n .c)
  if op = 0x30 ∨ op = 0x31 then
    let t := branchTo prog n
    0 ≤ t && t < (prog.length / 32 : Nat) && (loopsOf prog).all (fun l => l.holds n == l.holds t.toNat)
  else true

/-- Where control goes when it leaves a bundle in order: the next bundle, or the start of a body that ends there. -/
def after (prog : Bytes) (n : Nat) : List Nat := (n + 1) :: ((loopsOf prog).filter (fun l => l.last == n)).map (·.first)

/-- Successors of a bundle. -/
def successors (prog : Bytes) (n : Nat) : List Nat :=
  let op := slotOpcode (progWord prog n .c)
  if op = 0x30 then [(branchTo prog n).toNat]
  else if op = 0x31 then (branchTo prog n).toNat :: after prog n
  else if op = 0x32 then
    ((loopsOf prog).filter (fun l => l.head == n)).flatMap (fun l =>
      (if l.mayRun then [n + 1] else []) ++ (if l.maySkip then after prog l.last else []))
  else if op = 0x3C then []
  else after prog n

def ownerOf (l : List (Nat × Nat)) (unit : Nat) : Option Nat := (l.find? (fun e => e.1 == unit)).map (·.2)

/-- The plan core that owns the cart or reckoner of a descriptor. -/
def descOwner (im : PlanImage) (unit n : Nat) : Option Nat :=
  if unit = 0 then im.cartOf[n]?.bind (ownerOf im.cartOwner)
  else if unit = 1 then im.reckOf[n]?.bind (ownerOf im.reckOwner) else none

/-- Descriptors in the table of a unit. -/
def descCount (im : PlanImage) (unit : Nat) : Nat :=
  if unit = 0 then im.cartDesc.length else if unit = 1 then im.reckDesc.length else im.collDesc.length

/-- The descriptor that a C slot issues: unit and index. -/
def issueOf (w : BitVec 64) : Option (Nat × Nat) :=
  if slotOpcode w = 0x3A then some ((CForm.ofWord w).unit.toNat, (CForm.ofWord w).imm.toNat % 65536) else none

/-- 03 R57: descriptors, far handles and sequence slots that an instruction names are declared, and owned. -/
def namesDeclared (im : PlanImage) (pc : Nat) (prog : Bytes) (n : Nat) : Bool :=
  let c := progWord prog n .c
  let m := progWord prog n .m
  (match issueOf c with
    | some (u, d) => d < descCount im u && (u == 2 || descOwner im u d == some pc)
    | none => true)
  && (if inRange 0x40 0x44 (slotOpcode c) then
        (match im.seqOwner[(CForm.ofWord c).imm.toNat / 65536 % 64]? with
          | some e => slotOpcode c == 0x40 || e.1 == pc
          | none => false)
      else true)
  && (if inRange 0x18 0x1B (slotOpcode m) then
        im.handles.any (fun h => h.planCore == pc && h.handle == (MFForm.ofWord m).fh.toNat)
      else true)

/-- Exact widening, or the working precision itself (05 R123). -/
def chainInFmts (wide : Bool) : List Fmt :=
  if wide then [.binary64, .binary32, .binary16, .fw16] else [.binary32, .binary16, .fw16, .e4m3, .e5m2, .int8, .uint8]
def chainOutFmts (wide : Bool) : List Fmt :=
  if wide then [.binary64, .binary32, .binary16, .fw16, .int32, .int64, .ledger]
  else [.binary32, .binary64, .binary16, .fw16, .e4m3, .e5m2, .int8, .uint8, .int32]

/-- Operands that a stage operation uses; none for an undefined code or a code of the other precision (05 R122). -/
def stageArity (wide : Bool) (sop : Nat) : Option Nat :=
  if [1, 2, 3, 6, 7].contains sop then some 2
  else if [4, 0xA, 0xB].contains sop then some 3
  else if [5, 8, 9].contains sop then some 1
  else if inRange 0xC 0x10 sop && !wide then some 1
  else if sop = 0x11 ∧ wide then some 2
  else if sop = 0x12 ∧ wide then some 1
  else none

def selectorLegal (stage sel : Nat) : Bool := sel < 4 || (8 ≤ sel && sel < 8 + stage) || (0x20 ≤ sel && sel < 0x40)

/-- A chain entry keeps 05 R121-R123. SAT may be 1 for every integer output; it has no effect, since 02 R38 keeps SAT from
acting on a conversion other than an integer resize (DESIGN CHOICE, notes/assumptions/45.md). -/
def chainLegal (w : BitVec 320) : Bool :=
  let e := chainEntry w
  let v := w.toNat
  let used := e.stages.length
  bits v 63 30 == 0 && v / 2 ^ (64 + 32 * used) == 0
    && e.stages.zipIdx.all (fun st =>
      let (s, k) := st
      bits v (64 + 32 * k + 7) (64 + 32 * k) == 0
      && (match stageArity e.wide s.1 with
        | none => false
        | some n => selectorLegal k s.2.1 && (if 2 ≤ n then selectorLegal k s.2.2.1 else s.2.2.1 == 0)
          && (if n = 3 then selectorLegal k s.2.2.2 else s.2.2.2 == 0)))
    && (match Fmt.ofCode e.fmtO with
      | none => false
      | some t => (chainOutFmts e.wide).contains t && (if t = .ledger then e.outScale ≤ 18 else e.outScale == 0)
          && (!e.sat || [Fmt.int8, .uint8, .int32, .int64].contains t))
    && e.fmtI.zipIdx.all (fun f =>
      if e.inputs.contains f.2 then (match Fmt.ofCode f.1 with | some t => (chainInFmts e.wide).contains t | none => false)
      else f.1 == 0)

/-- A V.CHAIN names a declared entry, with aligned groups and no field of an unused input; and the reductions that it
and other instructions use belong to the core's route (05 R115, R123, R126). -/
def vectorLegal (d : CoreProgram) (n : Nat) : Bool :=
  let w := progWord d.program n .v
  let op := slotOpcode w
  let route := d.vecCtl % 4
  if op = 0x30 then
    let f := VCForm.ofWord w
    match d.chains[f.chain.toNat]? with
    | none => false
    | some c =>
      let e := chainEntry c
      (!f.red || route == 0)
        && ([f.i0, f.i1, f.i2, f.i3].zipIdx.all (fun i => e.inputs.contains i.2 || i.1 == 0))
        && (match Fmt.ofCode e.fmtO with
          | some t => groupsLegal (if f.nowr then none else some ⟨f.vd.toNat, t.width, countOf f.count⟩)
              ((chainGroups f e).filterMap (fun g => g.map (·.2)))
          | none => false)
  else if inRange 0x38 0x3B op then route == 0
  else if inRange 0x3C 0x3E op then route == 1
  else true

/-- Check 6 for one plan core. -/
def programLegal (im : PlanImage) (pc : Nat) (d : CoreProgram) : Bool :=
  d.program.length % 32 == 0 && d.vecCtl % 4 < 2 && d.chains.length ≤ 32 && d.chains.all chainLegal
    && loopsLegal d.program
    && (bundles d.program).all (fun n =>
      bundleDecodes 0 (BitVec.ofNat 256 (entryAt d.program 0 32 n)) && !doubleWrite d.chains d.program n
        && branchLegal d.program n && namesDeclared im pc d.program n && vectorLegal d n)

/-- A V.CVT of a pair that 02 R52 does not list, or with a scale outside 0-18 (05 R115, R119). A format code that R32 does
not list counts as such a pair; in every other V instruction it is a FMT outside the opcode's set, FIT_PROGRAM
(DESIGN CHOICE, notes/assumptions/45.md). -/
def cvtBad (w : BitVec 64) : Bool :=
  if slotOpcode w = 0x20 then
    let f := VEForm.ofWord w
    match Fmt.ofCode f.fmt.toNat, Fmt.ofCode f.fmtd.toNat with
    | some a, some b => !convertible a b || (a == .ledger && 18 < f.vc.toNat % 32) || (b == .ledger && 18 < f.aux.toNat)
        || f.sameLedger a b
    | _, _ => true
  else false

/-- A chain entry that converts between a pair 02 R52 does not list, or to a ledger of a scale outside 0-18 (02 R45). -/
def chainBad (w : BitVec 320) : Bool :=
  let e := chainEntry w
  let pair (src dst : Option Fmt) : Bool :=
    match src, dst with
    | some a, some b => a == b || convertible a b
    | _, _ => false
  e.fmtI.zipIdx.any (fun f => e.inputs.contains f.2 && !pair (Fmt.ofCode f.1) (some e.prec))
    || !pair (some e.prec) (Fmt.ofCode e.fmtO) || (Fmt.ofCode e.fmtO == some .ledger && 18 < e.outScale)

/-- The staging area of a collective (12 R287). -/
def stageRange (d : CollDesc) : Nat × Nat := (baseGranary + d.stage * binBytes, stageBins d * binBytes)

/-- Tally entries keep the *Tally limit table* (14 R327). -/
def talliesLegal (im : PlanImage) : Bool :=
  let place (t : TallyEntry) : Bool :=
    let n := 4 * t.words
    let last := t.base + n - 1
    t.base % 64 == 0 && t.words % 16 == 0 && inRange 1024 4294967280 t.words && t.cls < im.hdr.stepClasses
      && t.layer ≤ 65534 && windowOf t.base == windowOf last
      && (match windowOf t.base with
        | some 0 => last < im.pages.length * pageBytes
            && (List.range (last / pageBytes + 1 - t.base / pageBytes)).all (fun k =>
              match im.pages[t.base / pageBytes + k]? with
              | some d => !d.readOnly
              | none => false)
        | some 2 =>
          let a := t.base - baseShared
          (match im.cores[a / sharedStride]? with
            | some d => a % sharedStride + n ≤ sramBytes
                && !rangesMeet [(a % sharedStride, n)] ([(0, d.program.length), (d.roOffset, d.ro.length)].filter (·.2 != 0))
            | none => false)
        | some 3 => !rangesMeet [(t.base, n)] (im.collDesc.map (fun c => stageRange (collDesc c)))
            && (List.range ((last - baseGranary) / binBytes + 1 - (t.base - baseGranary) / binBytes)).all (fun k =>
            im.bins[(t.base - baseGranary) / binBytes + k]? == some false)
        | _ => false)
  im.tallies.length ≤ 4096 && im.tallies.all place
    && (im.tallies.map (·.cls)).dedup.all (fun c =>
      let l := im.tallies.filter (fun t => t.cls == c)
      l.length ≤ 256 && allApart (l.map (fun t => (t.base, 4 * t.words))))

/-- Ratio entries (14 R336). -/
def ratiosLegal (im : PlanImage) : Bool :=
  let finite (c : Nat) : Bool := c < 0x7FF0000000000000
  im.ratios.length ≤ 256 && (im.ratios.map (·.tensor)).Nodup
    && im.ratios.all (fun r => finite r.hi && finite r.lo && r.lo ≤ r.hi)

/-- Check 5. -/
def formatsLegal (im : PlanImage) (numerics : Bytes) : Bool :=
  Config.numericsFit numerics && talliesLegal im && ratiosLegal im
    && im.cores.all (fun d => (bundles d.program).all (fun n => !cvtBad (progWord d.program n .v))
      && d.chains.all (fun w => !chainBad w))

/-! ### Descriptors -/

/-- Pairs of distinct members of a list. -/
def pairsOf {α : Type} : List α → List (α × α)
  | [] => []
  | a :: t => t.map (fun b => (a, b)) ++ pairsOf t

/-- Byte ranges that a descriptor writes, by physical place (06 R142; 07 R166; 12 R290): the written cells of a cart
descriptor, the output record of a direct reckoner descriptor, the DST of a collective. -/
def descWrites (im : PlanImage) (unit n : Nat) : List (Nat × Nat) :=
  if unit = 0 then
    match im.cartDesc[n]?, descOwner im 0 n with
    | some b, some pc => (cartDesc b).cellRanges pc
    | _, _ => []
  else if unit = 1 then
    match im.reckDesc[n]?, descOwner im 1 n with
    | some b, some pc =>
      let d := reckDesc b
      (match im.reckClasses[d.cls]? with
        | some c => if d.ind then [] else [(canonAddr pc d.out, (qpClass c.data).bytesOut)]
        | none => [])
    | _, _ => []
  else
    match im.collDesc[n]? with
    | some b => let d := collDesc b; [(d.dst, d.elem * (if d.op = 2 then im.hdr.members * d.count else d.count))]
    | none => []

/-- No two descriptors of one step, of the given units, write one byte. -/
def stepRule (im : PlanImage) (units : List Nat) (need : Nat) : Bool :=
  im.classes.all (fun c =>
    (pairsOf (c.descs.dedup.filter (fun d => units.contains d.1))).all (fun e =>
      !(e.1.1 == need || e.2.1 == need) || !rangesMeet (descWrites im e.1.1 e.1.2) (descWrites im e.2.1 e.2.2)))

/-- Check 7 (06 R139, R142). -/
def cartsLegal (s : State) (im : PlanImage) : Bool :=
  im.cartDesc.zipIdx.all (fun e =>
    match descOwner im 0 e.2 with
    | some pc => cartLegal (assumedState s) (Plan.assumed im) pc e.1
    | none => false)
  && stepRule im [0] 0

/-- Check 8 (07 R166). -/
def recksLegal (s : State) (im : PlanImage) : Bool :=
  im.reckClasses.length ≤ 256 && im.reckClasses.all (fun c => qpLegal c.data && c.recks.all (· < 32))
  && (List.range 32).all (fun r =>
    ((im.reckClasses.filter (fun c => c.recks.contains r)).map (fun c => (qpClass c.data).sram)).sum ≤ 1048576)
  && im.reckDesc.zipIdx.all (fun e =>
    match descOwner im 1 e.2, im.reckOf[e.2]? with
    | some pc, some r =>
      let cls := (im.reckClasses[(reckDesc e.1).cls]?).bind (fun c => if c.recks.contains r then some c.data else none)
      reckLegal (assumedState s) (Plan.assumed im) pc e.1 cls
    | _, _ => false)
  && stepRule im [0, 1] 1

/-- Rules of one collective descriptor (12 R271, R274, R290). -/
def collLegal (s : State) (im : PlanImage) (b : Bytes) : Bool :=
  let v := leNat b
  let d := collDesc b
  let n := im.hdr.members
  let srcBytes := d.elem * (if d.op = 1 then n * d.count else d.count)
  let dstBytes := d.elem * (if d.op = 2 then n * d.count else d.count)
  let reach (store : Bool) (a len : Nat) : Bool :=
    a % 64 == 0 && windowOf a != some 1 && windowOf a != some 4 && rangeReach (assumedState s) (Plan.assumed im) 0 store a len
  let same := d.src == d.dst && srcBytes == dstBytes && (d.op == 0 || d.op == 3 || d.op == 4)
  let parts := (im.collParts.drop d.partOffs).take d.partCount
  bits v 83 16 == 0 && bits v 1 0 == 0 && d.op < 5 && d.dtype < 7 && d.func < 3 && d.chunk < 7 && d.count != 0
    && d.chunks n ≤ 2 ^ 32 && (!d.moves || (d.func == 0 && !d.arrival)) && (!d.sat || (d.func == 0 && (d.dtype == 4 || d.dtype == 5)))
    && (if d.op = 3 ∨ d.op = 4 then d.root < n else d.root == 0)
    && reach false d.src srcBytes && reach true d.dst dstBytes
    && (same || !rangesMeet [(d.src, srcBytes)] [(d.dst, dstBytes)])
    && !rangesMeet [(d.src, srcBytes), (d.dst, dstBytes)] (im.collDesc.map (fun c => stageRange (collDesc c)))
    && d.stage % 2 == 0 && d.stage + stageBins d ≤ im.bins.length
    && d.partCount != 0 && parts.length == d.partCount && parts.Nodup && parts.all (fun c => c < im.hdr.planCores)

/-- Check 9 (12 R290). -/
def collsLegal (s : State) (im : PlanImage) : Bool :=
  im.collDesc.all (collLegal s im)
  && im.cores.zipIdx.all (fun e => (bundles e.1.program).all (fun n =>
    match issueOf (progWord e.1.program n .c) with
    | some (2, d) => (match im.collDesc[d]? with
      | some b => (((im.collParts.drop (collDesc b).partOffs).take (collDesc b).partCount)).contains e.2
      | none => false)
    | _ => true))
  && im.classes.all (fun c =>
    let cs := (c.descs.dedup.filter (fun d => d.1 == 2)).filterMap (fun d => im.collDesc[d.2]?)
    cs.length ≤ 64 && allApart (cs.map (fun b => stageRange (collDesc b)))
      && cs.all (fun b => c.descs.all (fun d =>
        !rangesMeet [stageRange (collDesc b)] (descWrites im d.1 d.2))))
  && stepRule im [0, 1, 2] 2

/-! ### Step classes (09 R199; 14 R332) -/

/-- Non-empty ranges of a plan core, with their class. -/
def rangesOf (im : PlanImage) (pc : Nat) : List (Nat × Nat × Nat) :=
  (im.classes.zipIdx.map (fun c => (c.2, c.1.ranges.getD pc (1, 0)))).filter (fun r => r.2.1 ≤ r.2.2)

def isFirst (im : PlanImage) (pc n : Nat) : Bool := (rangesOf im pc).any (fun r => r.2.1 == n)

/-- The rules of a bundle of plan core `pc`: one range, the harvest where the range ends, transfers, and issues. -/
def bundleStepLegal (im : PlanImage) (pc : Nat) (prog : Bytes) (n : Nat) : Bool :=
  match (rangesOf im pc).filter (fun r => r.2.1 ≤ n && n ≤ r.2.2) with
  | [(c, f, l)] =>
    let op := slotOpcode (progWord prog n .c)
    (n == l) == (op == 0x3B || op == 0x3C)
      && (successors prog n).all (fun t => if n = l then isFirst im pc t else f ≤ t && t ≤ l)
      && (match issueOf (progWord prog n .c) with
        | some d => (match im.classes[c]? with | some k => k.descs.contains d | none => false)
        | none => true)
  | _ => false

/-- Watches (14 R332). -/
def watchesLegal (im : PlanImage) : Bool :=
  im.watches.length ≤ 4096 && im.watches.all (fun w =>
    w.trigger != 0 && w.from_ < 2
      && (match im.classes[w.cls]? with
        | some c => (match c.ranges[w.planCore]? with
          | some (f, l) => f ≤ w.first && w.first ≤ w.last && w.last ≤ l
          | none => false)
        | none => false)
      && im.watches.all (fun o => o.watch != w.watch
        || (o.cls == w.cls && o.from_ == w.from_ && o.trigger == w.trigger && o.layer == w.layer)))

/-- Check 10. -/
def stepsLegal (im : PlanImage) : Bool :=
  im.stepsWhole
  && im.cores.zipIdx.all (fun e => (bundles e.1.program).all (bundleStepLegal im e.2 e.1.program)
    && (rangesOf im e.2).all (fun r => r.2.2 < e.1.program.length / 32))
  && im.services.all (fun v => v.entries.zipIdx.all (fun e => isFirst im e.2 e.1))
  && im.classes.all (fun c => c.descs.all (fun d => d.1 < 3 && d.2 < descCount im d.1))
  && watchesLegal im

/-! ### Check 3 -/

/-- An instruction or collective whose result depends on an order that nothing fixes (11 R257; 12 R276; 14 R322). A
region that SOLE binds to the issuing plan core counts as bound where it names a member of the job: which member runs the
image is not known at load (notes/assumptions/9.md). -/
def orderFreeWord (im : PlanImage) (pc : Nat) (m : BitVec 64) : Bool :=
  let f := MFForm.ofWord m
  slotOpcode m == 0x0B || (slotOpcode m == 0x1A
    && (f.aop == 3 || f.aop == 4 || (f.aop == 0 && f.typ == 1) || !f.discard)
    && !((im.handles.find? (fun h => h.planCore == pc && h.handle == f.fh.toNat)).bind (fun h => im.regions[h.region]?)).any
      (fun r => match r.sole with | some (m, core) => core == pc && m < im.hdr.members | none => false))

def holdsOrderFree (im : PlanImage) : Bool :=
  im.cores.zipIdx.any (fun e => (bundles e.1.program).any (fun n => orderFreeWord im e.2 (progWord e.1.program n .m)))
  || im.collDesc.any (fun b => let d := collDesc b; d.arrival && d.func == 0 && !d.moves && d.dtype < 4)

/-- The areas of a service (09 R210). -/
def areasOf (v : Service) : List (Nat × Nat) :=
  [(v.inBase, 2 * v.lanes * stride v.inBytes), (v.outBase, 2 * v.lanes * stride v.outBytes)]

/-- An area lies in writable pages, or in one plan core's SRAM clear of its program and read-only ranges. -/
def areaLegal (im : PlanImage) (r : Nat × Nat) : Bool :=
  if r.1 < topHbm then
    r.1 + r.2 ≤ im.pages.length * pageBytes
      && (List.range ((r.1 + r.2 - 1) / pageBytes + 1 - r.1 / pageBytes)).all (fun k =>
        match im.pages[r.1 / pageBytes + k]? with
        | some d => !d.readOnly
        | none => false)
  else if baseShared ≤ r.1 then
    let a := r.1 - baseShared
    match im.cores[a / sharedStride]? with
    | some d => a % sharedStride + r.2 ≤ sramBytes
        && !rangesMeet [(a % sharedStride, r.2)] ([(0, d.program.length), (d.roOffset, d.ro.length)].filter (·.2 != 0))
    | none => false
  else false

/-- Check 3 beyond the reading of the image. -/
def imageLegal (im : PlanImage) : Bool :=
  (im.services.flatMap areasOf).all (areaLegal im) && allApart (im.services.flatMap areasOf)
    && im.hdr.orderFree == holdsOrderFree im

end Sys2Proof.Machine
end

