-- ==== Sys2Proof/Machine/PlanLoad.lean ====
section
/-! DEFINITION. Plan load (09 R196, R197; 08 R174-R176, R193; 01 R20; 20 R440), weight packages (15 R349, R350) and bulk
transfers (17 R389; 16 R365). -/

namespace Sys2Proof.Machine
open Sys2Proof

/-! ### Free resources (09 R197) -/

/-- Frames of a window: 4.5 GiB for each channel, less the reserve (08 R173-R175). -/
def windowFrames (s : State) (w : Nat) : Nat :=
  (channelList s w).length * 2304 - (if cfgPackage s then 512 else 128)

def heldFrames (s : State) (w : Nat) : List Nat :=
  (loadedPlans s).flatMap (fun p => (p.frames.filter (fun f => f.1 == w)).map (·.2))

/-- Windows of the interleave mode. -/
def windows (s : State) : List Nat := if cfgPackage s then [0] else [0, 1, 2, 3]

def freeFrameCount (s : State) (w : Nat) : Nat := windowFrames s w - (heldFrames s w).length

/-- The lowest `k` free frames of a window. -/
def freeFrames (s : State) (w k : Nat) : List Nat :=
  let held := heldFrames s w
  ((List.range (min (windowFrames s w) (k + held.length))).filter (fun f => !held.contains f)).take k

/-- Logical cores that a die has free: mapped to a usable core and held by no plan. -/
def freeLogical (s : State) (d : Nat) : List (Fin 512) :=
  (List.finRange 512).filter (fun l => l.val / 128 == d
    && (match physicalOf s l with
      | some c => s.cores[c].plan.isNone
      | none => false))

def freeBins (s : State) (die : Nat) : List Nat :=
  ((List.finRange 512).filter (fun b : Fin 512 => b.val / 256 == die && s.bins[b].inService && s.bins[b].holder.isNone)).map (·.val)

def freeSeqs (s : State) : List Nat := ((List.finRange 64).filter (fun q : Fin 64 => s.seqSlots[q].plan.isNone)).map (·.val)

def freeRegions (s : State) : List Nat :=
  let held := (loadedPlans s).flatMap (·.regionEntries)
  (List.range 4096).filter (fun r => !held.contains r)

/-- Pages of the image in a window; in package mode every page lies in window 0. -/
def pageWindow (s : State) (d : PageDecl) : Nat := if cfgPackage s then 0 else d.window
def pagesIn (s : State) (im : PlanImage) (w : Nat) : Nat := im.pages.countP (fun d => pageWindow s d == w)

def shareOf (l : List (Nat × Nat)) (r : Nat) : Nat := ((l.find? (fun e => e.1 == r)).map (·.2)).getD 0

/-- A cart or reckoner of the masks is in service and free. -/
def masksFree (s : State) (im : PlanImage) : Bool :=
  (List.finRange 32).all (fun k : Fin 32 =>
    (im.hdr.cartMask / 2 ^ k.val % 2 == 0 || (s.carts[k].inService && s.carts[k].plan.isNone))
    && (im.hdr.reckMask / 2 ^ k.val % 2 == 0 || (s.recks[k].inService && s.recks[k].plan.isNone)))

/-! ### The load checks (09 R196) -/

/-- Checks 4 to 18 of the *Load check table* and 20 R440, in order. -/
def imageChecks (s : State) (im : PlanImage) (numerics : Bytes) : List (Bool × Nat) :=
  [ (!(im.hdr.strict && im.hdr.orderFree) && (!cfgStrict s || im.hdr.strict), 0x3005),
    (formatsLegal im numerics, 0x3009),
    (im.cores.zipIdx.all (fun e => programLegal im e.2 e.1), 0x300A),
    (cartsLegal s im, 0x300B),
    (recksLegal s im, 0x300C),
    (collsLegal s im, 0x3015),
    (stepsLegal im, 0x3011),
    (im.hdr.logicalCores == s.logicalCount && im.cores.all (fun c => c.die < 4)
      && (List.range 4).all (fun d => im.cores.countP (fun c => c.die == d) ≤ (freeLogical s d).length), 0x3001),
    (im.cores.all (fun c => c.program.length ≤ 2 ^ 20 && c.program.length + c.ro.length ≤ im.hdr.sramKib * 1024), 0x3003),
    (im.hdr.interleave == cfgPackage s, 0x300D),
    (im.pages.all (fun d => (windows s).contains (pageWindow s d))
      && (windows s).all (fun w => pagesIn s im w ≤ freeFrameCount s w), 0x3002),
    ((im.bins.length + 1) / 2 ≤ (freeBins s 0).length && im.bins.length / 2 ≤ (freeBins s 1).length, 0x3004),
    (masksFree s im && im.hdr.seqSlots ≤ (freeSeqs s).length && im.hdr.regions ≤ (freeRegions s).length, 0x3010),
    (committedW s + im.hdr.powerW ≤ s.adm.capW, 0x3012),
    (im.hdr.basisChannels ≤ channelsIn s && im.hdr.basisPorts ≤ portsIn s
      && (List.range 13).all (fun r =>
        shareOf im.shares r + ((loadedPlans s).map (fun p => shareOf p.img.shares r)).sum ≤ 65536), 0x3007),
    (millsIn s == 2 || (im.hdr.members ≤ 1 && im.collDesc.isEmpty), 0x301C) ]

/-- The position of a plan digest in the sealed allowed-plan list. -/
def listIndexOf (s : State) (digest : Nat) : Option Nat := s.allowed.findIdx? (fun e => e.1 == digest)

/-- A free loaded-plan number. -/
def freePlanSlot (s : State) : Option (Fin 16) := (List.finRange 16).find? (fun i : Fin 16 => s.plans[i].isNone)

/-- What a load decides: the code of the first check that fails, or the image, its LIST_INDEX and its plan number. -/
def checkPlan (s : State) (b : Bytes) : Except Nat (PlanImage × Nat × Fin 16) :=
  let digest := digestOf b
  if 1 ≤ s.journal.mode then .error 0x1008
  else
    match listIndexOf s digest with
    | none => .error 0x3006
    | some li =>
      match freePlanSlot s with
      | none => .error 0x300F
      | some i =>
        if (loadedPlans s).any (fun p => p.digest == digest) then .error 0x300F
        else
          match planImage b with
          | none => .error 0x300E
          | some im =>
            if !imageLegal im then .error 0x300E
            else
              match (imageChecks s im (section_ b 0xC)).find? (fun c => !c.1) with
              | some c => .error c.2
              | none => .ok (im, li, i)

/-! ### Installation -/

/-- Take places in order from the free lists that a key picks; `free k` is the free list of key `k`. -/
def assign {α : Type} (free : Nat → List α) (keys : List Nat) : List α :=
  keys.zipIdx.filterMap (fun e => (free e.1)[((keys.take e.2).filter (· == e.1)).length]?)

/-- The plan with its places (09 R197; 08 R174; 12 R286). -/
def placePlan (s : State) (im : PlanImage) (digest li : Nat) : Plan :=
  let ws := im.pages.map (pageWindow s)
  let frames (w : Nat) : List (Nat × Nat) := (freeFrames s w (ws.countP (· == w))).map (fun f => (w, f))
  { Plan.fresh im digest li with
    logical := assign (freeLogical s) (im.cores.map (·.die)),
    frames := assign frames ws,
    bins := assign (freeBins s) ((List.range im.bins.length).map (· % 2)),
    seqs := (freeSeqs s).take im.hdr.seqSlots,
    regionEntries := (freeRegions s).take im.hdr.regions }

/-- A core taken by a plan: zero-filled SRAM with the program and the read-only range, both flag copies clear (02 R48;
08 R193). -/
def Core.load (k : Core) (i : Fin 16) (n : Nat) (d : CoreProgram) : Core :=
  { Core.reset with
    plan := some i, planCore := n, subFlush := d.numCtl % 2 == 1, route := BitVec.ofNat 2 d.vecCtl, chains := d.chains,
    sram := memWrite 0 (memWrite 0 [] 0 d.program) d.roOffset d.ro, sramUncorrectable := k.sramUncorrectable,
    sramCorrected := k.sramCorrected, counters := k.counters, topDown := k.topDown }

/-- Install a plan that has passed its checks: its places are taken and zero-filled, its programs written. -/
def installPlan (s : State) (i : Fin 16) (p : Plan) : State :=
  let im := p.img
  let mask (m : Nat) (k : Fin 32) : Bool := m / 2 ^ k.val % 2 == 1
  let nth (c : CoreId) : Option Nat := (List.range p.logical.length).find? (fun n => planCorePhys s p n == some c)
  let frame (f : Nat × Nat) : Nat := f.1 * windowSpan + f.2 * pageBytes
  { s with
    plans := s.plans.set i (some p),
    cores := Vector.ofFn (fun c : CoreId =>
      match nth c with
      | some n => (match im.cores[n]? with | some d => s.cores[c].load i n d | none => s.cores[c])
      | none => s.cores[c]),
    carts := Vector.ofFn (fun k : Fin 32 => if mask im.hdr.cartMask k then { s.carts[k] with plan := some i } else s.carts[k]),
    recks := Vector.ofFn (fun k : Fin 32 => if mask im.hdr.reckMask k then { s.recks[k] with plan := some i } else s.recks[k]),
    bins := Vector.ofFn (fun b : Fin 512 =>
      if p.bins.contains b.val then { s.bins[b] with mem := [], bad := [], holder := some i } else s.bins[b]),
    seqSlots := Vector.ofFn (fun q : Fin 64 =>
      if p.seqs.contains q.val then
        let o := im.seqOwner.getD (p.seqs.idxOf q.val) (0, 0)
        { SeqSlot.reset with cap := BitVec.ofNat 32 o.2, owner := BitVec.ofNat 10 o.1, plan := some i }
      else s.seqSlots[q]),
    hbm := p.frames.foldl (fun m f => memClear m (frame f) (frame f + pageBytes)) s.hbm,
    hbmBad := s.hbmBad.filter (fun l => !p.frames.any (fun f => frame f ≤ l * 64 && l * 64 < frame f + pageBytes)) }

/-- Flags of a PLAN_LOADED record. -/
def loadFlags (h : PlanHeader) : Nat := h.strict.toNat + 2 * h.orderFree.toNat

/-- Load a plan for a session (0 for autostart): the state and the reply code. -/
def loadPlan (s : State) (b : Bytes) (session : Nat) : State × Nat :=
  let digest := digestOf b
  match checkPlan s b with
  | .error code => (journalRaw s 0x0202 0 0 0xFF (leBytes 64 digest ++ leBytes 2 code ++ leBytes 2 session), code)
  | .ok (im, li, i) =>
    let s := measExtend (installPlan s i (placePlan s im digest li)) 8 (leBytes 64 digest)
    let h := im.hdr
    (journalPlan s i 0x0201 (leBytes 64 digest ++ leBytes 1 li ++ leBytes 1 (loadFlags h) ++ leBytes 2 h.logicalCores
      ++ leBytes 2 h.planCores ++ leBytes 2 h.granaryBins ++ leBytes 4 h.hbmPages ++ leBytes 2 h.powerW
      ++ leBytes 2 session), 0)

/-- The load waits while a window that it needs is being formed again (08 R185). -/
def loadWaits (s : State) (b : Bytes) : Bool :=
  match checkPlan s b with
  | .ok (im, _, _) => s.reforming.any (fun w => 0 < pagesIn s im w)
  | .error _ => false

/-! ### Weight packages (15 R349, R350) -/

def segmentBytes : Nat := 2 ^ 20
def codePackage : Nat := 0x2004
def codeSignature : Nat := 0x2003
/-- Bytes of a WEIGHTS object: header, key block, a 600-byte body and the signature. -/
def weightsObjectBytes : Nat := 32 + 520 + 600 + 512

/-- The loaded plan of a digest that weights may still reach: its ST_JOB.STATE is 0 or 1. -/
def weightsPlan (s : State) (digest : Nat) : Option (Fin 16) :=
  (List.finRange 16).find? (fun i : Fin 16 =>
    match s.plans[i] with
    | some p => p.digest == digest && (p.jobId == 0 || p.jobState == .installed) && p.teardownCause.isNone
    | none => false)

/-- A range lies in the plan's HBM pages or in one read-only SRAM range. -/
def weightsPlace (p : Plan) (dest n : Nat) : Bool :=
  dest + n ≤ p.img.pages.length * pageBytes
    || p.img.cores.zipIdx.any (fun e =>
      let lo := baseShared + e.2 * sharedStride + e.1.roOffset
      lo ≤ dest && dest + n ≤ lo + e.1.ro.length)

/-- Write bytes as a load does: read-only places take them, and a part of an uncorrectable line or word is accounted for
(08 R179, R191). -/
def loadWrite (s : State) (i : Fin 16) (a : Nat) (bs : Bytes) : State :=
  (splitLines (bs.length / 64 + 2) a bs.length).foldl (fun s e =>
    match s.plans[i] with
    | none => s
    | some p =>
      match translate s p false e.1 with
      | .ok pl =>
        (match writePlace s pl ((bs.drop (e.1 - a)).take e.2) (e.2 == 64) with
        | some s' => s'
        | none => placeLost s (some pl) (some i) .partialWrite)
      | .error _ => s) s

/-- A refused run-time object is journaled with the number of its check (15 R345). -/
def objectRefused (s : State) (type check session : Nat) : State :=
  journalRaw s 0x0709 0 0 0xFF (leBytes 2 type ++ leBytes 1 check ++ leBytes 2 session)

/-- The package's object is whole: check it and unwrap its key. R345 refuses an object that fails its checks with
REFUSED_SIGNATURE, R350 with REFUSED_PACKAGE: R345 is followed, as the code table words both (DESIGN CHOICE,
notes/assumptions/48.md). -/
def openPackage (s : State) (t : Transfer) (session : Nat) : State × Except Nat PackageLoad :=
  match verifyObject s 9 (memRead 0 t.data 0 weightsObjectBytes) with
  | .error n => (objectRefused s 9 n session, .error codeSignature)
  | .ok o =>
    let digest := leNat (o.body.take 64)
    let dest := leNat ((o.body.drop 576).take 8)
    let payload := leNat ((o.body.drop 584).take 8)
    let segs := leNat ((o.body.drop 592).take 4)
    (s, match weightsPlan s digest with
      | none => .error codePackage
      | some i =>
        match s.plans[i], oaepDecrypt Config.wrappingKey.1 Config.wrappingKey.2 ((o.body.drop 64).take 512) with
        | some p, some key =>
          if o.bytes = weightsObjectBytes ∧ weightsPlace p dest payload
              ∧ segs = (payload + segmentBytes - 1) / segmentBytes ∧ t.total = o.bytes + payload + 16 * segs then
            .ok ⟨i, o.digest, o.bytes, dest, payload, 0, leNat key⟩
          else .error codePackage
        | _, _ => .error codePackage)

/-- Bytes of the segment that comes next. -/
def PackageLoad.next (k : PackageLoad) : Nat := min segmentBytes (k.payload - k.written)

/-- Write the segments that have arrived, in order; none of the package remains after a tag failure. -/
def writeSegments (got : Nat) (d : Mem) (aad : Bytes) : Nat → State → PackageLoad → State × Except Nat PackageLoad
  | 0, s, k => (s, .ok k)
  | fuel + 1, s, k =>
    let g := k.written / segmentBytes
    let at_ := k.objectBytes + k.written + 16 * g
    if k.payload ≤ k.written ∨ got < at_ + k.next + 16 then (s, .ok k)
    else
      match gcmOpen (leBytes 32 k.key) (countNonce g) aad (memRead 0 d at_ (k.next + 16)) with
      | none => (zeroWritten s k, .error codePackage)
      | some plain =>
        writeSegments got d aad fuel (loadWrite s k.plan (k.dest + k.written) (plain.take k.next))
          { k with written := k.written + k.next }

/-- The plan of a package in progress is still the one that its object names. -/
def packageHolds (s : State) (t : Transfer) (k : PackageLoad) : Bool :=
  weightsPlan s (leNat (memRead 0 t.data 552 64)) == some k.plan

/-- The plan's places have their zero fill (08 R176). -/
def planFilled (s : State) (i : Fin 16) : Bool :=
  match s.plans[i] with
  | some p => p.filled
  | none => false

/-- Carry a weight package on with the bytes that have arrived. -/
def advancePackage (s : State) (t : Transfer) (session : Nat) : State × Transfer :=
  let got := coveredTo (t.got.length + 1) t.got 0
  if t.failed.isSome || got < weightsObjectBytes then (s, t)
  else
    let (s, r) : State × Except Nat PackageLoad :=
      match t.package with
      | some k => (s, if packageHolds s t k then .ok k else .error codePackage)
      | none => openPackage s t session
    match r with
    | .error c => (abandonTransfer s (some t), { t with failed := some c, package := none })
    | .ok k =>
      if !planFilled s k.plan then (s, { t with package := some k })
      else
        let aad := sha512 (memRead 0 t.data 0 k.objectBytes)
        let (s, r) := writeSegments got t.data aad (k.payload / segmentBytes + 1) s k
        match r with
        | .error c => (s, { t with failed := some c, package := none })
        | .ok k => (s, { t with package := some k })

/-- A completed load: measurement and record. -/
def weightsLoaded (s : State) (i : Fin 16) (object dest payload session : Nat) : State :=
  match s.plans[i] with
  | none => s
  | some p =>
    let s := s.modPlan i (fun q => { q with packages := q.packages ++ [(object, dest, payload)] })
    let s := measExtend s 9 (leBytes 64 object)
    journalPlan s i 0x070A (leBytes 64 p.digest ++ leBytes 64 object ++ leBytes 2 session)

/-- The package of a whole transfer ends: reply code. -/
def endPackage (s : State) (t : Transfer) (session : Nat) : State × Nat :=
  let (s, t) := advancePackage s t session
  match t.failed, t.package with
  | some c, _ => (s, c)
  | none, some k =>
    if k.written = k.payload then (weightsLoaded s k.plan k.objectDigest k.dest k.payload session, 0)
    else (zeroWritten s k, codePackage)
  | none, none => (s, codePackage)

/-! ### Flash writes (16 R365) -/

/-- A region that an owner may write. -/
def regionWritable (region : Nat) : Bool := [1, 2, 3, 4, 7, 8].contains region

def endFlash (s : State) (t : Transfer) : State × Nat :=
  if !typeFits t.region t.bytes then (s, codeFlash)
  else if h : t.device < 2 then (flashWrite s ⟨t.device, h⟩ (regionBase t.region) t.bytes, 0)
  else (s, codeFrame)

/-! ### Bulk transfers (17 R389) -/

def setTransfer (s : State) (session : Nat) (t : Option Transfer) : State := s.modSession session (fun k => { k with transfer := t })

/-- A target that a halted module accepts: flash, from an owner (16 R368). -/
def targetOpen (s : State) (k : Session) (target : Nat) : Bool :=
  if target = 3 then isOwner k else s.mod.state != .halted

/-- Free frames that no plan holds, in bytes. -/
def freeHbmBytes (s : State) : Nat := ((windows s).map (fun w => freeFrameCount s w)).sum * pageBytes

/-- BULK_BEGIN: the reply code, where the transfer does not begin. -/
def bulkRefusal (s : State) (k : Session) (target device region total : Nat) : Option Nat :=
  if target = 0 ∨ 3 < target ∨ k.transfer.isSome then some codeFrame
  else if !targetOpen s k target then some codeRole
  else if target = 3 then
    (if 2 ≤ device then some codeFrame else if !regionWritable region then some codeRole
     else if regionSize region < total then some codeFlash else none)
  else if target = 1 ∧ freeHbmBytes s < total then some 0x3002
  else none

def execBulkBegin (h : HostHdr) (target device region total : Nat) (s : State) : Host.Outcome State Fault Refusal :=
  .next (hostRequest s h 0x11 mayLoad (fun s k =>
    match bulkRefusal s k target device region total with
    | some c => hostReply s h 0x11 c []
    | none => hostReply (setTransfer s h.session (some (Transfer.start target device region total))) h 0x11 0 []))

/-- BULK_DATA is answered only on a refusal. -/
def bulkData (s : State) (h : HostHdr) (k : Session) (off : Nat) (data : Bytes) : State :=
  match k.transfer with
  | none => hostReply s h 0x12 codeFrame []
  | some t =>
    if 4088 < data.length ∨ t.total < off + data.length then hostReply s h 0x12 codeFrame []
    else if t.failed.isSome then s
    else
      let t := t.take off data
      if t.target = 2 then
        let (s, t) := advancePackage s t h.session
        let s := setTransfer s h.session (some t)
        match t.failed with
        | some c => hostReply s h 0x12 c []
        | none => s
      else setTransfer s h.session (some t)

def execBulkData (h : HostHdr) (off : Nat) (data : Bytes) (s : State) : Host.Outcome State Fault Refusal :=
  .next (hostRequest s h 0x12 mayLoad (fun s k => bulkData s h k off data))

/-- The transfer's end waits: for a window's fill before a load, or for a plan's zero fill before weights. -/
def bulkWaits (s : State) (t : Transfer) : Bool :=
  t.whole && (if t.target = 1 then loadWaits s t.bytes
    else if t.target = 2 then (match t.package with | some k => packageHolds s t k && !planFilled s k.plan | none => false)
    else false)

/-- BULK_END. -/
def bulkEnd (s : State) (h : HostHdr) (k : Session) : State :=
  match k.transfer with
  | none => hostReply s h 0x13 codeFrame []
  | some t =>
    let s := setTransfer s h.session none
    match t.failed with
    | some c => hostReply s h 0x13 c []
    | none =>
      if !t.whole then hostReply (abandonTransfer s (some t)) h 0x13 codeFrame []
      else
        let (s, code) :=
          if t.target = 1 then loadPlan s t.bytes h.session
          else if t.target = 2 then endPackage s t h.session
          else endFlash s t
        hostReply s h 0x13 code []

/-- A BULK_END that waits leaves its frame unserved (notes/assumptions/10.md). -/
def execBulkEnd (h : HostHdr) (s : State) : Host.Outcome State Fault Refusal :=
  .next (if ((findSession s h.session).bind (·.transfer)).any (bulkWaits s) then s
    else hostRequest s h 0x13 mayLoad (fun s k => bulkEnd s h k))

end Sys2Proof.Machine
end

