-- ==== Sys2Proof/Machine/Fetch.lean ====
section
/-! DEFINITION. The seal (16 R367 step 9, R373; 13 R296, R297), autostart (16 R363, R376) and fetches between modules (16
R377). -/

namespace Sys2Proof.Machine
open Sys2Proof

def codeFetch : Nat := 0x301A

/-! ### Resident items (16 R363) -/

def residentBase : Nat := 0x03000400
def residentSize : Nat := 0x0CFFFC00

/-- Index entries of a device: OFFS, BYTES, KIND. OFFS counts from the start of the resident region
(notes/assumptions/26.md). -/
def residentEntry (s : State) (d : Fin 2) (k : Nat) : Nat × Nat × Nat :=
  let e := leNat (flashRead s d (0x03000000 + 16 * k) 16)
  (bits e 31 0, bits e 63 32, bits e 79 64)

/-- The items of a device in index order: KIND and bytes. An entry beyond the region, or over an earlier item, is
ignored. -/
def residents (s : State) (d : Fin 2) : List (Nat × Bytes) :=
  let kept := (List.range 64).foldl (fun (l : List (Nat × Nat × Nat)) k =>
    let e := residentEntry s d k
    if (e.2.2 = 1 ∨ e.2.2 = 2) ∧ e.1 + e.2.1 ≤ residentSize ∧ !rangesMeet [(e.1, e.2.1)] (l.map (fun x => (x.1, x.2.1))) then
      l ++ [e]
    else l) []
  kept.map (fun e => (e.2.2, flashRead s d (residentBase + e.1) e.2.1))

def residentsBoth (s : State) : List (Nat × Bytes) := residents s 0 ++ residents s 1

/-- The resident plan image of a digest, FL0 before FL1. -/
def residentPlan (s : State) (digest : Nat) : Option Bytes :=
  ((residentsBoth s).find? (fun e => e.1 == 1 && digestOf e.2 == digest)).map (·.2)

/-- The resident weight packages whose PLAN_DIGEST is the plan's. -/
def residentPackages (s : State) (digest : Nat) : List Bytes :=
  ((residentsBoth s).filter (fun e => e.1 == 2 && leNat ((e.2.drop 552).take 64) == digest)).map (·.2)

/-! ### Autostart (16 R376) -/

def autoWord (s : State) : Nat := autostartWord s s.autostart.next
def autoDigest (s : State) : Option Nat := (s.allowed[bits (autoWord s) 15 8]?).map (·.1)
def autoSource (s : State) : Nat := bits (autoWord s) 63 42

/-- The loaded plan of a digest. -/
def planOfDigest (s : State) (digest : Nat) : Option (Fin 16) :=
  (List.finRange 16).find? (fun i : Fin 16 =>
    match s.plans[i] with
    | some p => p.digest == digest
    | none => false)

def nextEntry (s : State) : State := { s with autostart := { s.autostart with next := s.autostart.next + 1, stage := 0, fetch := none, packages := 0 } }

def autoFail (s : State) (stage code : Nat) : State :=
  nextEntry (journalRaw s 0x0106 0 0 0xFF (leBytes 1 (bits (autoWord s) 15 8) ++ leBytes 1 stage ++ leBytes 2 code))

def autoDone (s : State) : State :=
  let w := autoWord s
  nextEntry (journalRaw s 0x0105 0 0 0xFF
    (leBytes 1 (bits w 15 8) ++ leBytes 1 (bits w 1 1) ++ leBytes 1 (bits w 3 2) ++ leBytes 2 s.autostart.packages))

/-- The autostart list's time for JOIN_ACK has run out. -/
def joinTooLate (s : State) : Bool := s.autostart.readyBell + 60000000000 ≤ s.bell

/-- Ask the source for the plan (0x40) or the weights (0x41), or wait for JOIN_ACK. -/
def autoAsk (s : State) (stage : Nat) : State :=
  match autoDigest s with
  | none => autoFail s stage 0x3006
  | some d =>
    if s.domain.joined then
      { sendControl s [autoSource s] (0x3F + stage) 0 0 (leBytes 64 d) with
        autostart := { s.autostart with stage := stage, fetch := some (autoSource s, Transfer.start stage 0 0 0, s.bell) } }
    else if joinTooLate s then autoFail s stage codeFetch
    else { s with autostart := { s.autostart with stage := stage, fetch := none } }

/-- The loaded plan of the entry in hand has its zero fill (08 R176). -/
def autoFilled (s : State) : Bool := ((autoDigest s).bind (planOfDigest s)).all (planFilled s)

/-- Load resident packages in order, up to the first that is refused. -/
def autoPackages : List Bytes → State → State × Option Nat
  | [], s => (s, none)
  | b :: t, s =>
    match endPackage s ((Transfer.start 2 0 0 b.length).take 0 b) 0 with
    | (s, 0) => autoPackages t { s with autostart := { s.autostart with packages := s.autostart.packages + 1 } }
    | (s, c) => (s, some c)

/-- Stage 2 of the entry in hand: true where it still waits, for the zero fill or for its source. -/
def autoWeights (s : State) : State × Bool :=
  let w := bits (autoWord s) 3 2
  if w = 0 then (autoDone s, false)
  else if !autoFilled s then ({ s with autostart := { s.autostart with stage := 4 } }, true)
  else if w = 1 then
    match autoDigest s with
    | none => (autoFail s 2 0x3006, false)
    | some d =>
      match autoPackages (residentPackages s d) s with
      | (s, none) => (autoDone s, false)
      | (s, some c) => (autoFail s 2 c, false)
  else
    let s := autoAsk s 2
    (s, s.autostart.stage == 2)

/-- A plan image is in hand: true where the entry waits. -/
def autoPlan (s : State) (b : Bytes) : State × Bool :=
  if loadWaits s b then ({ s with autostart := { s.autostart with stage := 3 } }, true)
  else
    match loadPlan s b 0 with
    | (s, 0) => autoWeights s
    | (s, c) => (autoFail s 1 c, false)

/-- Start the entry in hand. The code of a resident image that neither device holds is not given: a free value
(notes/assumptions/14.md). -/
def autoEntry (s : State) : State × Bool :=
  let w := autoWord s
  if bits w 0 0 = 0 then (nextEntry s, false)
  else if bits w 1 1 = 1 then
    let s := autoAsk s 1
    (s, s.autostart.stage == 1)
  else
    match autoDigest s with
    | none => (autoFail s 1 0x3006, false)
    | some d =>
      match residentPlan s d with
      | some b => autoPlan s b
      | none =>
        let (r, s) := takeFree s
        (autoFail s 1 r, false)

/-- Run entries until one waits for its source, or the list ends. -/
def autoRun : Nat → State → State
  | 0, s => s
  | fuel + 1, s =>
    if 16 ≤ s.autostart.next then s
    else
      let (s, waits) := autoEntry s
      if waits then s else autoRun fuel s

/-- Go on with the list after a stage has ended. -/
def autoGoOn (r : State × Bool) : State := if r.2 then r.1 else autoRun 17 r.1

/-- An autostart entry waits for JOIN_ACK. -/
def autoWaitsJoin (s : State) : Bool := [1, 2].contains s.autostart.stage && s.autostart.fetch.isNone

/-- AUTOSTART_JOIN_WAIT: no JOIN_ACK within 60 s of READY. -/
def autostartJoinWait (s : State) : State :=
  if autoWaitsJoin s && !s.domain.joined && joinTooLate s then autoGoOn (autoFail s s.autostart.stage codeFetch, false) else s

def execAutostartJoinWait (s : State) : Host.Outcome State Fault Refusal := happen s autostartJoinWait

/-- JOIN_ACK has arrived: the entry that waits asks its source. -/
def autoJoined (s : State) : State :=
  if autoWaitsJoin s then
    let s := autoAsk s s.autostart.stage
    autoGoOn (s, s.autostart.stage != 0)
  else s

/-- A fill has ended: the entry that waits for its window or for its plan's fill goes on. -/
def autoResume (s : State) : State :=
  if s.autostart.stage = 3 then
    match s.autostart.fetch with
    | some (_, t, _) => autoGoOn (autoPlan s t.bytes)
    | none => autoRun 17 { s with autostart := { s.autostart with stage := 0 } }
  else if s.autostart.stage = 4 && autoFilled s then autoGoOn (autoWeights s)
  else s

def execMapOutFillEnd (window : Fin 4) (s : State) : Host.Outcome State Fault Refusal :=
  happen s (fun s => autoResume (mapOutFillEnd s window))

/-- ZERO_FILL_END: a loaded plan's frames have their zero fill (08 R176). -/
def execZeroFillEnd (i : Fin 16) (s : State) : Host.Outcome State Fault Refusal :=
  happen s (fun s => autoResume (s.modPlan i (fun p => { p with filled := true })))

/-! ### The seal (16 R367 step 9, R373) -/

/-- JOIN to both reeves: place, grade, logical core count and a quote that holds MEAS11. The reeve's nonce and the rest of
the mask are not given (notes/assumptions/14.md). -/
def sendJoin (s : State) : State :=
  let (n, s) := takeFree s
  let (m, s) := takeFree s
  let mask := m % 2 ^ 11 + 2 ^ 11 + m / 2 ^ 11 % 16 * 2 ^ 12
  let body := quoteBody s (leBytes 64 n) mask
  let sig := s.free
  let s := journalRaw { s with free := sig + 1 } 0x070C 0 0 0xFF (leBytes 2 0 ++ leBytes 2 mask)
  sendControl s (reeves s) 0x01 0 0 (leBytes 4 (cfgPlace s) ++ leBytes 1 s.mod.grade.toNat ++ leBytes 2 s.logicalCount
    ++ moduleObject s 7 body sig)

/-- SEAL: step 9 ends the start. -/
def sealStart (s : State) : State :=
  if s.mod.state != .starting || s.mod.startStep != 8 then s
  else
    let pl := cfgPlace s
    let s := { s with
      mod := { s.mod with state := .ready, startStep := 10 },
      adm := { s.adm with capW := capStart s },
      domain := ⟨false, false, cfgPrimary s, cfgStandby s⟩,
      reeve := { s.reeve with role := if pl = cfgPrimary s then 1 else if pl = cfgStandby s then 2 else 0,
                              lastBeat := s.bell, hasStandby := true },
      cores := s.cores.map Core.leavePlain }
    let s := journalRaw s 0x0101 0 0 0xFF (leBytes 4 s.mod.startCount ++ leBytes 4 s.mod.elapsedMs
      ++ leBytes 1 (stIdentity s / 256 % 16) ++ leBytes 2 (channelsIn s) ++ leBytes 2 (spareCores s) ++ leBytes 1 (portsIn s)
      ++ leBytes 1 (cfgPlough s))
    let s := sendJoin s
    let s := sendCredits s
    if cfgAutostart s then
      autoRun 17 { s with autostart := ⟨0, 0, s.bell, none, 0⟩ }
    else s

/-- The cap and the refusals that follow from it are in force from READY: nothing changed before (16 R370). -/
def execSeal (s : State) : Host.Outcome State Fault Refusal :=
  .next (attend { s with adm := { s.adm with capW := (sealStart s).adm.capW } } (sealStart s))

/-! ### The source of a fetch (16 R377) -/

def fetchRefuse (s : State) (dst : Nat) : State := sendControl s [dst] 0x44 0 codeFetch []

/-- FETCH_DATA pieces of 184 bytes: what a CONTROL frame holds after its header and the offset. -/
def fetchPieces (dst : Nat) (b : Bytes) (s : State) : State :=
  (List.range ((b.length + 183) / 184)).foldl (fun s k =>
    sendControl s [dst] 0x42 0 0 (leBytes 8 (184 * k) ++ (b.drop (184 * k)).take 184)) s

/-- FETCH_END: total bytes and the packages' descriptions. -/
def fetchFinish (s : State) (dst total : Nat) (l : List (Nat × Nat × Nat)) : State :=
  sendControl s [dst] 0x43 0 0 (leBytes 8 total ++ l.flatMap (fun k => leBytes 64 k.1 ++ leBytes 8 k.2.1 ++ leBytes 8 k.2.2))

/-- PLAN_FETCH from a joined module. -/
def planFetch (s : State) (src digest : Nat) : State :=
  if !s.domain.joined then s
  else
    match residentPlan s digest with
    | some b => fetchFinish (fetchPieces src b s) src b.length []
    | none => fetchRefuse s src

def execPlanFetch (src digest : Nat) (s : State) : Host.Outcome State Fault Refusal := happen s (fun s => planFetch s src digest)

/-- A package lies wholly in read-only pages or one read-only SRAM range. -/
def packageReadOnly (p : Plan) (k : Nat × Nat × Nat) : Bool :=
  if k.2.1 < topHbm then
    k.2.2 == 0 || (List.range ((k.2.1 + k.2.2 - 1) / pageBytes + 1 - k.2.1 / pageBytes)).all (fun n =>
      match p.img.pages[k.2.1 / pageBytes + n]? with
      | some d => d.readOnly
      | none => false)
  else weightsPlace p k.2.1 k.2.2

/-- The bytes of packages in order, or the first place that reads uncorrectable. -/
def packageBytes (s : State) (i : Fin 16) : List (Nat × Nat × Nat) → Except (Option Place) Bytes
  | [] => .ok []
  | k :: t =>
    match planRead s i k.2.1 k.2.2 with
    | .fail _ _ pl => .error pl
    | .ok b => (packageBytes s i t).map (fun r => b ++ r)

/-- WEIGHT_FETCH from a joined module. -/
def weightFetch (s : State) (src digest : Nat) : State :=
  if !s.domain.joined then s
  else
    match planOfDigest s digest with
    | none => fetchRefuse s src
    | some i =>
      match s.plans[i] with
      | none => fetchRefuse s src
      | some p =>
        if !p.packages.all (packageReadOnly p) then fetchRefuse s src
        else
          match packageBytes s i p.packages with
          | .error pl => fetchRefuse (placeLost s pl (some i) .release) src
          | .ok b => fetchFinish (fetchPieces src b s) src b.length p.packages

def execWeightFetch (src digest : Nat) (s : State) : Host.Outcome State Fault Refusal := happen s (fun s => weightFetch s src digest)

/-! ### The target of a fetch -/

/-- The fetch in hand from a source. -/
def fetchFrom (s : State) (src : Nat) : Option Transfer :=
  match s.autostart.fetch with
  | some (p, t, _) => if p = src && s.autostart.stage ≤ 2 then some t else none
  | none => none

def fetchData (s : State) (src off : Nat) (data : Bytes) : State :=
  match fetchFrom s src with
  | some t => { s with autostart := { s.autostart with fetch := some (src, t.take off data, s.bell) } }
  | none => s

def execFetchData (src off : Nat) (data : Bytes) (s : State) : Host.Outcome State Fault Refusal :=
  happen s (fun s => fetchData s src off data)

/-- Write fetched packages, from byte `off` of what was fetched. -/
def writeFetched (s : State) (i : Fin 16) (t : Transfer) : Nat → List (Nat × Nat × Nat) → State
  | _, [] => s
  | off, k :: rest =>
    let s := loadWrite s i k.2.1 (memRead 0 t.data off k.2.2)
    let s := weightsLoaded s i k.1 k.2.1 k.2.2 0
    writeFetched { s with autostart := { s.autostart with packages := s.autostart.packages + 1 } } i t (off + k.2.2) rest

/-- Every description fits the plan and what was fetched. -/
def fetchedFits (p : Plan) (total : Nat) (l : List (Nat × Nat × Nat)) : Bool :=
  (l.map (·.2.2)).sum == total && l.all (fun k => weightsPlace p k.2.1 k.2.2)

/-- FETCH_END: the plan or the weights are whole. -/
def fetchEnd (s : State) (src total : Nat) (l : List (Nat × Nat × Nat)) : State :=
  match fetchFrom s src with
  | none => s
  | some t =>
    let t := { t with total := total }
    let s := { s with autostart := { s.autostart with fetch := some (src, t, s.bell) } }
    let stage := s.autostart.stage
    if !t.whole then autoGoOn (autoFail s stage codeFetch, false)
    else if stage = 1 then
      if autoDigest s = some (digestOf t.bytes) then autoGoOn (autoPlan s t.bytes) else autoGoOn (autoFail s 1 codeFetch, false)
    else
      match (autoDigest s).bind (weightsPlan s) with
      | none => autoGoOn (autoFail s 2 codePackage, false)
      | some i =>
        match s.plans[i] with
        | none => autoGoOn (autoFail s 2 codePackage, false)
        | some p =>
          if fetchedFits p total l then autoGoOn (autoDone (writeFetched s i t 0 l), false)
          else autoGoOn (autoFail s 2 codePackage, false)

def execFetchEnd (src total : Nat) (packages : List (Nat × Nat × Nat)) (s : State) : Host.Outcome State Fault Refusal :=
  happen s (fun s => fetchEnd s src total packages)

/-- FETCH_REFUSED with its code. -/
def execFetchRefused (src code : Nat) (s : State) : Host.Outcome State Fault Refusal :=
  happen s (fun s => if (fetchFrom s src).isSome then autoGoOn (autoFail s s.autostart.stage code, false) else s)

/-- No FETCH_DATA for 1 s. -/
def fetchTimeout (s : State) : State :=
  match s.autostart.fetch with
  | some (_, _, b) => if s.autostart.stage ≤ 2 && b + 1000000000 ≤ s.bell then autoGoOn (autoFail s s.autostart.stage codeFetch, false) else s
  | none => s

def execFetchTimeout (s : State) : Host.Outcome State Fault Refusal := happen s fetchTimeout

end Sys2Proof.Machine
end

