-- ==== Sys2Proof/Machine/Admission.lean ====
section
/-! DEFINITION. The enqueue decision (10 R222-R233; 15 R359; 17 R387, R388). -/

namespace Sys2Proof.Machine
open Sys2Proof

def codeAbsent : Nat := 0x3008

/-- The plan and service that a ring leads to, where they take requests (10 R229 check 1; 01 R26, R27). -/
def ringService (s : State) (ring : Nat) : Option (Fin 16 × Plan × Nat × Service) :=
  match s.allowed[bits (cfgRing s ring) 22 15]? with
  | none => none
  | some e =>
    match planOfDigest s e.1 with
    | none => none
    | some i =>
      match s.plans[i] with
      | none => none
      | some p =>
        let n := bits (cfgRing s ring) 14 7
        match p.img.services[n]? with
        | some v => if p.launched && !p.draining && p.teardownCause.isNone then some (i, p, n, v) else none
        | none => none

/-! ### Budgets (10 R223) -/

def ringWindow (s : State) (ring : Nat) : Nat := s.bell / bits (cfgRing s ring) 127 96

/-- Requests of a ring accepted in the present window. -/
def ringUsed (s : State) (ring : Nat) : Nat :=
  match s.adm.ringUse.find? (fun e => e.1 == ring) with
  | some e => if e.2.1 = ringWindow s ring then e.2.2 else 0
  | none => 0

def useRing (s : State) (ring : Nat) : State :=
  { s with adm := { s.adm with
      ringUse := (ring, ringWindow s ring, ringUsed s ring + 1) :: s.adm.ringUse.filter (fun e => e.1 != ring) } }

/-! ### Slots (10 R226, R227) -/

/-- The first slot whose planned start is at or after a bell, and which has not started. -/
def firstSlot (p : Plan) (v : Service) (n : Nat) (b : Bell) : Nat :=
  max (p.nextSlot.getD n 0) ((b - p.gridBell + v.slotBells - 1) / v.slotBells)

/-- The lowest lane free in a slot and in every later window that the request holds. -/
def laneFor (p : Plan) (v : Service) (n k w : Nat) : Option Nat :=
  (List.range v.lanes).find? (fun j => (List.range w).all (fun d => laneFree p v n (k + d) j))

/-- The earliest slot and lane that meet BOUND for a request taken at bell `t`. -/
def slotFor (p : Plan) (v : Service) (n : Nat) (t : Bell) (w : Nat) : Option (Nat × Nat) :=
  let k := firstSlot p v n (t + v.leadBells)
  (List.range (v.bound / v.slotBells + 1)).findSome? (fun d =>
    if slotEnd p v (k + d) ≤ t + v.bound then (laneFor p v n (k + d) w).map (fun j => (k + d, j)) else none)

/-! ### The decision -/

/-- The position target of a STREAM request. -/
def inputTarget (input : Bytes) : Nat := leNat (input.take 4)

/-- Check 3: a STREAM target is at most the least CAP of the service's sequence slots. -/
def requestFits (p : Plan) (v : Service) (n : Nat) (input : Bytes) : Bool :=
  input.length == v.inBytes && (!v.stream ||
    (1 ≤ inputTarget input && (List.range v.lanes).all (fun j => inputTarget input ≤ laneCap p n j)))

/-- What the admission unit decides. -/
inductive Admit where
  | refuse (code : Nat)
  /-- DEFERRED with the queue position -/
  | defer (ahead : Nat)
  | accept (slot lane : Nat)
  deriving DecidableEq, Repr

/-- A request of this plan's service with no lane yet. -/
def newReq (s : State) (h : HostHdr) (ring n : Nat) (input : Bytes) : Req :=
  ⟨ring, n, s.bell, input, none, 0, h.session, h.tag, 0, 0, none, 0⟩

/-- Checks 3-10 in order, with R359's check between 6 and 7. -/
def decideRequest (s : State) (ring : Nat) (p : Plan) (n : Nat) (v : Service) (r : Req) : Admit :=
  if !requestFits p v n r.input then .refuse 0x3013
  else if !v.promised then .defer (p.requests.countP (fun q => q.service == n && q.slot.isNone))
  else if refusingThermal s then .refuse 0x1004
  else if refusingPower s then .refuse 0x1003
  else if 1 ≤ s.journal.mode then .refuse 0x1008
  else if degraded s p then .refuse 0x1005
  else if bits (cfgRing s ring) 95 76 ≤ ringUsed s ring then .refuse 0x1001
  else
    match slotFor p v n s.bell (v.windows r) with
    | some (k, j) => .accept k j
    | none => .refuse (if v.stream then 0x1006 else 0x1002)

/-- A refusal by the admission unit: its reply, and the summary of the second. -/
def refuseRequest (s : State) (h : HostHdr) (ring code : Nat) : State :=
  requestReply { s with adm := { s.adm with byCode := bump s.adm.byCode code, byRing := bump s.adm.byRing ring } } ring
    h.session h.tag code 0 0 0 []

/-- The admission unit takes a request. -/
def admitRequest (s : State) (h : HostHdr) (k : Session) (ring : Nat) (input : Bytes) : State :=
  let s := countControl s 0x400 1
  match ringService s ring with
  | none => refuseRequest s h ring codeAbsent
  | some (i, p, n, v) =>
    if !mayRing s k ring then refuseRequest s h ring codeRole
    else
      let r := newReq s h ring n input
      match decideRequest s ring p n v r with
      | .refuse c => refuseRequest s h ring c
      | .defer ahead =>
        requestReply ((countControl s 0x402 1).modPlan i (fun q => { q with requests := q.requests ++ [r] }))
          ring h.session h.tag 0x6001 0 ahead 0 []
      | .accept slot lane =>
        useRing ((countControl s 0x401 1).modPlan i (fun q =>
          { q with requests := q.requests ++ [{ r with slot := some slot, lane := lane }] })) ring

/-- ENQUEUE: a request without a credit, or on a ring that is not mapped, never reaches admission. -/
def execEnqueue (h : HostHdr) (ring : Nat) (input : Bytes) (s : State) : Host.Outcome State Fault Refusal :=
  .next (hostRequest s h 0x10 (fun _ k => k.role == 1) (fun s k =>
    if 16384 ≤ ring || !ringMapped s ring || ringCredits s ring = 0 then hostReply s h 0x10 codeFrame (leBytes 12 0) ring
    else admitRequest s h k ring input) ring)

end Sys2Proof.Machine
end

