-- ==== Sys2Proof/Machine/Endpoint.lean ====
section
/-! DEFINITION. The memory-semantic endpoint (11 R254-R258, R263; 09 R206) and the replies, re-sends and losses of a core's
far operations (11 R259-R264; 03 R78). -/

namespace Sys2Proof.Machine
open Sys2Proof

/-! ### Requests (11 R255) -/

/-- A request as its frames carry it. -/
structure FarReq where
  job : Nat
  place : BitVec 22
  core : BitVec 10
  seq : BitVec 16
  /-- class of its frames (01 R28) -/
  cls : BitVec 2
  key : Nat
  step : Nat
  attempt : Nat
  op : Nat
  aop : Nat
  typ : Nat
  len : Nat
  addr : Nat
  data : Bytes
  deriving DecidableEq, Repr

/-- *Request header field map*; `more` is the content of the CONTINUE frame. -/
def farReq (f : Frame) (more : Bytes) : FarReq :=
  let v := leNat (f.content.take 32)
  ⟨f.job.toNat, f.src, f.srcCore, f.seq, f.cls, bits v 255 192, bits v 191 160, bits v 159 159, bits v 158 156, bits v 155 153,
   bits v 152 151, bits v 150 143 + 1, bits v 133 92, f.content.drop 32 ++ more⟩

def FarReq.isWrite (r : FarReq) : Bool := r.op != 1
/-- The fabric die that serves a request (11 R258). -/
def FarReq.die (r : FarReq) : Nat := r.core.toNat % 2

/-! ### The replay cache (11 R263) -/

def ReplayCache.of (k : ReplayCache) (r : FarReq) : Bool :=
  k.die == r.die && k.job == r.job && k.place == r.place && k.core == r.core

def findCache (s : State) (r : FarReq) : Option ReplayCache := s.endpoint.caches.find? (·.of r)

/-- A request of a new source waits while its die's caches are all held. -/
def cacheFull (s : State) (r : FarReq) : Bool :=
  (findCache s r).isNone && 8192 ≤ s.endpoint.caches.countP (fun k => k.die == r.die)

def holdCache (s : State) (r : FarReq) : State :=
  if (findCache s r).isSome then s
  else { s with endpoint := { s.endpoint with caches := s.endpoint.caches ++ [⟨r.die, r.job, r.place, r.core, []⟩] } }

/-- What a write's slot says of it. -/
inductive Lookup where
  | fresh
  | duplicate (k : CacheSlot)
  | stale
  deriving DecidableEq, Repr

def lookup (s : State) (r : FarReq) : Lookup :=
  match findCache s r with
  | none => .fresh
  | some c =>
    match c.slots.find? (fun k => k.seq.toNat % 64 == r.seq.toNat % 64) with
    | none => .fresh
    | some k =>
      if k.seq = r.seq then (if s.bell ≤ k.bell + 100000 then .duplicate k else .fresh)
      else if (k.seq - r.seq).toNat < 2 ^ 15 then .stale else .fresh

/-- Keep a write's reply in its slot. -/
def cacheReply (s : State) (r : FarReq) (status : Nat) (data : Bytes) : State :=
  let put (c : ReplayCache) : ReplayCache :=
    { c with slots := c.slots.filter (fun k => k.seq.toNat % 64 != r.seq.toNat % 64) ++ [⟨r.seq, status, data, s.bell⟩] }
  { s with endpoint := { s.endpoint with caches := s.endpoint.caches.map (fun c => if c.of r then put c else c) } }

/-! ### The target's checks (11 R258) -/

/-- The region of the job that holds the bytes, with its entry number. -/
def regionOf (s : State) (r : FarReq) : Option (Nat × RegionEntry) :=
  (s.regions.toList.zipIdx.find? (fun e => e.1.valid && e.1.job.toNat == r.job && e.1.base ≤ r.addr
    && r.addr + r.len ≤ e.1.base + e.1.size)).map (fun e => (e.2, e.1))

/-- Legal AOP and TYPE (*Atomic table*). -/
def atomicLegal (aop typ : Nat) : Bool := (aop == 0 && typ ≤ 2) || (1 ≤ aop && aop ≤ 4 && typ ≤ 1)

def regionAllows (e : RegionEntry) (r : FarReq) : Bool :=
  match r.op with
  | 1 => e.load
  | 2 => e.store
  | 3 => e.atomic && atomicLegal r.aop r.typ
  | 4 => e.flag
  | _ => false

def regionSoleRefuses (e : RegionEntry) (r : FarReq) : Bool :=
  r.op == 3 && e.sole && !(r.place == e.solePlace && r.core == e.soleCore)

/-- Alignment of the *Far operation table*. -/
def FarReq.aligned (r : FarReq) : Bool :=
  if r.op = 3 then (if r.typ = 2 then r.addr % 16 == 0 else r.addr % 8 == 0)
  else if r.op = 4 then r.addr % 8 == 0 else true

/-- The new cell and the previous value as returned (11 R257; 02 R36, R45, R49). -/
def atomicResult (aop typ : Nat) (cell : Nat) (data : Bytes) : Nat × Nat :=
  let x := leNat (data.take 8)
  let y := leNat ((data.drop 8).take 8)
  let int (n : Nat) : Int := sext 64 n
  match aop, typ with
  | 0, 0 => ((cell + x) % 2 ^ 64, cell)
  | 0, 1 => ((fmtB64.add false cell x).1, cell)
  | 0, _ =>
    let w := sext 128 cell
    let low : Int := -(2 ^ 63)
    let high : Int := 2 ^ 63 - 1
    (((w + int x) % (2 ^ 128 : Int)).toNat, ((max low (min high w)) % (2 ^ 64 : Int)).toNat)
  | 1, 0 => (if int x < int cell then x else cell, cell)
  | 2, 0 => (if int cell < int x then x else cell, cell)
  | 1, _ => ((fmtB64.minmax false false cell x).1, cell)
  | 2, _ => ((fmtB64.minmax false true cell x).1, cell)
  | 3, _ => (x, cell)
  | _, _ => (if cell = x then y else cell, cell)

/-- Bytes of a request at its target: those of its LEN, or of its cell. -/
def FarReq.span (r : FarReq) : Nat := if r.op = 3 then (if r.typ = 2 then 16 else 8) else if r.op = 4 then 8 else r.len

/-- Check 9: the reply and the state. A refused or failed write applies nothing. -/
def applyReq (s : State) (i : Fin 16) (r : FarReq) : Nat × Bytes × State :=
  let failed (st : Nat) (pl : Option Place) : Nat × Bytes × State :=
    (st, [], if st = codeDataLost then placeLost s pl (some i) .far else s)
  let write (bs reply : Bytes) : Nat × Bytes × State :=
    match planWrite s i r.addr bs with
    | .ok s' => (0, reply, s')
    | .fail st _ pl => failed st pl
  if r.op = 1 then
    match planRead s i r.addr r.len with
    | .ok bs => (0, bs, s)
    | .fail st _ pl => failed st pl
  else if r.op = 3 then
    match planRead s i r.addr r.span with
    | .ok bs =>
      let (new, old) := atomicResult r.aop r.typ (leNat bs) r.data
      write (leBytes r.span new) (leBytes 8 old)
    | .fail st _ pl => failed st pl
  else write (r.data.take r.span) []

/-- KEY_REFUSED: at most one record per source module and region in each 1,000,000 bells; refusals between records count in
the next (11 R268). -/
def keyRefused (s : State) (r : FarReq) (region : Nat) (i : Fin 16) : State :=
  let l := s.endpoint.keyRefusals
  let now := s.bell / 1000000
  let same (e : Nat × Nat × Nat × Nat) : Bool := e.1 == r.place.toNat && e.2.1 == region
  let put (s : State) (n : Nat) : State :=
    { s with endpoint := { s.endpoint with keyRefusals := (l.filter (fun e => !same e)) ++ [(r.place.toNat, region, now, n)] } }
  let record (n : Nat) : State := put (journalPlan s i 0x0501 (leBytes 4 r.place.toNat ++ leBytes 2 region ++ leBytes 4 n)) 0
  match l.find? same with
  | some e => if e.2.2.1 = now then put s (e.2.2.2 + 1) else record (e.2.2.2 + 1)
  | none => record 1

/-- Checks 4 to 9 of the *Target check table*. -/
def decide_ (s : State) (r : FarReq) : Nat × Bytes × State :=
  match regionOf s r with
  | none => (codeTranslation, [], s)
  | some (n, e) =>
    if e.key.toNat ≠ r.key then (codeRefusedKey, [], keyRefused s r n e.plan.toFin)
    else if !regionAllows e r || regionSoleRefuses e r then (codeTranslation, [], s)
    else if !r.aligned then (codeMisaligned, [], s)
    else applyReq s e.plan.toFin r

def farReply (s : State) (r : FarReq) (status : Nat) (data : Bytes) : State :=
  s.emit (.farReply r.place r.job r.core r.seq r.cls status r.step r.attempt data)

/-- The highest attempt seen for the job's current step (09 R206). -/
def seeAttempt (s : State) (r : FarReq) : State :=
  match planOfJob s r.job with
  | some (i, p) => if r.step = p.step then s.modPlan i (fun q => { q with highest := max q.highest r.attempt }) else s
  | none => s

/-- A request with both of its frames present. -/
def serve (s : State) (f : Frame) (more : Bytes) : State :=
  let r := farReq f more
  let (torn, old) : Bool × Bool := match planOfJob s r.job with
    | some (_, p) => (p.teardownCause.isSome, r.isWrite && r.step == p.step && r.attempt < p.highest)
    | none => (false, false)
  if torn then s
  else if cacheFull s r then { s with endpoint := { s.endpoint with waiting := s.endpoint.waiting ++ [(f, more)] } }
  else if old then s
  else
    let s := holdCache (seeAttempt s r) r
    let done (s : State) : State :=
      let (st, data, s) := decide_ s r
      farReply (if r.isWrite then cacheReply s r st data else s) r st data
    if !r.isWrite then done s
    else match lookup s r with
      | .duplicate k => farReply s r k.status k.data
      | .stale => s
      | .fresh => done s

/-- Errors that the request's reads meet first, at plan addresses of its region's plan. -/
def noteFar (s : State) (f : Frame) (corrected lost : List Nat) : State :=
  let r := farReq f []
  match regionOf s r with
  | some (_, e) => (match s.plans[e.plan.toFin] with
    | some p => noteErrors s p (within [(r.addr, r.span)] corrected) (within [(r.addr, r.span)] lost)
    | none => s)
  | none => s

/-! ### Two frames (11 R256) -/

def sameRequest (f g : Frame) : Bool := f.job == g.job && f.src == g.src && f.srcCore == g.srcCore && f.seq == g.seq

/-- Hold one frame until the other comes; a later copy takes the place of an earlier. -/
def holdHalf (s : State) (f : Frame) : State :=
  let l := s.endpoint.halves.filter (fun e => !(sameRequest e.1 f && e.1.typ == f.typ))
  { s with endpoint := { s.endpoint with halves := l ++ [(f, s.bell)] } }

def dropHalves (s : State) (f : Frame) : State :=
  { s with endpoint := { s.endpoint with halves := s.endpoint.halves.filter (fun e => !sameRequest e.1 f) } }

/-- REQUEST: the endpoint takes a request frame; `corrected` and `lost` are plan addresses at which its reads meet errors
not met before. -/
def takeRequest (s : State) (f : Frame) (corrected lost : List Nat) : State :=
  if f.more then
    match s.endpoint.halves.find? (fun e => sameRequest e.1 f && e.1.typ == 2) with
    | some (g, _) => serve (noteFar (dropHalves s f) f corrected lost) f g.content
    | none => holdHalf s f
  else serve (noteFar s f corrected lost) f []

def execFarRequest (f : Frame) (corrected lost : List Nat) (s : State) : Host.Outcome State Fault Refusal :=
  happen s (fun s => takeRequest s f corrected lost)

/-- CONTINUE_TIMEOUT: halves whose other frame is absent after 40,000 bells are discarded. -/
def execContinueTimeout (s : State) : Host.Outcome State Fault Refusal :=
  happen s (fun s => { s with endpoint := { s.endpoint with
    halves := s.endpoint.halves.filter (fun e => decide (s.bell < e.2 + 40000)) } })

/-- REPLAY_CACHE_FREE: a cache whose slots are all older than 100,000 bells is freed, and waiting requests are served. -/
def cacheFree (s : State) (job : Nat) (place : BitVec 22) (core : BitVec 10) : State :=
  let due (k : ReplayCache) : Bool :=
    k.job == job && k.place == place && k.core == core && k.slots.all (fun e => decide (e.bell + 100000 < s.bell))
  if !s.endpoint.caches.any due then s
  else
    let l := s.endpoint.waiting
    let s := { s with endpoint := { s.endpoint with
      caches := s.endpoint.caches.filter (fun k => !due k), waiting := [] } }
    l.foldl (fun s e => serve s e.1 e.2) s

def execReplayCacheFree (job : Nat) (place : BitVec 22) (core : BitVec 10) (s : State) :
    Host.Outcome State Fault Refusal := happen s (fun s => cacheFree s job place core)

/-! ### Replies at the source (11 R256, R261, R264) -/

/-- The registers after a good reply. -/
def FarOp.regs (o : FarOp) (data : Bytes) (r : Regs) : Regs :=
  if o.op = 0x18 then r.setV (o.reg % 64) (putBits (r.v.getD (o.reg % 64) 0) 0 o.len (leNat (data.take o.len)))
  else if o.op = 0x1A ∧ !o.discard then r.setS o.reg (BitVec.ofNat 64 (leNat (data.take 8)))
  else r

/-- The operation leaves the core; what it held back may go. -/
def endFar (s : State) (c : CoreId) (o : FarOp) : State :=
  releaseFar (s.modCore c (fun k => { k with far := k.far.filter (fun e => e.id != o.id) })) c

/-- A reply whose frames are present; a second reply to one sequence number is discarded. -/
def endReply (s : State) (f : Frame) (more : Bytes) : State :=
  let v := leNat (f.content.take 16)
  let status := bits v 127 112
  match planOfJob s f.job.toNat with
  | none => s
  | some (_, p) =>
    match planCorePhys s p f.srcCore.toNat with
    | none => s
    | some c =>
      match s.cores[c].far.find? (fun o => o.seq == f.seq && o.place == f.src && o.issued.isSome) with
      | none => s
      | some o =>
        if status = 0 then endFar (s.modCore c (·.lateRegs o.id (o.regs (f.content.drop 16 ++ more)))) c o
        else coreFault (endFar s c o) c status o.bundle o.op o.reg 3 0 5 o.addr none

/-- REPLY: a reply of two frames waits for its CONTINUE. -/
def takeReply (s : State) (f : Frame) : State :=
  if f.more then
    match s.endpoint.halves.find? (fun e => sameRequest e.1 f && e.1.typ == 2) with
    | some (g, _) => endReply (dropHalves s f) f g.content
    | none => holdHalf s f
  else endReply s f []

def execFarReply (f : Frame) (s : State) : Host.Outcome State Fault Refusal :=
  .next (if serving s then takeReply s f else s)

/-- CONTINUE: the second frame of a request or of a reply arrives. A request that waits for it comes before a reply: their
frames say nothing that tells them apart (notes/assumptions/42.md). -/
def takeContinue (s : State) (g : Frame) (corrected lost : List Nat) : State :=
  let held (typ : BitVec 4) : Option (Frame × Bell) := s.endpoint.halves.find? (fun e => sameRequest e.1 g && e.1.typ == typ)
  match held 1, held 3 with
  | some (f, _), _ => serve (noteFar (dropHalves s g) f corrected lost) f g.content
  | none, some (f, _) => endReply (dropHalves s g) f g.content
  | none, none => holdHalf s g

def execContinueFrame (g : Frame) (corrected lost : List Nat) (s : State) : Host.Outcome State Fault Refusal :=
  happen s (fun s => takeContinue s g corrected lost)

def findFar (s : State) (c : CoreId) (seq : BitVec 16) : Option (FarOp × Bell) :=
  match s.cores[c].far.find? (fun o => o.seq == seq) with
  | some o => o.issued.map (fun b => (o, b))
  | none => none

/-- FAR_RESEND at 20,000, 40,000 and 60,000 bells after the first issue. -/
def farResend (s : State) (c : CoreId) (seq : BitVec 16) : State :=
  match findFar s c seq with
  | none => s
  | some (o, b) =>
    if o.resends < 3 ∧ b + 20000 * (o.resends + 1) ≤ s.bell then
      (s.modCore c (fun k => { k with far := k.far.map (fun (e : FarOp) => if e.id = o.id then { e with resends := e.resends + 1 } else e) }.count
        0x0C3 1)).emit (.farRequest o.place o.job.toNat s.cores[c].planCore o s.bell)
    else s

def execFarResend (c : CoreId) (seq : BitVec 16) (s : State) : Host.Outcome State Fault Refusal :=
  happen s (fun s => farResend s c seq)

/-- TARGET_LOST at 80,000 bells. -/
def targetLost (s : State) (c : CoreId) (seq : BitVec 16) : State :=
  match findFar s c seq, s.cores[c].plan with
  | some (o, b), some i =>
    if b + 80000 ≤ s.bell then
      let s := journalPlan s i 0x0502 (leBytes 4 o.place.toNat ++ leBytes 2 s.cores[c].planCore ++ leBytes 2 o.seq.toNat
        ++ leBytes 8 o.addr)
      coreFault (s.modCore c (fun k => { k with far := k.far.filter (fun e => e.id != o.id) })) c codeTargetLost o.bundle o.op
        o.reg 3 0 5 o.addr none
    else s
  | _, _ => s

def execTargetLost (c : CoreId) (seq : BitVec 16) (s : State) : Host.Outcome State Fault Refusal :=
  .next (if serving s then targetLost s c seq else s)

end Sys2Proof.Machine
end

