-- ==== Sys2Proof/Machine/Member.lean ====
section
/-! DEFINITION. A module as a member of its domain and of jobs: joining (13 R297, R298), installs (R304), arming and launch
(R306, R307), local teardown (R309), route removal (R310), twin stops (R314) and a new primary (R299). -/

namespace Sys2Proof.Machine
open Sys2Proof

/-! ### Messages to the reeve and through the trees -/

/-- The answer to a message of the reeve that serves. -/
def toReeve (s : State) (request msg job arg : Nat) : State :=
  answerControl s (fun k => k.msg == request) [s.domain.primary] msg job arg []

/-- A message of the reeve that serves, as this module keeps it. -/
def reeveMsg (s : State) (job msg seq : Nat) (treeB : Bool) : Acted := ⟨s.domain.primary, job, msg, seq, treeB, none⟩

def memberPlace (p : Plan) (m : Nat) : Nat := p.memberPlaces.getD m 0

/-- Pass a message of the reeve, with its SEQ, to this member's children in a tree (13 R306). -/
def passDown (s : State) (p : Plan) (b : Bool) (msg seq arg : Nat) : State :=
  (p.node b).children.foldl (fun s m => s.emit (.control ⟨[memberPlace p m], msg, p.jobId, seq, arg, []⟩)) s

/-- A teardown or wipe of any job, or the fill of a re-formed window, is in progress (13 R306, R311). -/
def tearing (s : State) : Bool := (loadedPlans s).any (fun p => p.teardownCause.isSome) || !s.reforming.isEmpty

/-! ### Joining (13 R297, R298) -/

/-- A bell of a timer that runs while the bell is set: it keeps its distance from the bell. -/
def shiftBell (old new b : Bell) : Bell := b + new - old

/-- Set the bell, keeping what the running timers have measured (notes/assumptions/20.md). -/
def setBell (s : State) (new : Bell) : State :=
  let f := shiftBell s.bell new
  { s with
    bell := new,
    host := { s.host with lastBell := f s.host.lastBell,
                          sessions := s.host.sessions.map (fun k => { k with lastBell := f k.lastBell }) },
    autostart := { s.autostart with readyBell := f s.autostart.readyBell },
    reeve := { s.reeve with lastBeat := f s.reeve.lastBeat },
    draining := s.draining.map (fun d => { d with since := f d.since, shutdown := d.shutdown.map (fun e => (e.1, f e.2)) }),
    ports := s.ports.map (fun q => { q with
      replayBuf := q.replayBuf.map (fun e => { e with bell := f e.bell }), timeSent := f q.timeSent, lastTrain := f q.lastTrain }),
    counting := { s.counting with bwNumber := new / s.counting.bwWindow } }

/-- JOIN_ACK, or a refusal with its reason, from the serving reeve at place `src`. A module whose place is not that of
the reeve that serves runs no primary reeve (13 R299). -/
def joinAck (s : State) (src : Nat) (admitted : Bool) (reason : Nat) (bell : Bell) : State :=
  if s.domain.joined then s
  else
    let payload (s' : State) : Bytes := leBytes 4 (cfgPlace s) ++ leBytes 1 admitted.toNat ++ leBytes 1 reason
      ++ leBytes 8 s.bell ++ leBytes 8 s'.bell
    if !admitted then journalRaw s 0x0507 0 0 0xFF (payload s)
    else
      let s' := setBell s bell
      let s' := { s' with
        domain := { s'.domain with joined := true, bellSet := true, primary := src },
        reeve := { s'.reeve with role := if s'.reeve.role = 1 ∧ src ≠ cfgPlace s then 0 else s'.reeve.role } }
      autoJoined (journalRaw s' 0x0507 0 0 0xFF (payload s'))

def execJoinAck (src : Nat) (admitted : Bool) (reason bell : Nat) (s : State) : Host.Outcome State Fault Refusal :=
  happen s (fun s => joinAck s src admitted reason bell)

/-- REEVE_TAKEOVER from the new primary, which is the time source too; the domain has no standby. -/
def execReeveTakeover (place : Nat) (s : State) : Host.Outcome State Fault Refusal :=
  happen s (fun s =>
    { s with domain := { s.domain with primary := place, standby := place },
             reeve := { s.reeve with role := if place = cfgPlace s then s.reeve.role else 0 } })

/-! ### INSTALL (13 R304) -/

/-- Write a route entry into the lowest entry that is not in use; an entry that is there already stands. -/
def addRoute (s : State) (e : RouteEntry) : Option State :=
  if s.routes.toList.contains e then some s
  else
    match (List.finRange 8192).find? (fun k : Fin 8192 => !s.routes[k].valid) with
    | some k => some { s with routes := s.routes.set k e }
    | none => none

/-- The entries of an INSTALL, with its job id, in both copies (11 R251). -/
def addRoutes (s : State) (job : Nat) : List RouteEntry → Option State
  | [] => some s
  | e :: t =>
    match addRoute s { e with job := BitVec.ofNat 16 job, valid := true } with
    | some s => addRoutes s job t
    | none => none

/-- Region entries go to the entries that the plan holds, in order. -/
def addRegions (s : State) (i : Fin 16) (job : Nat) (entries : List Nat) (l : List RegionEntry) : State :=
  (entries.zip l).foldl (fun s e =>
    if h : e.1 < 4096 then
      { s with regions := s.regions.set e.1 { e.2 with job := BitVec.ofNat 16 job, plan := BitVec.ofNat 4 i, valid := true } }
    else s) s

def addHandles (s : State) (i : Fin 16) (job : Nat) (l : List HandleInstall) : State :=
  s.modPlanCores i (fun k => (l.filter (fun e => e.planCore == k.planCore)).foldl (fun k e =>
    { k with fh := k.fh.set e.handle ⟨e.place, BitVec.ofNat 16 job, e.key⟩ }) k)

/-- A loaded plan becomes a member of a job. -/
def bindJob (s : State) (i : Fin 16) (p : Plan) (job member members : Nat) (places : List Nat) (regions : List RegionEntry)
    (handles : List HandleInstall) (twin : Bool) : State :=
  let s := addHandles (addRegions s i job p.regionEntries regions) i job handles
  let s := s.modPlan i (fun q => { q with
    jobId := job, member := member, members := members, memberPlaces := places, twin := twin, jobState := .installed,
    treeA := treeNode false members member, treeB := treeNode true members member })
  measExtend s 10 (sha512 (leBytes 2 job ++ leBytes 2 member ++ leBytes 2 members ++ leBytes 64 p.digest))

/-- INSTALL: a transit module has no digest. A member whose plan is not loaded and filled, or is bound elsewhere, or a
module whose route table is full, gives no answer; an INSTALL that is in place is acknowledged without change. -/
def install (s : State) (job member members : Nat) (digest : Option Nat) (places : List Nat) (routes : List RouteEntry)
    (regions : List RegionEntry) (handles : List HandleInstall) (twin : Bool) : State :=
  if !s.domain.joined then s
  else
    match addRoutes s job routes with
    | none => s
    | some s' =>
      match digest with
      | none => toReeve s' 0x10 0x11 job member
      | some d =>
        match planOfDigest s d with
        | none => s
        | some i =>
          match s.plans[i] with
          | none => s
          | some p =>
            if p.jobId = job ∧ job ≠ 0 then toReeve s 0x10 0x11 job p.member
            else if p.jobId ≠ 0 || p.draining || !p.filled || job = 0 then s
            else toReeve (bindJob s' i p job member members places regions handles twin) 0x10 0x11 job member

def execInstall (m : ReeveMsg) (member members : Nat) (digest : Option Nat) (places : List Nat) (routes : List RouteEntry)
    (regions : List RegionEntry) (handles : List HandleInstall) (twin : Bool) (s : State) :
    Host.Outcome State Fault Refusal :=
  happen s (fun s => actOnce s (reeveMsg s m.job 0x10 m.seq false) (fun s =>
    install s m.job member members digest places routes regions handles twin))

/-! ### ARM and its answers (13 R306) -/

/-- A node's combination of answers: READY only if every one is, else the lowest member that is not READY with its
answer. -/
def combineAnswers (own : Nat) (l : List (Nat × Nat)) : Nat × Nat :=
  (l.filter (fun e => e.1 != 0x13)).foldl (fun b e => if b.1 = 0x13 ∨ e.2 < b.2 then e else b) (0x13, own)

/-- An answer (message code, member it names) reaches this member's node in a tree from a child or from itself. -/
def nodeAnswer (s : State) (i : Fin 16) (b : Bool) (src code who : Nat) : State :=
  match s.plans[i] with
  | none => s
  | some p =>
    let l := p.answers.filter (fun e => !(e.1 == b && e.2.1 == src)) ++ [(b, src, code, who)]
    let s := s.modPlan i (fun q => { q with answers := l })
    let mine := l.filter (fun e => e.1 == b)
    if (p.member :: (p.node b).children).all (fun m => mine.any (fun e => e.2.1 == m)) then
      let (c, w) := combineAnswers p.member (mine.map (fun e => (e.2.2.1, e.2.2.2)))
      let dst := match (p.node b).parent with
        | some m => memberPlace p m
        | none => s.domain.primary
      answerControl s (fun k => k.msg == 0x12 && k.treeB == b) [dst] c p.jobId w []
    else s

/-- A member's own answer to an ARM. -/
def armAnswer (s : State) (p : Plan) (l : Bell) : Nat :=
  if tearing s then 0x15
  else match p.jobState with
    | .installed | .armed => 0x13
    | .running => if p.launchBell = some l then 0x13 else 0x14
    | _ => 0x14

/-- ARM for launch bell L, in a tree. A module that holds no install of the job answers the reeve itself; the member
index is then not known (a free value). -/
def arm (s : State) (seq job : Nat) (b : Bool) (l : Bell) : State :=
  if !s.domain.joined then s
  else
    match planOfJob s job with
    | none =>
      let (w, s') := takeFree s
      toReeve s' 0x12 (if tearing s then 0x15 else 0x14) job w
    | some (i, p) =>
      let a := armAnswer s p l
      let s := passDown s p b 0x12 seq l
      let s := if p.jobState = .installed ∨ p.jobState = .armed then
          s.modPlan i (fun q => { q with jobState := .armed, launchBell := some l, goHeld := q.goHeld && q.launchBell == some l,
                                         answers := if q.launchBell = some l then q.answers else [] })
        else s
      nodeAnswer s i b p.member a p.member

/-- A module that is FAULT_STOPPED answers ARM NOT_READY; where it holds no install of the job its member index is a free
value. -/
def armStopped (s : State) (job : Nat) : State :=
  match planOfJob s job with
  | some (_, p) => toReeve s 0x12 0x14 job p.member
  | none =>
    let (w, s) := takeFree s
    toReeve s 0x12 0x14 job w

/-! ### GO, launch and disarming (13 R306, R307) -/

/-- GO: accepted until L - 50,000; a later one is discarded. -/
def go (s : State) (seq job : Nat) (b : Bool) : State :=
  match planOfJob s job with
  | none => s
  | some (i, p) =>
    match p.launchBell with
    | none => s
    | some l =>
      if l < s.bell + 50000 then s
      else
        let s := passDown s p b 0x16 seq 0
        if p.jobState = .armed then s.modPlan i (fun q => { q with goHeld := true }) else s

def execGoMsg (m : ReeveMsg) (treeB : Bool) (s : State) : Host.Outcome State Fault Refusal :=
  happen s (fun s => actOnce s (reeveMsg s m.job 0x16 m.seq treeB) (fun s => go s m.seq m.job treeB))

/-- LAUNCH at bell L: the grid of every service starts at L, and step 0 opens. -/
def launch (s : State) (i : Fin 16) : State :=
  match s.plans[i] with
  | none => s
  | some p =>
    match p.launchBell with
    | none => s
    | some l =>
      if p.jobState = .armed ∧ p.goHeld ∧ l ≤ s.bell then
        let s := s.modPlan i (fun q => { q with
          jobState := .running, launched := true, gridBell := l, step := 0, attempt := 0,
          nextSlot := q.img.services.map (fun _ => 0) })
        let s := slotOpen s i
        toReeve s 0x16 0x17 p.jobId p.member
      else s

def execLaunch (i : Fin 16) (s : State) : Host.Outcome State Fault Refusal := happen s (fun s => launch s i)

/-- The member disarms and keeps its install. -/
def disarmPlan (s : State) (i : Fin 16) : State :=
  s.modPlan i (fun q => { q with jobState := .installed, launchBell := none, goHeld := false, answers := [] })

/-- DISARM in a tree; a member that is disarmed already answers again. -/
def disarm (s : State) (seq job : Nat) (b : Bool) : State :=
  match planOfJob s job with
  | none => s
  | some (i, p) =>
    let s := passDown s p b 0x18 seq 0
    if p.jobState = .armed then toReeve (disarmPlan s i) 0x18 0x19 job p.member
    else if p.jobState = .installed then toReeve s 0x18 0x19 job p.member
    else s

def execDisarm (m : ReeveMsg) (treeB : Bool) (s : State) : Host.Outcome State Fault Refusal :=
  happen s (fun s => actOnce s (reeveMsg s m.job 0x18 m.seq treeB) (fun s => disarm s m.seq m.job treeB))

/-- ARMED_TIMEOUT: still armed without GO at L + 1,000,000. -/
def armedTimeout (s : State) (i : Fin 16) : State :=
  match s.plans[i] with
  | none => s
  | some p =>
    match p.launchBell with
    | none => s
    | some l =>
      if p.jobState = .armed ∧ !p.goHeld ∧ l + 1000000 ≤ s.bell then toReeve (disarmPlan s i) 0x18 0x19 p.jobId p.member else s

def execArmedTimeout (i : Fin 16) (s : State) : Host.Outcome State Fault Refusal := happen s (fun s => armedTimeout s i)

/-! ### Local teardown (13 R309) -/

/-- TEARDOWN_DONE to both reeves. -/
def sendDone (s : State) (job member : Nat) : State :=
  answerControl s (fun k => k.msg == 0x21) (reeves s) 0x22 job member []

/-- TEARDOWN from the reeve. A module that has completed the teardown answers again; its member index in a job that it
no longer holds is a free value. -/
def teardown (s : State) (job cause : Nat) : State :=
  match planOfJob s job with
  | some (i, _) => fenceJob s i cause
  | none =>
    let (w, s) := takeFree s
    sendDone s job w

def execTeardown (m : ReeveMsg) (cause : Nat) (s : State) : Host.Outcome State Fault Refusal :=
  happen s (fun s => actOnce s (reeveMsg s m.job 0x21 m.seq false) (fun s => teardown s m.job cause))

/-- Orders 2 and 3: the plan's local memory operations have ended; held requests are answered, and the job's entries,
handles and caches go. Order 4 starts. -/
def drainEnd (s : State) (i : Fin 16) : State :=
  match s.plans[i] with
  | none => s
  | some p =>
    if p.jobState ≠ .fenced ∨ (planCores s i).any (fun k => !k.moves.isEmpty || !k.copies.isEmpty) then s
    else
      (revokeJob (tornRequests s i) i p.jobId).modPlan i (fun q => { q with jobState := .wiping, teardownBell := s.bell })

def execTeardownDrainEnd (i : Fin 16) (s : State) : Host.Outcome State Fault Refusal := happen s (fun s => drainEnd s i)

/-- Zero fill of a plan's frames, of its bins and of its cores' SRAM (08 R176; 12 R286). -/
def wipePlan (s : State) (i : Fin 16) (p : Plan) : State :=
  let lo (f : Nat × Nat) : Nat := f.1 * windowSpan + f.2 * pageBytes
  let inside (a : Nat) : Bool := p.frames.any (fun f => lo f ≤ a && a < lo f + pageBytes)
  { s with
    hbm := p.frames.foldl (fun m f => memClear m (lo f) (lo f + pageBytes)) s.hbm,
    hbmBad := s.hbmBad.filter (fun l => !inside (l * 64)),
    bins := Vector.ofFn (fun b : Fin 512 => if p.bins.contains b.val then { s.bins[b] with mem := [], bad := [] } else s.bins[b]),
    cores := s.cores.map (fun k => if k.plan = some i then { k with sram := [], sramBad := [] } else k) }

/-- 14 R330: the history of a job torn down by any other cause than JOB_STOP is kept as the frozen history. The range of
an empty history is not given (free values). -/
def freezeHistory (s : State) (i : Fin 16) (p : Plan) : State :=
  if p.teardownCause = some 0x7003 then s
  else
    let s := { s with frozen := p.history }
    match p.history.head?, p.history.getLast? with
    | some a, some b => journalPlan s i 0x0604 (leBytes 4 a.step ++ leBytes 4 b.step)
    | _, _ =>
      let (a, s) := takeFree s
      let (b, s) := takeFree s
      journalPlan s i 0x0604 (leBytes 4 a ++ leBytes 4 b)

/-- Orders 4 and 5 end; where a window that holds the plan's frames re-forms, with its fill (20 R448). -/
def wipeEnd (s : State) (i : Fin 16) : State :=
  match s.plans[i] with
  | none => s
  | some p =>
    if p.jobState ≠ .wiping ∨ p.frames.any (fun f => s.reforming.contains f.1) then s
    else
      let s := freezeHistory (wipePlan s i p) i p
      let s := freePlan s i (p.teardownCause.getD 0)
      let s := journalRaw s 0x050D p.jobId p.member i (leBytes 8 (s.bell - p.teardownBell))
      sendDone s p.jobId p.member

def execTeardownWipeEnd (i : Fin 16) (s : State) : Host.Outcome State Fault Refusal := happen s (fun s => wipeEnd s i)

/-- ROUTE_REMOVE (13 R310). -/
def routeRemove (s : State) (job : Nat) : State :=
  toReeve { s with routes := s.routes.map (fun e => if e.valid ∧ e.job.toNat = job then RouteEntry.reset else e) } 0x23 0x24 job 0

def execRouteRemove (m : ReeveMsg) (s : State) : Host.Outcome State Fault Refusal :=
  happen s (fun s => actOnce s (reeveMsg s m.job 0x23 m.seq false) (fun s => routeRemove s m.job))

/-! ### Twin stop at a root (13 R314) -/

def twinStop (s : State) (job cause : Nat) : State :=
  match planOfJob s job with
  | none => s
  | some (i, p) =>
    if p.members ≤ 1 || isRoot false p.members p.member || isRoot true p.members p.member then
      s.modPlan i (fun q => { q with twinStop := some cause })
    else s

def execTwinStop (job cause : Nat) (s : State) : Host.Outcome State Fault Refusal := happen s (fun s => twinStop s job cause)

end Sys2Proof.Machine
end

