-- ==== Sys2Proof/Machine/Reeve.lean ====
section
/-! DEFINITION. The reeve (13 R296-R316): admission of modules, job starts, launch, teardown, job ids, takeover by the
standby, and the comparison of a twin. No command carries a change of the job table to the standby or its acknowledgement
(R299): the acknowledgement is taken as having come when the change is sent (notes/assumptions/21.md). -/

namespace Sys2Proof.Machine
open Sys2Proof

def isPrimary (s : State) : Bool := s.reeve.role == 1
def findJob (s : State) (job : Nat) : Option ReeveJob := s.reeve.jobs.find? (fun j => j.id == job)
def State.modJob (s : State) (job : Nat) (f : ReeveJob → ReeveJob) : State :=
  { s with reeve := { s.reeve with jobs := s.reeve.jobs.map (fun j => if j.id = job then f j else j) } }

/-! ### Messages that await answers (13 R316) -/

/-- A change of the job table goes to the standby before the message that follows from it (13 R299). -/
def mirrorJob (s : State) (job : Nat) : State :=
  if s.reeve.hasStandby && job != 0 then s.emit (.mirror s.domain.standby job (findJob s job)) else s

def reeveSend (s : State) (dst : List Nat) (msg job arg : Nat) (content : Bytes) (awaits : List Nat) : State :=
  let n := nextControl s job
  let s := sendControl (mirrorJob s job) dst msg job arg content
  { s with reeve := { s.reeve with waits := s.reeve.waits ++ [⟨dst, msg, job, n, arg, content, s.bell, awaits⟩] } }

/-- The answer of a place has arrived. -/
def answered (s : State) (msg job place : Nat) : State :=
  let take (w : ControlWait) : ControlWait :=
    if w.msg = msg ∧ w.job = job then { w with awaits := w.awaits.filter (fun a => a != place) } else w
  let left := (s.reeve.waits.map take).filter (fun w => !w.awaits.isEmpty)
  { s with reeve := { s.reeve with waits := left } }

/-- Messages of a job whose answers no longer matter. -/
def forget (s : State) (job : Nat) (msgs : List Nat) : State :=
  { s with reeve := { s.reeve with waits := s.reeve.waits.filter (fun w => !(w.job == job && msgs.contains w.msg)) } }

/-- ARM, GO and DISARM go down both trees from their roots; every other message goes to the places that owe an answer. -/
def resendTo (w : ControlWait) : List Nat := if [0x12, 0x16, 0x18].contains w.msg then w.dst else w.awaits

/-- CONTROL_RESEND: every message that has lacked its answer for 20,000 bells. -/
def controlResend (s : State) : State :=
  let due (w : ControlWait) : Bool := w.sent + 20000 ≤ s.bell
  let s' := (s.reeve.waits.filter due).foldl (fun s w => s.emit (.control ⟨resendTo w, w.msg, w.job, w.seq, w.arg, w.content⟩)) s
  { s' with reeve := { s'.reeve with waits := s.reeve.waits.map (fun (w : ControlWait) => if due w then { w with sent := s.bell } else w) } }

def execControlResend (s : State) : Host.Outcome State Fault Refusal := happen s controlResend

/-! ### Bounds of a placement (09 R208; 13 R304) -/

def hopBound (a b : Nat) : Nat :=
  if a / 4 = b / 4 then 150 else if a / 64 = b / 64 then 200 else if a / 2048 = b / 2048 then 600
  else if a / 65536 = b / 65536 then 2000 else 8000

def rootMember (b : Bool) (n : Nat) : Nat := treeMember b n (rootPos n)
def placeOf (places : List Nat) (m : Nat) : Nat := places.getD m 0

/-- The edges of tree A: level and hop bound. -/
def treeEdges (places : List Nat) : List (Nat × Nat) :=
  let n := places.length
  (List.range n).filterMap (fun i =>
    if isRoot false n i then none
    else
      let q := parentPos n (treePos false n i)
      some (tz q, hopBound (placeOf places i) (placeOf places (treeMember false n q))))

/-- The sum over the levels of tree A of the largest hop bound of the level. -/
def levelSum (places : List Nat) : Nat :=
  let es := treeEdges places
  ((List.range 14).map (fun l => ((es.filter (fun e => e.1 == l)).map (·.2)).foldl max 0)).sum

/-- H of R208. -/
def harvestBound (places : List Nat) : Nat := 600 + 2 * levelSum places

/-- Hop bound of the path from the reeve to a root; a reeve that is the root has no path. -/
def rootHop (own : Nat) (places : List Nat) (b : Bool) : Nat :=
  let r := placeOf places (rootMember b places.length)
  if r = own then 0 else hopBound own r

/-- A of R304; the longer of the paths to the two roots. -/
def controlBound (own : Nat) (places : List Nat) : Nat :=
  600 + max (rootHop own places false) (rootHop own places true) + levelSum places

/-- Places of the roots of both trees. -/
def rootPlaces (places : List Nat) : List Nat :=
  [placeOf places (rootMember false places.length), placeOf places (rootMember true places.length)].dedup

/-! ### Admission of a module (13 R297) -/

/-- A TEARDOWN_DONE of a member, or its JOIN after a restart (13 R310). -/
def memberDone (s : State) (j : ReeveJob) (place : Nat) : State :=
  match j.phase, j.places.idxOf? place with
  | .teardown, some m =>
    let done := if j.done.contains m then j.done else j.done ++ [m]
    let s := (answered s 0x21 j.id place).modJob j.id (fun j => { j with done := done })
    if (List.range j.places.length).all (fun m => done.contains m) then
      reeveSend (s.modJob j.id (fun j => { j with phase := .removing, removed := [] })) j.holders 0x23 j.id 0 [] j.holders
    else s
  | _, _ => s

/-- Route entries as an INSTALL carries them (*Route entry field map*), with their count first (notes/assumptions/48.md). -/
def routeBytes (job : Nat) (l : List RouteEntry) : Bytes :=
  leBytes 2 l.length ++ l.flatMap (fun e =>
    leBytes 16 (job % 2 ^ 16 * 2 ^ 112 + e.place.toNat * 2 ^ 90 + e.level.toNat * 2 ^ 87 + e.ports.toNat * 2 ^ 55 + 1))

/-- JOIN. A quote of a later start of the module that holds the place in the table says that it has restarted
(notes/assumptions/22.md); the code of a refusal and its reason are not given (free values). An admitted module receives
JOIN_ACK and its route entries of job id 0. -/
def join (s : State) (place grade logical : Nat) (quote : JoinQuote) (routes : List RouteEntry) : State :=
  if !isPrimary s then s
  else
    let known := s.reeve.joined.any (fun e => e.1 == place)
    let s := if known && quote.restarted then
        let s := s.reeve.jobs.foldl (fun s j => memberDone s j place) s
        { s with reeve := { s.reeve with joined := s.reeve.joined.filter (fun e => e.1 != place) } }
      else s
    if quote.ok && quote.meas11 == s.meas[11] && !s.reeve.joined.any (fun e => e.1 == place)
        && s.reeve.joined.length < cfgDomainSize s then
      let s := { s with reeve := { s.reeve with joined := s.reeve.joined ++ [(place, grade, logical)] } }
      let s := answerControl s (fun k => k.msg == 0x01 && k.sender == place) [place] 0x02 0 0 (leBytes 8 s.bell)
      reeveSend s [place] 0x10 0 0 (leBytes 2 0 ++ routeBytes 0 routes) [place]
    else
      let (m, s) := takeFree s
      let (r, s) := takeFree s
      answerControl s (fun k => k.msg == 0x01 && k.sender == place) [place] m 0 0 (leBytes 1 r)

/-- A module that has restarted counts its messages anew. -/
def forgetSender (s : State) (place : Nat) : State := { s with acted := s.acted.filter (fun k => k.sender != place) }

def execJoinMsg (seq place grade logical : Nat) (quote : JoinQuote) (routes : List RouteEntry) (s : State) :
    Host.Outcome State Fault Refusal :=
  happen s (fun s =>
    actOnce (if quote.restarted then forgetSender s place else s) ⟨place, 0, 0x01, seq, false, none⟩ (fun s =>
      join s place grade logical quote routes))

/-! ### Launch (13 R306, R307, R311) -/

/-- A TEARDOWN_DONE of a member of the job is outstanding. -/
def outstanding (s : State) (j : ReeveJob) : Bool :=
  j.busy.isSome || s.reeve.jobs.any (fun t => t.phase == .teardown && t.id != j.id &&
    (List.range t.places.length).any (fun m => !t.done.contains m && j.places.contains (placeOf t.places m)))

/-- ARM both trees of this half for launch bell L. -/
def armAt (s : State) (j : ReeveJob) (l : Bell) : State :=
  reeveSend (s.modJob j.id (fun j => { j with phase := .arming, launch := l, reports := [] }))
    (rootPlaces j.places) 0x12 j.id l [] (rootPlaces j.places)

/-- This module's reeve is the primary of a twin's side B, which takes L from side A (13 R312). -/
def twinB (s : State) : Bool := isPrimary s && cfgTwin s && cfgTwinSideB s

/-- ARM with a launch bell of at least t + 250,000 + 2A: how far above it is a free value. In a twin, side A chooses it and
sends it to side B. -/
def armJob (s : State) (job : Nat) : State :=
  match findJob s job with
  | none => s
  | some j =>
    if j.busy.isSome || twinB s then s
    else
      let (r, s) := takeFree s
      let l := s.bell + 250000 + 2 * j.boundA + r
      let s := armAt s j l
      if cfgTwin s then sendControl s [cfgTwinPrimary s] 0x12 job l [] else s

/-- ARM: from side A to side B's primary, or in a tree to a member. -/
def armArrives (s : State) (seq job : Nat) (b : Bool) (l : Bell) : State :=
  match (if twinB s then findJob s job else none) with
  | some j =>
    if j.phase == .installed && j.busy.isNone then armAt s j l
    else actOnce s (reeveMsg s job 0x12 seq b) (fun s => arm s seq job b l)
  | none => actOnce s (reeveMsg s job 0x12 seq b) (fun s => arm s seq job b l)

/-- ARM reaches a module in service, or one that is FAULT_STOPPED. -/
def execArm (m : ReeveMsg) (treeB : Bool) (l : Nat) (s : State) : Host.Outcome State Fault Refusal :=
  if s.mod.state = .stopped then .next (actOnce s (reeveMsg s m.job 0x12 m.seq treeB) (fun s => armStopped s m.job))
  else happen s (fun s => armArrives s m.seq m.job treeB l)

/-- DISARM down both trees. -/
def disarmJob (s : State) (j : ReeveJob) (busy : Option Nat) : State :=
  let s := (forget s j.id [0x12]).modJob j.id (fun j => { j with phase := .installed, busy := busy })
  reeveSend s (rootPlaces j.places) 0x18 j.id 0 [] j.places

/-- R307: DISARM at once, and LAUNCH_ABANDONED. -/
def abandonLaunch (s : State) (j : ReeveJob) (who answer : Nat) : State :=
  journalRaw (disarmJob s j (if answer = 0x15 then some who else none)) 0x050B j.id 0 0xFF
    (leBytes 8 j.launch ++ leBytes 2 who ++ leBytes 1 answer)

/-- The reeve takes a combined answer; the first of the two decides. In a twin, `otherReady` says that the other side has
answered READY too. -/
def takeAnswer (s : State) (job answer who : Nat) (b otherReady : Bool) : State :=
  match findJob s job with
  | none => s
  | some j =>
    let s := answered s 0x12 job (placeOf j.places (rootMember b j.places.length))
    if j.phase != .arming then s
    else if answer ≠ 0x13 then abandonLaunch s j who answer
    else if outstanding s j || (cfgTwin s && !otherReady) || j.launch < s.bell + 200000 then s
    else
      reeveSend ((forget s job [0x12]).modJob job (fun j => { j with phase := .going }))
        (rootPlaces j.places) 0x16 job 0 [] j.places

/-- ARM_ANSWER: from a child to this member's node, or combined by a root to the reeve. -/
def armAnswerArrives (s : State) (job : Nat) (b : Bool) (src : Option Nat) (answer who : Nat) (otherReady : Bool) : State :=
  match src with
  | none => if isPrimary s then takeAnswer s job answer who b otherReady else s
  | some m =>
    match planOfJob s job with
    | some (i, p) => if (p.node b).children.contains m then nodeAnswer s i b m answer who else s
    | none => s

def execArmAnswer (job : Nat) (treeB : Bool) (src : Option Nat) (answer who : Nat) (otherReady : Bool) (s : State) :
    Host.Outcome State Fault Refusal :=
  happen s (fun s => armAnswerArrives s job treeB src answer who otherReady)

/-- GO_DEADLINE: L - 200,000 has come without GO. The member and answer of the record are free values where no answer
names them. -/
def goDeadline (s : State) (job : Nat) : State :=
  match findJob s job with
  | none => s
  | some j =>
    if isPrimary s && j.phase == .arming && j.launch ≤ s.bell + 200000 then
      let (m, s) := takeFree s
      let (a, s) := takeFree s
      journalRaw (disarmJob s j none) 0x050B j.id 0 0xFF (leBytes 8 j.launch ++ leBytes 2 m ++ leBytes 1 a)
    else s

def execGoDeadline (job : Nat) (s : State) : Host.Outcome State Fault Refusal := happen s (fun s => goDeadline s job)

/-! ### Teardown by the reeve (13 R308, R310) -/

/-- The first cause: TEARDOWN_BEGUN, and TEARDOWN to every member. -/
def beginTeardown (s : State) (j : ReeveJob) (cause first : Nat) : State :=
  if j.phase == .teardown || j.phase == .removing then s
  else
    let s := journalRaw s 0x050C j.id 0 0xFF (leBytes 2 cause ++ leBytes 2 first)
    let s := (forget s j.id [0x10, 0x12, 0x16, 0x18]).modJob j.id (fun j => { j with phase := .teardown, cause := cause, done := [] })
    reeveSend s j.places 0x21 j.id cause [] j.places

/-- JOB_FAULT of a member. -/
def jobFaultArrives (s : State) (job cause member : Nat) : State :=
  match findJob s job with
  | some j => if isPrimary s then beginTeardown s j cause member else s
  | none => s

def execJobFault (job cause member : Nat) (s : State) : Host.Outcome State Fault Refusal :=
  happen s (fun s => jobFaultArrives s job cause member)

/-- JOB_STOP from a session; the first member of its record is a free value. -/
def execJobStop (h : HostHdr) (job : Nat) (s : State) : Host.Outcome State Fault Refusal :=
  .next (hostRequest s h 0x2A (fun s k => mayStart s k) (fun s _ =>
    match findJob s job with
    | none => hostReply s h 0x2A codeFrame []
    | some j =>
      let (m, s) := takeFree s
      hostReply (beginTeardown s j 0x7003 m) h 0x2A 0 []))

/-- LAUNCHED (`ok`) or DISARMED of a member. -/
def launchReport (s : State) (job member : Nat) (ok : Bool) : State :=
  match findJob s job with
  | none => s
  | some j =>
    if !isPrimary s then s
    else
      let place := placeOf j.places member
      if ok then
        let s := answered s 0x16 job place
        if j.phase != .going || j.reports.any (fun e => e.1 == member) then s
        else
          let s := s.modJob job (fun j => { j with reports := j.reports ++ [(member, true)] })
          if j.reports.length + 1 = j.places.length then
            journalRaw (s.modJob job (fun j => { j with phase := .launched })) 0x050A job 0 0xFF (leBytes 8 j.launch)
          else s
      else if j.phase == .going then beginTeardown s j 0x500D member
      else answered s 0x18 job place

def execLaunched (job member : Nat) (ok : Bool) (s : State) : Host.Outcome State Fault Refusal :=
  happen s (fun s => launchReport s job member ok)

/-- LAUNCH_REPORT_DEADLINE: a report is missing at L + 1,000,000 + A. -/
def reportDeadline (s : State) (job : Nat) : State :=
  match findJob s job with
  | none => s
  | some j =>
    if isPrimary s && j.phase == .going && j.launch + 1000000 + j.boundA ≤ s.bell then
      let missing := (List.range j.places.length).filter (fun m => !j.reports.any (fun e => e.1 == m))
      beginTeardown s j 0x500D (missing.headD 0)
    else s

def execLaunchReportDeadline (job : Nat) (s : State) : Host.Outcome State Fault Refusal :=
  happen s (fun s => reportDeadline s job)

/-- TEARDOWN_DONE of the member at a place: its job's routes go once all are in, and a launch that its BUSY_TEARDOWN
stopped is armed again. -/
def teardownDone (s : State) (job place : Nat) : State :=
  if !isPrimary s then s
  else
    let s := (match findJob s job with | some j => memberDone s j place | none => s)
    s.reeve.jobs.foldl (fun s j =>
      match j.busy with
      | some m =>
        if placeOf j.places m = place then
          let s := s.modJob j.id (fun j => { j with busy := none })
          if j.phase == .installed then armJob s j.id else s
        else s
      | none => s) s

def execTeardownDone (job place : Nat) (s : State) : Host.Outcome State Fault Refusal :=
  happen s (fun s => teardownDone s job place)

/-- ROUTE_REMOVED: the job leaves the table when every holder has answered. -/
def routeRemoved (s : State) (job place : Nat) : State :=
  match findJob s job with
  | none => s
  | some j =>
    if !isPrimary s || j.phase != .removing then s
    else
      let s := answered s 0x23 job place
      let removed := if j.removed.contains place then j.removed else j.removed ++ [place]
      if j.holders.all (fun p => removed.contains p) then
        mirrorJob { s with reeve := { s.reeve with jobs := s.reeve.jobs.filter (fun t => t.id != job),
                                                   lapsing := s.reeve.lapsing ++ [(job, s.bell)] } } job
      else s.modJob job (fun j => { j with removed := removed })

def execRouteRemoved (job place : Nat) (s : State) : Host.Outcome State Fault Refusal :=
  happen s (fun s => routeRemoved s job place)

/-- A job id still lapses (13 R303). -/
def lapses (s : State) (job : Nat) : Bool := s.reeve.lapsing.any (fun e => e.1 == job && s.bell < e.2 + 100000)

/-- JOB_ID_FREE. -/
def execJobIdFree (job : Nat) (s : State) : Host.Outcome State Fault Refusal :=
  happen s (fun s => if lapses s job then s
    else { s with reeve := { s.reeve with lapsing := s.reeve.lapsing.filter (fun e => e.1 != job) } })

/-! ### Starting a job (13 R301-R304) -/

/-- The lowest free job id, in a twin in both halves. -/
def freeJobId (s : State) (taken : List Nat) : Option Nat :=
  if 4096 ≤ s.reeve.jobs.length then none
  else ((List.range 65535).map (· + 1)).find? (fun n => !s.reeve.jobs.any (fun j => j.id == n) && !lapses s n && !taken.contains n)

/-- The job id of a start: the lowest free one, or on side B of a twin the one with which side A asks, where it is free. -/
def startId (s : State) (v : JobView) : Option Nat :=
  match v.fromA with
  | none => freeJobId s (if cfgTwin s then v.takenB else [])
  | some n =>
    if 4096 ≤ s.reeve.jobs.length ∨ n = 0 ∨ 65536 ≤ n ∨ s.reeve.jobs.any (fun j => j.id == n) ∨ lapses s n then none else some n

/-- What the checks need of a plan: of this module's own copy, else as found. -/
def planFacts (s : State) (digest : Nat) (v : JobView) : PlanFacts :=
  match (planOfDigest s digest).bind (fun i => s.plans[i]) with
  | some p => ⟨p.img.hdr.members, (p.img.classes.map (fun (c : StepClass) => c.harvAllow)).foldl min (2 ^ 64),
      p.img.collDesc.any (fun b => !(collDesc b).crc), p.img.pages.length, p.img.cores.length, p.img.regions, p.img.handles⟩
  | none => v.plan

/-- This module's own part of checks 4 and 8, where it is a member. -/
def ownPlan (s : State) (digest : Nat) (places : List Nat) : Option (Option Plan) :=
  if places.contains (cfgPlace s) then some ((planOfDigest s digest).bind (fun i => s.plans[i])) else none

def ownLoaded (s : State) (digest : Nat) (places : List Nat) : Bool :=
  match ownPlan s digest places with
  | none => true
  | some none => false
  | some (some p) => !p.draining && p.jobId == 0

def ownBins (s : State) (digest : Nat) (places : List Nat) : Bool :=
  match ownPlan s digest places with
  | some (some p) => p.img.hdr.granaryBins ≤ p.bins.countP (fun b =>
      if h : b < 512 then s.bins[b].inService else false)
  | _ => true

/-- A region's place and size (11 R254): multiples of 4 KiB, within the plan's HBM or shared local SRAM window. -/
def regionPlaced (f : PlanFacts) (r : RegionDecl) : Bool :=
  r.base % 4096 == 0 && r.size % 4096 == 0
  && (r.base + r.size ≤ f.pages * pageBytes || (baseShared ≤ r.base && r.base + r.size ≤ baseShared + f.cores * sharedStride))

def regionsApart : List RegionDecl → Bool
  | [] => true
  | r :: t => t.all (fun q => r.base + r.size ≤ q.base || q.base + q.size ≤ r.base) && regionsApart t

/-- Every region obeys R254. -/
def regionsObey (f : PlanFacts) : Bool := f.regions.all (regionPlaced f) && regionsApart f.regions

/-- The route entries fit this module's own table, and, as found, those of the others. -/
def routesFit (s : State) (v : JobView) : Bool :=
  v.routes.countP (fun e => e.1 == cfgPlace s) ≤ s.routes.toList.countP (fun (e : RouteEntry) => !e.valid) && v.routesFit

/-- The checks after the role's, in order (*Job start check table*; 15 R359 before them): the code of the first that
fails. In a twin, those of this side come before those of the other (notes/assumptions/37.md). -/
def startRefusal (s : State) (digest : Nat) (places : List Nat) (v : JobView) : Option Nat :=
  let f := planFacts s digest v
  let sorted := places.mergeSort (fun a b => a ≤ b)
  if 1 ≤ s.journal.mode then some 0x1008
  else if (startId s v).isNone then some 0x1007
  else if !(places.all (fun p => s.reeve.joined.any (fun e => e.1 == p)) && places.dedup.length == places.length
      && places.length == f.members
      && (!cfgTwin s || v.fromA.isSome || (!cfgTwinSideB s && v.sideB == places.length))) then some 0x3017
  else if !(ownLoaded s digest places && v.loaded) then some 0x3018
  else if !(harvestBound sorted ≤ f.harvAllow && controlBound (cfgPlace s) sorted ≤ 150000) then some 0x3007
  else if f.unchecked && 1024 < s.reeve.joined.length then some 0x3016
  else if !(routesFit s v && regionsObey f) then some 0x3014
  else if !(ownBins s digest places && v.binsHeld) then some 0x3004
  else if cfgTwin s then v.refusedB
  else none

/-! ### What an INSTALL carries (13 R304) -/

/-- KEY of a member's region, from the reeve warden's random number generator. -/
def regionKey (j : ReeveJob) (m n : Nat) : BitVec 64 :=
  BitVec.ofNat 64 (Config.randomNat (j.keySeed + m * j.regions.length + n) 8)

/-- A member's region entries; PLAN is the member's own to fill. -/
def installRegions (j : ReeveJob) (m : Nat) : List RegionEntry :=
  j.regions.zipIdx.map (fun e =>
    let r := e.1
    let sole := r.sole.getD (0, 0)
    { key := regionKey j m e.2, job := BitVec.ofNat 16 j.id, base := r.base, size := r.size, plan := 0, load := r.load,
      store := r.store, atomic := r.atomic, flag := r.flag, sole := r.sole.isSome,
      solePlace := if r.sole.isSome then BitVec.ofNat 22 (placeOf j.places sole.1) else 0,
      soleCore := BitVec.ofNat 10 sole.2, valid := true })

/-- The far handles: each holds its target's place, the job id and the target region's key. -/
def installHandles (j : ReeveJob) : List HandleInstall :=
  j.handles.map (fun h =>
    ⟨h.planCore, Fin.ofNat 64 h.handle, BitVec.ofNat 22 (placeOf j.places h.member), regionKey j h.member h.region⟩)

/-- *Region entry field map*. -/
def regionWord (e : RegionEntry) : Nat :=
  e.key.toNat * 2 ^ 192 + e.job.toNat * 2 ^ 176 + e.base % 2 ^ 42 * 2 ^ 134 + e.size % 2 ^ 42 * 2 ^ 92 + e.plan.toNat * 2 ^ 88
    + e.load.toNat * 2 ^ 83 + e.store.toNat * 2 ^ 82 + e.atomic.toNat * 2 ^ 81 + e.flag.toNat * 2 ^ 80 + e.sole.toNat * 2 ^ 79
    + e.solePlace.toNat * 2 ^ 57 + e.soleCore.toNat * 2 ^ 47 + e.valid.toNat

def handleBytes (job : Nat) (h : HandleInstall) : Bytes :=
  leBytes 2 h.planCore ++ leBytes 1 h.handle ++ leBytes 4 h.place.toNat ++ leBytes 2 job ++ leBytes 8 h.key.toNat

/-- The content of an INSTALL; its arrangement is not given (notes/assumptions/48.md). To a member: job id, member index,
MEMBERS and plan digest, by which the member binds its bins; its route entries, region entries and far handles. To a transit
module: job id and route entries. -/
def installContent (j : ReeveJob) (place : Nat) : Bytes :=
  let routes := routeBytes j.id ((j.routes.filter (fun e => e.1 == place)).map (·.2))
  match j.places.idxOf? place with
  | some m =>
    let regions := installRegions j m
    let handles := installHandles j
    leBytes 2 j.id ++ leBytes 2 m ++ leBytes 2 j.places.length ++ leBytes 64 j.digest ++ routes
      ++ leBytes 2 regions.length ++ regions.flatMap (fun e => leBytes 32 (regionWord e))
      ++ leBytes 4 handles.length ++ handles.flatMap (handleBytes j.id)
  | none => leBytes 2 j.id ++ routes

/-- INSTALL to each member and transit module. -/
def sendInstalls (s : State) (j : ReeveJob) : State :=
  j.holders.foldl (fun s p => reeveSend s [p] 0x10 j.id 0 (installContent j p) [p]) s

/-- A job enters the table: its keys' draws are the warden's next, and every holder of its route entries receives INSTALL. -/
def enterJob (s : State) (id digest : Nat) (places : List Nat) (v : JobView) : State :=
  let f := planFacts s digest v
  let sorted := places.mergeSort (fun a b => a ≤ b)
  let transit := ((v.routes.map (·.1)).filter (fun p => !sorted.contains p)).dedup
  let j : ReeveJob :=
    { id := id, digest := digest, places := sorted, holders := sorted ++ transit,
      boundA := controlBound (cfgPlace s) sorted, phase := .installing, launch := 0, installed := [], reports := [], done := [],
      removed := [], busy := none, cause := 0, routes := v.routes, regions := f.regions, handles := f.handles, keySeed := s.free }
  sendInstalls { s with free := s.free + sorted.length * f.regions.length,
                        reeve := { s.reeve with jobs := s.reeve.jobs ++ [j] } } j

/-- JOB_START: at the primary's module only. In a twin it is side A's, which has side B install the job too. -/
def jobStart (s : State) (h : HostHdr) (k : Session) (digest : Nat) (places : List Nat) (v : JobView) : State :=
  let refuse (c : Nat) : State := hostReply (journalRaw s 0x0509 0 0 0xFF (leBytes 64 digest ++ leBytes 2 c)) h 0x29 c []
  if !(mayStart s k && isPrimary s) then refuse codeRole
  else
    match startRefusal s digest places v, startId s v with
    | some c, _ => refuse c
    | none, none => refuse 0x1007
    | none, some id =>
      let s := if cfgTwin s then s.emit (.twinJob (cfgTwinPrimary s) id digest places.length) else s
      hostReply (enterJob s id digest places v) h 0x29 0 (leBytes 2 id)

/-- Side A's reeve asks side B's: the checks of this side, and the same job id, member count and plan digest. -/
def twinStart (s : State) (id digest : Nat) (places : List Nat) (v : JobView) : State :=
  if !twinB s then s
  else
    match startRefusal s digest places v with
    | some c => s.emit (.twinAnswer (cfgTwinPrimary s) id c)
    | none => (enterJob s id digest places v).emit (.twinAnswer (cfgTwinPrimary s) id 0)

def execJobStart (h : HostHdr) (digest : Nat) (places : List Nat) (v : JobView) (s : State) :
    Host.Outcome State Fault Refusal :=
  match v.fromA with
  | none => .next (hostRequest s h 0x29 (fun _ _ => true) (fun s k => jobStart s h k digest places v))
  | some id => happen s (fun s => twinStart s id digest places v)

/-- INSTALLED from a place: when all are in, JOB_STARTED and the first ARM. -/
def installedFrom (s : State) (job place : Nat) : State :=
  if !isPrimary s then s
  else
    let s := answered s 0x10 job place
    match findJob s job with
    | none => s
    | some j =>
      if j.phase != .installing then s
      else
        let l := if j.installed.contains place then j.installed else j.installed ++ [place]
        let s := s.modJob job (fun j => { j with installed := l })
        if j.holders.all (fun p => l.contains p) then
          armJob (journalRaw (s.modJob job (fun j => { j with phase := .installed })) 0x0508 job 0 0xFF
            (leBytes 64 j.digest ++ leBytes 2 j.places.length)) job
        else s

def execInstalled (job place : Nat) (s : State) : Host.Outcome State Fault Refusal :=
  happen s (fun s => installedFrom s job place)

/-! ### Standby and takeover (13 R299) -/

/-- REEVE_BEAT: the primary sends one every 100,000 bells; the standby takes one. -/
def reeveBeat (s : State) : State :=
  if s.reeve.role = 1 then
    if s.reeve.hasStandby && s.reeve.lastBeat + 100000 ≤ s.bell then
      let s := sendControl s [s.domain.standby] 0x03 0 0 []
      { s with reeve := { s.reeve with lastBeat := s.bell } }
    else s
  else if s.reeve.role = 2 then { s with reeve := { s.reeve with lastBeat := s.bell } }
  else s

def execReeveBeat (s : State) : Host.Outcome State Fault Refusal := happen s reeveBeat

/-- The *Takeover table*. -/
def completeAction (s : State) (j : ReeveJob) : State :=
  match j.phase with
  | .installing | .installed => sendInstalls (s.modJob j.id (fun j => { j with phase := .installing, installed := [] })) j
  | .arming => disarmJob s j none
  | .going => reeveSend s (rootPlaces j.places) 0x16 j.id 0 [] j.places
  | .launched => s
  | .teardown =>
    let left := ((List.range j.places.length).filter (fun m => !j.done.contains m)).map (placeOf j.places)
    reeveSend s left 0x21 j.id j.cause [] left
  | .removing =>
    let left := j.holders.filter (fun p => !j.removed.contains p)
    reeveSend s left 0x23 j.id 0 [] left

/-- STANDBY_TAKEOVER: 300,000 bells without a beat, or the primary is restarting; with the mirror of its state. -/
def takeover (s : State) (jobs : List ReeveJob) (joined : List (Nat × Nat × Nat)) (lapsing : List (Nat × Nat))
    (restarting : Bool) : State :=
  if s.reeve.role ≠ 2 ∨ !(restarting || s.reeve.lastBeat + 300000 ≤ s.bell) then s
  else
    let old := s.domain.primary
    let own := cfgPlace s
    let s := { s with
      domain := { s.domain with primary := own, standby := own },
      reeve := { s.reeve with role := 1, hasStandby := false, jobs := jobs, joined := joined, lapsing := lapsing,
                              waits := [], tallies := [] } }
    let s := journalRaw s 0x050E 0 0 0xFF (leBytes 4 old)
    let s := sendControl s (joined.map (fun e => e.1)) 0x04 0 0 []
    jobs.foldl completeAction s

def execStandbyTakeover (jobs : List ReeveJob) (joined : List (Nat × Nat × Nat)) (lapsing : List (Nat × Nat))
    (restarting : Bool) (s : State) : Host.Outcome State Fault Refusal :=
  happen s (fun s => takeover s jobs joined lapsing restarting)

/-! ### Twins (13 R314, R315) -/

/-- Stop this side of a twin job: TWIN_STOP to the roots; the job's later tallies are not compared. -/
def stopSide (s : State) (j : ReeveJob) (cause : Nat) : State :=
  let s := s.modJob j.id (fun j => { j with cause := cause })
  let s := { s with reeve := { s.reeve with tallies := s.reeve.tallies.filter (fun e => e.2.1 != j.id) } }
  sendControl s (rootPlaces j.places) 0x31 j.id 0 (leBytes 2 cause)

/-- TWIN_TALLY of a side: this side's root, or the other primary. -/
def twinTally (s : State) (sideB : Bool) (job step t0 t1 : Nat) : State :=
  match findJob s job with
  | none => s
  | some j =>
    if !isPrimary s || j.cause ≠ 0 then s
    else
      let mine := sideB == cfgTwinSideB s
      let other (e : Bool × Nat × Nat × Nat × Bell) : Bool := e.1 != sideB && e.2.1 == job && e.2.2.1 == step
      let s := if mine then sendControl s [cfgTwinPrimary s] 0x30 job step (leBytes 8 t0 ++ leBytes 8 t1) else s
      match s.reeve.tallies.find? other with
      | none => { s with reeve := { s.reeve with tallies := s.reeve.tallies ++ [(sideB, job, step, t0 + 2 ^ 64 * t1, s.bell)] } }
      | some e =>
        let s := { s with reeve := { s.reeve with tallies := s.reeve.tallies.filter (fun e => !other e) } }
        let t := t0 + 2 ^ 64 * t1
        if e.2.2.2.1 = t then s
        else
          let (a, b) := if sideB then (e.2.2.2.1, t) else (t, e.2.2.2.1)
          stopSide (journalRaw s 0x050F job 0 0xFF (leBytes 4 step ++ leBytes 16 a ++ leBytes 16 b)) j 0x500B

def execTwinTally (sideB : Bool) (job step t0 t1 : Nat) (s : State) : Host.Outcome State Fault Refusal :=
  happen s (fun s => twinTally s sideB job step t0 t1)

/-- TWIN_PEER_LOST: 10,000,000 bells after this side's tally of the step. -/
def twinPeerLost (s : State) (job step : Nat) : State :=
  match findJob s job with
  | none => s
  | some j =>
    if isPrimary s && s.reeve.tallies.any (fun e => e.1 == cfgTwinSideB s && e.2.1 == job && e.2.2.1 == step
        && e.2.2.2.2 + 10000000 ≤ s.bell) then
      stopSide (journalRaw s 0x0510 job 0 0xFF (leBytes 4 step)) j 0x500C
    else s

def execTwinPeerLost (job step : Nat) (s : State) : Host.Outcome State Fault Refusal :=
  happen s (fun s => twinPeerLost s job step)

end Sys2Proof.Machine
end

