-- ==== Sys2Proof/Machine/TestAccess.lean ====
section
/-! DEFINITION. Test access (19 R428; 16 R374; 15 R356): the instruction register, and the data register that each
instruction selects, as bits and value. -/

namespace Sys2Proof.Machine
open Sys2Proof

/-- Load an instruction and shift its data register out; a module without power has no test access (19 R429). -/
def tapLoad (s : State) (ir : BitVec 8) (tdo : Nat × Nat) : State :=
  if s.power.inputOk then { s with tap := { s.tap with ir := ir, tdo := tdo } } else s

/-- The boundary register: neither its length nor what the pins hold is given, so both are free values
(notes/assumptions/14.md). -/
def boundary (s : State) (ir : BitVec 8) : State :=
  let (n, s) := takeFree s
  let (v, s) := takeFree s
  tapLoad s ir (n, v % 2 ^ n)

/-- The one-bit bypass register, which captures zero. -/
def bypass (s : State) (ir : BitVec 8) : State := tapLoad s ir (1, 0)

/-- IDCODE by stepping: step A 0x0641_656B, step B 0x1641_656B. -/
def idcode (s : State) : Nat := s.mod.stepping.toNat * 2 ^ 28 + 0x6416 * 2 ^ 12 + 0x2B5 * 2 + 1

def execExtest (s : State) : Host.Outcome State Fault Refusal := .next (boundary s 0x00)
def execIdcode (s : State) : Host.Outcome State Fault Refusal := .next (tapLoad s 0x01 (32, idcode s))
def execSamplePreload (s : State) : Host.Outcome State Fault Refusal := .next (boundary s 0x02)
/-- CLAMP and HIGHZ select the bypass register (IEEE 1149.1). -/
def execClamp (s : State) : Host.Outcome State Fault Refusal := .next (bypass s 0x03)
def execHighz (s : State) : Host.Outcome State Fault Refusal := .next (bypass s 0x04)
def execExtestPulse (s : State) : Host.Outcome State Fault Refusal := .next (boundary s 0x05)
def execExtestTrain (s : State) : Host.Outcome State Fault Refusal := .next (boundary s 0x06)

/-- READ_START is open from step 3 until the seal, and where debug is open; closed, it acts as BYPASS. -/
def readStartOpen (s : State) : Bool := s.tap.debugOpen || (3 ≤ s.mod.startStep && s.mod.startStep < 10)

def execReadStart (s : State) : Host.Outcome State Fault Refusal :=
  .next (if readStartOpen s then tapLoad s 0x10 (64, stStart s) else bypass s 0x10)

/-- A vendor debug opcode: closed, it acts as BYPASS; open, the specification says nothing of its effect. -/
def execVendorDebug (op : BitVec 8) (s : State) : Host.Outcome State Fault Refusal :=
  if s.power.inputOk && s.tap.debugOpen && 0x20 ≤ op.toNat && op.toNat ≤ 0xFE then .refused .vendorDebug
  else .next (bypass s op)

/-- BYPASS, and every opcode that the *Test instruction table* does not list. -/
def execBypass (s : State) : Host.Outcome State Fault Refusal := .next (bypass s 0xFF)

end Sys2Proof.Machine
end

