-- ==== Sys2Proof/Machine/VReduce.lean ====
section
/-! DEFINITION. The V-slot instructions of form VR (05 R113, R127-R130): reductions, tile axes and lane moves. -/

namespace Sys2Proof.Machine
open Sys2Proof

/-- Codes of the active lanes of the source. -/
def vrActive (f : VRForm) (fs : Fmt) (r : Regs) : List Nat :=
  ((groupCodes r (vrSource f fs)).zipIdx.filter (fun e => (r.mask f.km).getLsbD e.2)).map (·.1)

/-- The form that acts: in plain mode with the effective COUNT; V.RRD has no COUNT, and V.KCNT no format. -/
def vrInForce (s : State) (c : CoreId) (op : Nat) (f : VRForm) : VRForm :=
  if plainMode s c && op != 0x3B && op != 0x43 then
    match Fmt.ofCode f.fmt.toNat with
    | some fs => { f with count := plainCount f.count fs.width }
    | none => f
  else f

/-- Issue an instruction of form VR in its format. -/
def vrIssue (op : Nat) (f : VRForm) (body : VRForm → Fmt → State → VIssue → State) (c : CoreId) (s : State) :
    Host.Outcome State Fault Refusal :=
  let legal := f.legal op
  let f := vrInForce s c op f
  whenLegal (legal || f.legal op) (match Fmt.ofCode f.fmt.toNat with
    | some fs => issueV s c op (vrUses op f fs) (body f fs)
    | none => s)

/-- A result in Sd: zero-extended, but int32 sign-extended (05 R128). -/
def scalarOf (fs : Fmt) (code : Nat) : SWord :=
  if fs = .int32 then BitVec.ofInt 64 (sext 32 code) else BitVec.ofNat 64 code

def writeScalar (s : State) (c : CoreId) (f : VRForm) (v : SWord) : State := setRegs s c (·.setS f.vd.toNat v)

/-! ### Reductions over lanes -/

/-- V.RSUM. -/
def execVRsum (c : CoreId) (f : VRForm) (s : State) : Host.Outcome State Fault Refusal :=
  vrIssue 0x38 f (fun f fs s x =>
    let codes := vrActive f fs x.rd
    match fs.fp with
    | some F =>
      let (k, g) := s.cores[c].addReal f.racc.toNat F codes
      raiseV (s.modCore c (fun _ => k)) x g
    | none => s.modCore c (·.addInt f.racc.toNat (codes.map fs.intVal))) c s

/-- The result of a list of codes with no element (05 R129). -/
def emptyExtreme (fs : Fmt) (wantMax : Bool) : Nat :=
  match fs.fp with
  | some F => F.infCode wantMax
  | none => if wantMax then 2 ^ (fs.width - 1) else 2 ^ (fs.width - 1) - 1

/-- Least or greatest of a list of codes (05 R129). -/
def extreme (fs : Fmt) (flush wantMax : Bool) (codes : List Nat) : Nat × NumFlags :=
  match codes with
  | [] => (emptyExtreme fs wantMax, 0)
  | a :: t => t.foldl (fun acc b =>
      let (v, g) := laneMinMax fs flush wantMax acc.1 b
      (v, acc.2 ||| g)) (laneMinMax fs flush wantMax a a)

def execVRmin (c : CoreId) (f : VRForm) (s : State) : Host.Outcome State Fault Refusal :=
  vrIssue 0x39 f (fun f fs s x =>
    let (v, g) := extreme fs s.cores[c].subFlush false (vrActive f fs x.rd)
    raiseV (writeScalar s c f (scalarOf fs v)) x g) c s

def execVRmax (c : CoreId) (f : VRForm) (s : State) : Host.Outcome State Fault Refusal :=
  vrIssue 0x3A f (fun f fs s x =>
    let (v, g) := extreme fs s.cores[c].subFlush true (vrActive f fs x.rd)
    raiseV (writeScalar s c f (scalarOf fs v)) x g) c s

/-- An exact integer sum narrowed to a format (05 R128, R130). -/
def narrowSum (fs : Fmt) (sat : Bool) (v : Int) : Nat × NumFlags :=
  if fs = .ledger then ledgerResult v else intResult fs.width true sat v

/-- V.RRD: the accumulator in FMT, emptied under CLR. -/
def readAcc (k : Core) (f : VRForm) (fs : Fmt) : Nat × NumFlags :=
  let i : Fin 2 := ⟨f.racc.toNat % 2, Nat.mod_lt _ (by decide)⟩
  match fs.fp with
  | some F => k.ra01[i].result F k.subFlush
  | none => narrowSum fs f.sat k.ra23[i].toInt

def clearAcc (k : Core) (f : VRForm) (fs : Fmt) : Core :=
  let i : Fin 2 := ⟨f.racc.toNat % 2, Nat.mod_lt _ (by decide)⟩
  if !f.clr then k
  else match fs.fp with
    | some _ => { k with ra01 := k.ra01.set i RealAcc.empty }
    | none => { k with ra23 := k.ra23.set i 0 }

def execVRrd (c : CoreId) (f : VRForm) (s : State) : Host.Outcome State Fault Refusal :=
  vrIssue 0x3B f (fun f fs s x =>
    let (v, g) := readAcc s.cores[c] f fs
    raiseV (writeScalar (s.modCore c (fun k => clearAcc k f fs)) c f (scalarOf fs v)) x g) c s

/-! ### Reductions along an axis of a tile (05 R130) -/

/-- The codes of row or column `i` of a tile in the accumulator form of the format. -/
def tileAxis (t : TReg) (fs : Fmt) (axis : Bool) (i : Nat) : List Nat :=
  let w := fs.width
  let cols := 2048 / w
  if axis then (List.range 64).map (fun m => (t.extractLsb' (w * (m * cols + i)) w).toNat)
  else codesOf w cols (t.extractLsb' (2048 * i) 2048).toNat

/-- One result of V.TRSUM. -/
def axisSum (fs : Fmt) (flush sat : Bool) (codes : List Nat) : Nat × NumFlags :=
  match fs.fp with
  | some F =>
    let vs := codes.map (F.read flush)
    let (c, g) := groupRound F flush none (vs.map (fun v => (v.1, .fin false 1 0)))
    (c, g ||| orFlags (vs.map (·.2)))
  | none => narrowSum fs sat (codes.map fs.intVal).sum

/-- A tile-axis instruction. -/
def tileReduce (op : Nat) (f : VRForm) (g : Fmt → Bool → List Nat → Nat × NumFlags) (c : CoreId) (s : State) :
    Host.Outcome State Fault Refusal :=
  vrIssue op f (fun f fs s x =>
    let flush := s.cores[c].subFlush
    let m := x.rd.mask f.km
    let t := (List.range (countOf f.count)).map (fun i =>
      if m.getLsbD i then some (g fs flush (tileAxis x.rd.t[f.ta.toFin] fs f.axis i)) else none)
    raiseV (countLanes (setRegs s c (·.putTable (vrDest f fs) t)) c fs (t.countP (·.isSome))) x (tableFlags t)) c s

def execVTrsum (c : CoreId) (f : VRForm) (s : State) : Host.Outcome State Fault Refusal :=
  tileReduce 0x3C f (fun fs flush codes => axisSum fs flush f.sat codes) c s
def execVTrmin (c : CoreId) (f : VRForm) (s : State) : Host.Outcome State Fault Refusal :=
  tileReduce 0x3D f (fun fs flush codes => extreme fs flush false codes) c s
def execVTrmax (c : CoreId) (f : VRForm) (s : State) : Host.Outcome State Fault Refusal :=
  tileReduce 0x3E f (fun fs flush codes => extreme fs flush true codes) c s

/-! ### Lane moves -/

/-- An instruction that writes active lanes of Vd from S[SB] and the lane number. -/
def laneFill (op : Nat) (f : VRForm) (g : Fmt → SWord → Nat → Nat × NumFlags) (c : CoreId) (s : State) :
    Host.Outcome State Fault Refusal :=
  vrIssue op f (fun f fs s x =>
    let m := x.rd.mask f.km
    let t := (List.range (countOf f.count)).map (fun i =>
      if m.getLsbD i then some (g fs (x.rd.getS f.sb.toNat) i) else none)
    raiseV (countLanes (setRegs s c (·.putTable (vrDest f fs) t)) c fs (t.countP (·.isSome))) x (tableFlags t)) c s

def execVBcst (c : CoreId) (f : VRForm) (s : State) : Host.Outcome State Fault Refusal :=
  laneFill 0x40 f (fun fs v _ => (v.toNat % 2 ^ fs.width, 0)) c s

def execVExt (c : CoreId) (f : VRForm) (s : State) : Host.Outcome State Fault Refusal :=
  vrIssue 0x41 f (fun f fs s x =>
    writeScalar s c f (BitVec.ofNat 64 ((groupCodes x.rd (vrSource f fs)).getD f.lane.toNat 0))) c s

def execVIns (c : CoreId) (f : VRForm) (s : State) : Host.Outcome State Fault Refusal :=
  vrIssue 0x42 f (fun f fs s x =>
    let t := (List.range (countOf f.count)).map (fun i =>
      if i = f.lane.toNat then some ((x.rd.getS f.sb.toNat).toNat % 2 ^ fs.width, (0 : NumFlags)) else none)
    countLanes (setRegs s c (·.putTable (vrDest f fs) t)) c fs 1) c s

def execVKcnt (c : CoreId) (f : VRForm) (s : State) : Host.Outcome State Fault Refusal :=
  vrIssue 0x43 f (fun f _ s x =>
    writeScalar s c f (BitVec.ofNat 64 (activeLanes (x.rd.mask f.km) (countOf f.count)).length)) c s

def execVIota (c : CoreId) (f : VRForm) (s : State) : Host.Outcome State Fault Refusal :=
  laneFill 0x44 f (fun fs v i => intResult fs.width true f.sat (v.toInt + i)) c s

end Sys2Proof.Machine
end

