-- ==== Sys2Proof/Machine/Dispatch.lean ====
section
/-! DEFINITION. One arm per command: a direct call of its meaning, or a rejection by name. -/

namespace Sys2Proof.Machine
open Sys2Proof

def exec (i : Instr) (s : State) : Host.Outcome State Fault Refusal :=
  match i with
  | .cNop c => Sys2Proof.Machine.execCNop c s
  | .cAdd c f => Sys2Proof.Machine.execCAdd c f s
  | .cSub c f => Sys2Proof.Machine.execCSub c f s
  | .cMul c f => Sys2Proof.Machine.execCMul c f s
  | .cAnd c f => Sys2Proof.Machine.execCAnd c f s
  | .cOr c f => Sys2Proof.Machine.execCOr c f s
  | .cXor c f => Sys2Proof.Machine.execCXor c f s
  | .cShl c f => Sys2Proof.Machine.execCShl c f s
  | .cShr c f => Sys2Proof.Machine.execCShr c f s
  | .cSra c f => Sys2Proof.Machine.execCSra c f s
  | .cAddi c f => Sys2Proof.Machine.execCAddi c f s
  | .cLi c f => Sys2Proof.Machine.execCLi c f s
  | .cLih c f => Sys2Proof.Machine.execCLih c f s
  | .cCmp c f => Sys2Proof.Machine.execCCmp c f s
  | .cFadd c f => Sys2Proof.Machine.execCFadd c f s
  | .cFsub c f => Sys2Proof.Machine.execCFsub c f s
  | .cFmul c f => Sys2Proof.Machine.execCFmul c f s
  | .cFfma c f => Sys2Proof.Machine.execCFfma c f s
  | .cFdiv c f => Sys2Proof.Machine.execCFdiv c f s
  | .cFsqrt c f => Sys2Proof.Machine.execCFsqrt c f s
  | .cFcmp c f => Sys2Proof.Machine.execCFcmp c f s
  | .cFmin c f => Sys2Proof.Machine.execCFmin c f s
  | .cFmax c f => Sys2Proof.Machine.execCFmax c f s
  | .cFcvti c f => Sys2Proof.Machine.execCFcvti c f s
  | .cIcvtf c f => Sys2Proof.Machine.execCIcvtf c f s
  | .cAadd c f => Sys2Proof.Machine.execCAadd c f s
  | .cAaddi c f => Sys2Proof.Machine.execCAaddi c f s
  | .cAli c f => Sys2Proof.Machine.execCAli c f s
  | .cAlih c f => Sys2Proof.Machine.execCAlih c f s
  | .cAaddl c f => Sys2Proof.Machine.execCAaddl c f s
  | .cAmovs c f => Sys2Proof.Machine.execCAmovs c f s
  | .cSmova c f => Sys2Proof.Machine.execCSmova c f s
  | .cKset c f => Sys2Proof.Machine.execCKset c f s
  | .cKand c f => Sys2Proof.Machine.execCKand c f s
  | .cKor c f => Sys2Proof.Machine.execCKor c f s
  | .cKxor c f => Sys2Proof.Machine.execCKxor c f s
  | .cKnot c f => Sys2Proof.Machine.execCKnot c f s
  | .cBr c f => Sys2Proof.Machine.execCBr c f s
  | .cBrc c f => Sys2Proof.Machine.execCBrc c f s
  | .cLoop c f => Sys2Proof.Machine.execCLoop c f s
  | .cWaitf c f => Sys2Proof.Machine.execCWaitf c f s
  | .cWaitdc c f => Sys2Proof.Machine.execCWaitdc c f s
  | .cIssue c f => Sys2Proof.Machine.execCIssue c f s
  | .cHarv c f => Sys2Proof.Machine.execCHarv c f s
  | .cHalt c f => Sys2Proof.Machine.execCHalt c f s
  | .cSqrd c f => Sys2Proof.Machine.execCSqrd c f s
  | .cSqdraft c f => Sys2Proof.Machine.execCSqdraft c f s
  | .cSqaccept c f => Sys2Proof.Machine.execCSqaccept c f s
  | .cSqtrim c f => Sys2Proof.Machine.execCSqtrim c f s
  | .cSqreset c f => Sys2Proof.Machine.execCSqreset c f s
  | .runaheadLoad load => Sys2Proof.Machine.execRunaheadLoad load s
  | .xNop c => Sys2Proof.Machine.execXNop c s
  | .xMma c f => Sys2Proof.Machine.execXMma c f s
  | .xZero c f => Sys2Proof.Machine.execXZero c f s
  | .xTmov c f => Sys2Proof.Machine.execXTmov c f s
  | .xTrd c f => Sys2Proof.Machine.execXTrd c f s
  | .xTwr c f => Sys2Proof.Machine.execXTwr c f s
  | .vNop c => Sys2Proof.Machine.execVNop c s
  | .vAdd c f => Sys2Proof.Machine.execVAdd c f s
  | .vSub c f => Sys2Proof.Machine.execVSub c f s
  | .vMul c f => Sys2Proof.Machine.execVMul c f s
  | .vFma c f => Sys2Proof.Machine.execVFma c f s
  | .vMin c f => Sys2Proof.Machine.execVMin c f s
  | .vMax c f => Sys2Proof.Machine.execVMax c f s
  | .vAbs c f => Sys2Proof.Machine.execVAbs c f s
  | .vNeg c f => Sys2Proof.Machine.execVNeg c f s
  | .vClamp c f => Sys2Proof.Machine.execVClamp c f s
  | .vSel c f => Sys2Proof.Machine.execVSel c f s
  | .vAnd c f => Sys2Proof.Machine.execVAnd c f s
  | .vOr c f => Sys2Proof.Machine.execVOr c f s
  | .vXor c f => Sys2Proof.Machine.execVXor c f s
  | .vShl c f => Sys2Proof.Machine.execVShl c f s
  | .vShr c f => Sys2Proof.Machine.execVShr c f s
  | .vSra c f => Sys2Proof.Machine.execVSra c f s
  | .vMov c f => Sys2Proof.Machine.execVMov c f s
  | .vCmp c f => Sys2Proof.Machine.execVCmp c f s
  | .vQuant c f => Sys2Proof.Machine.execVQuant c f s
  | .vDiv c f => Sys2Proof.Machine.execVDiv c f s
  | .vSqrt c f => Sys2Proof.Machine.execVSqrt c f s
  | .vFn c f => Sys2Proof.Machine.execVFn c f s
  | .vCvt c f => Sys2Proof.Machine.execVCvt c f s
  | .vWupd c f => Sys2Proof.Machine.execVWupd c f s
  | .vChain c f => Sys2Proof.Machine.execVChain c f s
  | .vRsum c f => Sys2Proof.Machine.execVRsum c f s
  | .vRmin c f => Sys2Proof.Machine.execVRmin c f s
  | .vRmax c f => Sys2Proof.Machine.execVRmax c f s
  | .vRrd c f => Sys2Proof.Machine.execVRrd c f s
  | .vTrsum c f => Sys2Proof.Machine.execVTrsum c f s
  | .vTrmin c f => Sys2Proof.Machine.execVTrmin c f s
  | .vTrmax c f => Sys2Proof.Machine.execVTrmax c f s
  | .vBcst c f => Sys2Proof.Machine.execVBcst c f s
  | .vExt c f => Sys2Proof.Machine.execVExt c f s
  | .vIns c f => Sys2Proof.Machine.execVIns c f s
  | .vKcnt c f => Sys2Proof.Machine.execVKcnt c f s
  | .vIota c f => Sys2Proof.Machine.execVIota c f s
  | .mNop c => Sys2Proof.Machine.execMNop c s
  | .mLdv c f => Sys2Proof.Machine.execMLdv c f s
  | .mLdvs c f => Sys2Proof.Machine.execMLdvs c f s
  | .mStv c f => Sys2Proof.Machine.execMStv c f s
  | .mStvs c f => Sys2Proof.Machine.execMStvs c f s
  | .mLdf c f => Sys2Proof.Machine.execMLdf c f s
  | .mStf c f => Sys2Proof.Machine.execMStf c f s
  | .mGath c f => Sys2Proof.Machine.execMGath c f s
  | .mScat c f => Sys2Proof.Machine.execMScat c f s
  | .mScadd c f => Sys2Proof.Machine.execMScadd c f s
  | .mScaddu c f => Sys2Proof.Machine.execMScaddu c f s
  | .mLdx c f => Sys2Proof.Machine.execMLdx c f s
  | .mStx c f => Sys2Proof.Machine.execMStx c f s
  | .mFlagl c f => Sys2Proof.Machine.execMFlagl c f s
  | .mTld c f => Sys2Proof.Machine.execMTld c f s
  | .mTst c f => Sys2Proof.Machine.execMTst c f s
  | .mCopy c f => Sys2Proof.Machine.execMCopy c f s
  | .mFld c f => Sys2Proof.Machine.execMFld c f s
  | .mFst c f => Sys2Proof.Machine.execMFst c f s
  | .mFatom c f => Sys2Proof.Machine.execMFatom c f s
  | .mFflag c f => Sys2Proof.Machine.execMFflag c f s
  | .mFence c => Sys2Proof.Machine.execMFence c s
  | .mLfence c => Sys2Proof.Machine.execMLfence c s
  | .moveComplete c id corrected lost => Sys2Proof.Machine.execMoveComplete c id corrected lost s
  | .copyComplete c id corrected lost => Sys2Proof.Machine.execCopyComplete c id corrected lost s
  | .cartDescEnd n corrected lost parity => Sys2Proof.Machine.execCartDescEnd n corrected lost parity s
  | .reckSolveEnd n corrected lost words lostWord => Sys2Proof.Machine.execReckSolveEnd n corrected lost words lostWord s
  | .collectiveEnd plan desc residue => Sys2Proof.Machine.execCollectiveEnd plan desc residue s
  | .chunkFrameReceive f residue word => Sys2Proof.Machine.execChunkFrameReceive f residue word s
  | .voteReceive treeB src word tally => Sys2Proof.Machine.execVoteReceive treeB src word tally s
  | .harvestResult treeB word reopen tally => Sys2Proof.Machine.execHarvestResult treeB word reopen tally s
  | .attemptReopen plan => Sys2Proof.Machine.execAttemptReopen plan s
  | .stepTimeout plan => Sys2Proof.Machine.execStepTimeout plan s
  | .slotOpen plan => Sys2Proof.Machine.execSlotOpen plan s
  | .slotRelease plan slot reads => Sys2Proof.Machine.execSlotRelease plan slot reads s
  | .enqueue h ring input => Sys2Proof.Machine.execEnqueue h ring input s
  | .heartbeat h => Sys2Proof.Machine.execHeartbeat h s
  | .hello tag role keyBlock np => Sys2Proof.Machine.execHello tag role keyBlock np s
  | .keyExchange tag cipher sig => Sys2Proof.Machine.execKeyExchange tag cipher sig s
  | .closeSession h => Sys2Proof.Machine.execCloseSession h s
  | .bulkBegin h target device region total => Sys2Proof.Machine.execBulkBegin h target device region total s
  | .bulkData h off data => Sys2Proof.Machine.execBulkData h off data s
  | .bulkEnd h => Sys2Proof.Machine.execBulkEnd h s
  | .unload h plan => Sys2Proof.Machine.execUnload h plan s
  | .planDrainEnd plan => Sys2Proof.Machine.execPlanDrainEnd plan s
  | .readStatus h block inst => Sys2Proof.Machine.execReadStatus h block inst s
  | .attnRead h first => Sys2Proof.Machine.execAttnRead h first s
  | .quote h nonce mask => Sys2Proof.Machine.execQuote h nonce mask s
  | .journalRead h first count => Sys2Proof.Machine.execJournalRead h first count s
  | .journalAck h index => Sys2Proof.Machine.execJournalAck h index s
  | .checkpoint h => Sys2Proof.Machine.execCheckpoint h s
  | .extend h reg digest => Sys2Proof.Machine.execExtend h reg digest s
  | .setCap h watts => Sys2Proof.Machine.execSetCap h watts s
  | .restart h => Sys2Proof.Machine.execRestart h s
  | .restartDrainEnd => Sys2Proof.Machine.execRestartDrainEnd s
  | .jobStart h digest places v => Sys2Proof.Machine.execJobStart h digest places v s
  | .jobStop h job => Sys2Proof.Machine.execJobStop h job s
  | .plough h ch ctl arg => Sys2Proof.Machine.execPlough h ch ctl arg s
  | .ploughDone ch odd => Sys2Proof.Machine.execPloughDone ch odd s
  | .registerWrite ch arg value => Sys2Proof.Machine.execRegisterWrite ch arg value s
  | .counterSelect h kind inst ctr event enable => Sys2Proof.Machine.execCounterSelect h kind inst ctr event enable s
  | .counterRead h sels => Sys2Proof.Machine.execCounterRead h sels s
  | .counterClear h kind inst ctr => Sys2Proof.Machine.execCounterClear h kind inst ctr s
  | .freeze h f => Sys2Proof.Machine.execFreeze h f s
  | .freezeLatch => Sys2Proof.Machine.execFreezeLatch s
  | .snapshotRead h first count => Sys2Proof.Machine.execSnapshotRead h first count s
  | .bwWindow h w => Sys2Proof.Machine.execBwWindow h w s
  | .bwWindowBoundary => Sys2Proof.Machine.execBwWindowBoundary s
  | .bwRead h kind first count => Sys2Proof.Machine.execBwRead h kind first count s
  | .topdownRead h first count => Sys2Proof.Machine.execTopdownRead h first count s
  | .telemetry h => Sys2Proof.Machine.execTelemetry h s
  | .tallyRead h hist plan first count => Sys2Proof.Machine.execTallyRead h hist plan first count s
  | .getState pec => Sys2Proof.Machine.execGetState pec s
  | .mgmtTelemetry pec page => Sys2Proof.Machine.execMgmtTelemetry pec page s
  | .getCap pec => Sys2Proof.Machine.execGetCap pec s
  | .mgmtSetCap pec watts => Sys2Proof.Machine.execMgmtSetCap pec watts s
  | .mgmtRestart pec orderly => Sys2Proof.Machine.execMgmtRestart pec orderly s
  | .claimPermit pec => Sys2Proof.Machine.execClaimPermit pec s
  | .stageBegin pec region total => Sys2Proof.Machine.execStageBegin pec region total s
  | .stageData pec off data => Sys2Proof.Machine.execStageData pec off data s
  | .stageEnd pec => Sys2Proof.Machine.execStageEnd pec s
  | .joinMsg seq place grade logical quote routes => Sys2Proof.Machine.execJoinMsg seq place grade logical quote routes s
  | .joinAck src admitted reason bell => Sys2Proof.Machine.execJoinAck src admitted reason bell s
  | .autostartJoinWait => Sys2Proof.Machine.execAutostartJoinWait s
  | .reeveBeat => Sys2Proof.Machine.execReeveBeat s
  | .standbyTakeover jobs joined lapsing restarting => Sys2Proof.Machine.execStandbyTakeover jobs joined lapsing restarting s
  | .reeveTakeover place => Sys2Proof.Machine.execReeveTakeover place s
  | .install m member members digest places routes regions handles twin => Sys2Proof.Machine.execInstall m member members digest places routes regions handles twin s
  | .installed job place => Sys2Proof.Machine.execInstalled job place s
  | .arm m treeB l => Sys2Proof.Machine.execArm m treeB l s
  | .armAnswer job treeB src answer who otherReady => Sys2Proof.Machine.execArmAnswer job treeB src answer who otherReady s
  | .goMsg m treeB => Sys2Proof.Machine.execGoMsg m treeB s
  | .goDeadline job => Sys2Proof.Machine.execGoDeadline job s
  | .launch plan => Sys2Proof.Machine.execLaunch plan s
  | .launched job member ok => Sys2Proof.Machine.execLaunched job member ok s
  | .disarm m treeB => Sys2Proof.Machine.execDisarm m treeB s
  | .armedTimeout plan => Sys2Proof.Machine.execArmedTimeout plan s
  | .launchReportDeadline job => Sys2Proof.Machine.execLaunchReportDeadline job s
  | .jobFault job cause member => Sys2Proof.Machine.execJobFault job cause member s
  | .teardown m cause => Sys2Proof.Machine.execTeardown m cause s
  | .teardownDrainEnd plan => Sys2Proof.Machine.execTeardownDrainEnd plan s
  | .teardownWipeEnd plan => Sys2Proof.Machine.execTeardownWipeEnd plan s
  | .teardownDone job place => Sys2Proof.Machine.execTeardownDone job place s
  | .routeRemove m => Sys2Proof.Machine.execRouteRemove m s
  | .routeRemoved job place => Sys2Proof.Machine.execRouteRemoved job place s
  | .jobIdFree job => Sys2Proof.Machine.execJobIdFree job s
  | .controlResend => Sys2Proof.Machine.execControlResend s
  | .twinTally sideB job step t0 t1 => Sys2Proof.Machine.execTwinTally sideB job step t0 t1 s
  | .twinStop job cause => Sys2Proof.Machine.execTwinStop job cause s
  | .twinPeerLost job step => Sys2Proof.Machine.execTwinPeerLost job step s
  | .planFetch src digest => Sys2Proof.Machine.execPlanFetch src digest s
  | .weightFetch src digest => Sys2Proof.Machine.execWeightFetch src digest s
  | .fetchData src off data => Sys2Proof.Machine.execFetchData src off data s
  | .fetchEnd src total packages => Sys2Proof.Machine.execFetchEnd src total packages s
  | .fetchRefused src code => Sys2Proof.Machine.execFetchRefused src code s
  | .fetchTimeout => Sys2Proof.Machine.execFetchTimeout s
  | .frameRoute src wire => Sys2Proof.Machine.execFrameRoute src wire s
  | .farRequest f corrected lost => Sys2Proof.Machine.execFarRequest f corrected lost s
  | .continueFrame g corrected lost => Sys2Proof.Machine.execContinueFrame g corrected lost s
  | .continueTimeout => Sys2Proof.Machine.execContinueTimeout s
  | .farReply f => Sys2Proof.Machine.execFarReply f s
  | .farResend c seq => Sys2Proof.Machine.execFarResend c seq s
  | .targetLost c seq => Sys2Proof.Machine.execTargetLost c seq s
  | .replayCacheFree job place core => Sys2Proof.Machine.execReplayCacheFree job place core s
  | .timeFrame p wire => Sys2Proof.Machine.execTimeFrame p wire s
  | .timeSend p => Sys2Proof.Machine.execTimeSend p s
  | .idle f => Sys2Proof.Machine.execIdle f s
  | .linkAckTimeout p => Sys2Proof.Machine.execLinkAckTimeout p s
  | .portTrain p t => Sys2Proof.Machine.execPortTrain p t s
  | .portRetrain p cause => Sys2Proof.Machine.execPortRetrain p cause s
  | .portWidenAttempt p => Sys2Proof.Machine.execPortWidenAttempt p s
  | .hostLinkTrain lanes => Sys2Proof.Machine.execHostLinkTrain lanes s
  | .hostLinkDown seen => Sys2Proof.Machine.execHostLinkDown seen s
  | .sessionIdleTimeout id => Sys2Proof.Machine.execSessionIdleTimeout id s
  | .patrolRead line outcome => Sys2Proof.Machine.execPatrolRead line outcome s
  | .sramPatrol store unit off lost => Sys2Proof.Machine.execSramPatrol store unit off lost s
  | .mapOutFillEnd window => Sys2Proof.Machine.execMapOutFillEnd window s
  | .zeroFillEnd plan => Sys2Proof.Machine.execZeroFillEnd plan s
  | .stackTempRead stack temp => Sys2Proof.Machine.execStackTempRead stack temp s
  | .coreFence c cause => Sys2Proof.Machine.execCoreFence c cause s
  | .handshakeStall c => Sys2Proof.Machine.execHandshakeStall c s
  | .spareSelfTest c pass => Sys2Proof.Machine.execSpareSelfTest c pass s
  | .substitutionCopyEnd c bad => Sys2Proof.Machine.execSubstitutionCopyEnd c bad s
  | .routerStall => Sys2Proof.Machine.execRouterStall s
  | .packageFault => Sys2Proof.Machine.execPackageFault s
  | .correctedSummary => Sys2Proof.Machine.execCorrectedSummary s
  | .refusalSummary => Sys2Proof.Machine.execRefusalSummary s
  | .dropSummary => Sys2Proof.Machine.execDropSummary s
  | .healthWrite ok => Sys2Proof.Machine.execHealthWrite ok s
  | .inputValid f => Sys2Proof.Machine.execInputValid f s
  | .seal => Sys2Proof.Machine.execSeal s
  | .inputDip us => Sys2Proof.Machine.execInputDip us s
  | .inputLoss ms => Sys2Proof.Machine.execInputLoss ms s
  | .inputSurge mv us => Sys2Proof.Machine.execInputSurge mv us s
  | .inputOvercurrent ma => Sys2Proof.Machine.execInputOvercurrent ma s
  | .inputReversed => Sys2Proof.Machine.execInputReversed s
  | .powerManagerTick p => Sys2Proof.Machine.execPowerManagerTick p s
  | .railShort rail phase amps => Sys2Proof.Machine.execRailShort rail phase amps s
  | .senseOpen rail => Sys2Proof.Machine.execSenseOpen rail s
  | .thermalReading sensor temp => Sys2Proof.Machine.execThermalReading sensor temp s
  | .referenceMissing => Sys2Proof.Machine.execReferenceMissing s
  | .extest => Sys2Proof.Machine.execExtest s
  | .idcode => Sys2Proof.Machine.execIdcode s
  | .samplePreload => Sys2Proof.Machine.execSamplePreload s
  | .clamp => Sys2Proof.Machine.execClamp s
  | .highz => Sys2Proof.Machine.execHighz s
  | .extestPulse => Sys2Proof.Machine.execExtestPulse s
  | .extestTrain => Sys2Proof.Machine.execExtestTrain s
  | .readStart => Sys2Proof.Machine.execReadStart s
  | .vendorDebug op => Sys2Proof.Machine.execVendorDebug op s
  | .bypass => Sys2Proof.Machine.execBypass s
  | .referenceRestored f => Sys2Proof.Machine.execReferenceRestored f s
  | .shutdownAckTimeout => Sys2Proof.Machine.execShutdownAckTimeout s

end Sys2Proof.Machine
end

