-- ==== Sys2Proof/Machine/Step.lean ====
section
/-! DEFINITION. One step: the command at the front of the queue; on an empty queue one tick of the bell
(notes/assumptions/2.md). -/

namespace Sys2Proof.Machine
open Sys2Proof

/-- Take the command at the front of the queue. -/
def step (s : State) : Host.Outcome State Fault Refusal :=
  match s.pending with
  | [] => .next (tick s)
  | i :: rest => exec i { s with pending := rest }

/-- The state with a command put at the front of its queue. -/
def State.withCommand (s : State) (i : Instr) : State := { s with pending := i :: s.pending }

/-- The state with the command that a word of the command table's bits spells at the front of its queue. The table
gives no row any bits, so no word spells a command (notes/assumptions/16.md). -/
def State.withFetchWord (s : State) (nbits w : Nat) : State :=
  match decodeTableWord nbits w with
  | some i => s.withCommand i
  | none => s

end Sys2Proof.Machine
end

