-- ==== Sys2Proof/Safety.lean ====
section
/-! DEFINITION. The words in which claims are stated: when a slot instruction can issue, what a result does to a core,
which part of the state a command leaves alone, what the host is answered, and the invariants. -/

namespace Sys2Proof.Machine
open Sys2Proof

/-! ### What is left alone -/

/-- Every byte of every memory of the module reads as before. -/
def SameMemory (s t : State) : Prop :=
  (∀ a, memGet 0 t.hbm a = memGet 0 s.hbm a)
  ∧ (∀ (c : CoreId) (a : Nat), memGet 0 t.cores[c].sram a = memGet 0 s.cores[c].sram a)
  ∧ (∀ (b : Fin 512) (a : Nat), memGet 0 t.bins[b].mem a = memGet 0 s.bins[b].mem a)

/-- Nothing but core `c` changes. -/
def OnlyCore (c : CoreId) (s t : State) : Prop :=
  t = { s with cores := t.cores } ∧ ∀ d : CoreId, d ≠ c → t.cores[d] = s.cores[d]

/-- Nothing but core `c` changes, and every byte of memory reads as before. -/
def OnlyRegisters (c : CoreId) (s t : State) : Prop := OnlyCore c s t ∧ SameMemory s t

/-- Nothing changes but what the module reports: attention records, journal, control-die counters, frames sent, and the
number of the next free value. -/
def OnlyReports (s t : State) : Prop :=
  t = { s with host := t.host, journal := t.journal, counting := t.counting, out := t.out, free := t.free }

/-- The journal is far from the limits at which it sheds work (15 R359). -/
def Calm (s : State) : Prop := s.journal.mode = 0 ∧ s.journal.records.length + 256 < 1782579

/-- `t` is `u` but for what the module reports of the change by itself (17 R392, R393; 10 R237): attention records and
the STICKY marks of the sessions, and a REFUSAL_MODE record at the end of the journal. -/
def Noted (u t : State) : Prop :=
  t = { u with
    host := { u.host with attnSeq := t.host.attnSeq, attnCode := t.host.attnCode, attn := t.host.attn,
                          sessions := t.host.sessions },
    journal := t.journal, counting := { u.counting with control := t.counting.control }, free := t.free }
  ∧ t.host.sessions.map (fun k => { k with sticky := true }) = u.host.sessions.map (fun k => { k with sticky := true })
  ∧ u.journal.records <+: t.journal.records

/-- A well-formed request of an open session to a module in service (17 R386). -/
def Asks (s : State) (h : HostHdr) (k : Session) : Prop :=
  s.host.up = true ∧ serving s = true ∧ h.wellFormed = true ∧ h.session ≠ 0 ∧ findSession s h.session = some k

/-- `t` is `u` but for taking the frame of a request, its one reply (KIND with bit 7 set, the request's tag, STATUS in
bits [15:0] of the status word, and the content; 17 R385, R390), and what the module reports by itself. -/
def Served (u t : State) (h : HostHdr) (kind code : Nat) (content : Bytes) : Prop :=
  t = { u with
    host := { u.host with lastBell := t.host.lastBell, attnSeq := t.host.attnSeq, attnCode := t.host.attnCode,
                          attn := t.host.attn, sessions := t.host.sessions },
    journal := t.journal, counting := { u.counting with control := t.counting.control }, free := t.free, out := t.out }
  ∧ t.host.lastBell = u.bell
  ∧ t.host.sessions.map (fun k => (k.id, k.role, k.principal, k.digest, k.transfer))
      = u.host.sessions.map (fun k => (k.id, k.role, k.principal, k.digest, k.transfer))
  ∧ u.journal.records <+: t.journal.records
  ∧ ∃ w, w % 2 ^ 16 = code ∧ t.out = u.out ++ [.host h.session (kind + 0x80) h.tag w content]

/-! ### Control messages (13 R299, R316) -/

/-- A message that this module has not yet acted on. -/
def Fresh (s : State) (k : Acted) : Prop := ∀ e ∈ s.acted, { e with answer := none } ≠ k

/-- The module keeps the message that it acts on. -/
def kept (s : State) (k : Acted) : State := { s with acted := s.acted ++ [k] }

/-- One message leaves, with the sender's next number of its job, which is then used. -/
def Told (s t : State) (dst : List Nat) (msg job arg : Nat) (content : Bytes) : Prop :=
  t.out = s.out ++ [.control ⟨dst, msg, job, nextControl s job, arg, content⟩]
  ∧ nextControl t job = nextControl s job + 1

/-- The job as the standby is told of it before a message that follows from its change. -/
def mirrorOf (t : State) (job : Nat) : List Out :=
  if t.reeve.hasStandby && job != 0 then [.mirror t.domain.standby job (findJob t job)] else []

/-- The reeve tells its standby of the job and sends one message. -/
def Sends (s t : State) (dst : List Nat) (msg job arg : Nat) (content : Bytes) : Prop :=
  t.out = s.out ++ mirrorOf t job ++ [.control ⟨dst, msg, job, nextControl s job, arg, content⟩]

/-- INSTALL leaves to every holder of a job, in order. -/
def installsOf (s t : State) (j : ReeveJob) : List Out :=
  j.holders.zipIdx.flatMap (fun e =>
    mirrorOf t j.id ++ [.control ⟨[e.1], 0x10, j.id, nextControl s j.id + e.2, 0, installContent j e.1⟩])

/-! ### Far operations (11 R256) -/

/-- A command with which the last frame of a request (TYPE 1) or reply (TYPE 3) comes: `alone` takes its first frame, and
`more` is what the CONTINUE frame carries. -/
def Brings (s : State) (typ : BitVec 4) (alone : Frame → Instr) (f : Frame) (more : Bytes) (i : Instr) : Prop :=
  (f.more = false ∧ more = [] ∧ i = alone f)
  ∨ (f.more = true ∧ ∃ g b, sameRequest f g = true ∧ more = g.content
      ∧ ((i = .continueFrame g [] [] ∧ f.typ = typ ∧ s.endpoint.halves = [(f, b)])
        ∨ (i = alone f ∧ g.typ = 2 ∧ s.endpoint.halves = [(g, b)])))

/-! ### Issue of a slot instruction (03 R56) -/

/-- The core as the slot instruction finds it, in its bundle. -/
def found (s : State) (c : CoreId) (sl : Slot) : Core := s.cores[c].intoBundle sl

/-- The registers that the instruction's operands come from. -/
def operands (s : State) (c : CoreId) (sl : Slot) : Regs := (found s c sl).view.getD (found s c sl).regs

/-- The core runs its plan's open step, its bundle can issue whole or has begun to (03 R56), no write in progress touches a
register in use, and the bundle reads without an uncorrectable word. -/
def CanIssue (s : State) (c : CoreId) (sl : Slot) (uses : List RegRef) : Prop :=
  (executing s c).isSome = true ∧ (found s c sl).settled (found s c sl).openId uses = true
  ∧ anyBad (found s c sl).sramBad 8 (32 * (found s c sl).bundle) 32 = false
  ∧ (executing s c).all (fun e => bundleReady s e.2 (found s c sl)) = true

/-- No watch of the plan covers the bundle that the core is in (14 R332). -/
def Unwatched (s : State) (c : CoreId) (sl : Slot) : Prop :=
  ∀ i p, executing s c = some (i, p) → ∀ w ∈ p.img.watches,
    ¬ (w.cls = p.cls ∧ w.planCore = (found s c sl).planCore ∧ w.first ≤ (found s c sl).bundle
       ∧ (found s c sl).bundle ≤ w.last)

/-- A C-slot instruction has ended its bundle: what else of the core may have changed (its registers, flags, loops and
position are said beside this). -/
def EndsBundle (k k' : Core) : Prop :=
  k' = { k with regs := k'.regs, flagsStep := k'.flagsStep, bundle := k'.bundle, loops := k'.loops, view := none,
                slotX := false, slotV := false, slotM := false, flagSeen := false, work := k'.work, closed := k.closed + 1,
                fromS := k'.fromS, counters := k'.counters, topDown := k'.topDown }

/-- The core goes on with the next bundle where no loop is active (03 R69), its loop counters as they were. -/
def NextBundle (k k' : Core) : Prop :=
  k.loops = [] → k'.bundle = k.bundle + 1 ∧ k'.loops = [] ∧ k'.regs.l = k.regs.l

/-- Sd is written, flags are set in the step flags (02 R48), and every other S register and every A, K, V and T register
is as it was. -/
def WroteS (s t : State) (c : CoreId) (d : Nat) (v : SWord) (fl : NumFlags) : Prop :=
  let k := found s c .c
  let k' := t.cores[c]
  OnlyRegisters c s t ∧ EndsBundle k k' ∧ NextBundle k k' ∧ k'.fromS = k.fromS ∧ k'.flagsStep = k.flagsStep ||| fl
  ∧ (∀ i, i < 32 → k'.regs.getS i = if i = d then v else k.regs.getS i)
  ∧ k'.regs.a = k.regs.a ∧ k'.regs.k = k.regs.k ∧ k'.regs.v = k.regs.v ∧ k'.regs.t = k.regs.t

/-- Ad is written and nothing else of the registers and flags. -/
def WroteA (s t : State) (c : CoreId) (d : Nat) (v : AWord) : Prop :=
  let k := found s c .c
  let k' := t.cores[c]
  OnlyRegisters c s t ∧ EndsBundle k k' ∧ NextBundle k k' ∧ k'.flagsStep = k.flagsStep
  ∧ (∀ i, i < 16 → k'.regs.getA i = if i = d then v else k.regs.getA i)
  ∧ k'.regs.s = k.regs.s ∧ k'.regs.k = k.regs.k ∧ k'.regs.v = k.regs.v ∧ k'.regs.t = k.regs.t

/-- Kd is written, K0 excepted (03 R59), and nothing else of the registers and flags. -/
def WroteK (s t : State) (c : CoreId) (d : BitVec 3) (v : KMask) : Prop :=
  let k := found s c .c
  let k' := t.cores[c]
  OnlyRegisters c s t ∧ EndsBundle k k' ∧ NextBundle k k' ∧ k'.fromS = k.fromS ∧ k'.flagsStep = k.flagsStep
  ∧ (∀ n : BitVec 3, k'.regs.mask n = if n = d ∧ d ≠ 0 then v else k.regs.mask n)
  ∧ k'.regs.s = k.regs.s ∧ k'.regs.a = k.regs.a ∧ k'.regs.v = k.regs.v ∧ k'.regs.t = k.regs.t

/-- An instruction that writes no register: the core is at `b` with the loops `l`. -/
def MovedTo (s t : State) (c : CoreId) (b : Nat) : Prop :=
  let k := found s c .c
  let k' := t.cores[c]
  OnlyRegisters c s t ∧ EndsBundle k k' ∧ k'.bundle = b ∧ k'.loops = k.loops ∧ k'.regs = k.regs ∧ k'.fromS = k.fromS
  ∧ k'.flagsStep = k.flagsStep

/-- The open bundle stays open: an X-, V- or M-slot instruction changes of its core only the registers `r`, the step
flags, counters, and what the caller names. -/
def StaysOpen (s t : State) (c : CoreId) (sl : Slot) (op : Nat) (r : Regs) (fl : NumFlags) : Prop :=
  let k := (found s c sl).begin sl op
  OnlyRegisters c s t
  ∧ t.cores[c] = { k with regs := r, flagsStep := k.flagsStep ||| fl, counters := t.cores[c].counters }

/-- The registers with one group of long registers given new lanes; every other lane and register as it was. -/
def LanesWritten (r r' : Regs) (g : GroupRef) (lane : Nat → Option Nat) : Prop :=
  r'.s = r.s ∧ r'.a = r.a ∧ r'.k = r.k ∧ r'.l = r.l ∧ r'.t = r.t
  ∧ (∀ n, n < 64 → (n < g.first ∨ g.first + g.size ≤ n) → r'.v.getD n 0 = r.v.getD n 0)
  ∧ (∀ j, j < g.n → (groupCodes r' g)[j]? = some ((lane j).getD ((groupCodes r g).getD j 0)))
  ∧ (r'.group g.first g.size) / 2 ^ (g.w * g.n) = (r.group g.first g.size) / 2 ^ (g.w * g.n)

/-! ### Values -/

/-- 02 R38: an integer result of `w` bits. Inside the range it is the value; outside it is the nearest end of the range
with INT_SAT under SAT, and the low `w` bits with no flag otherwise. -/
def SignedResult (w : Nat) (sat : Bool) (x : Int) (code : Nat) (fl : NumFlags) : Prop :=
  (-(2 ^ (w - 1)) ≤ x ∧ x < 2 ^ (w - 1) → sext w code = x ∧ fl = 0)
  ∧ (sat = true → 2 ^ (w - 1) ≤ x → sext w code = 2 ^ (w - 1) - 1 ∧ fl = flagIntSat)
  ∧ (sat = true → x < -(2 ^ (w - 1)) → sext w code = -(2 ^ (w - 1)) ∧ fl = flagIntSat)
  ∧ (sat = false → ((code : Int) - x) % 2 ^ w = 0 ∧ fl = 0)
  ∧ code < 2 ^ w

/-- Each flag is set exactly when some active lane sets it (02 R48). -/
def FlagsOf (n : Nat) (active : Nat → Bool) (g : Nat → NumFlags) (fl : NumFlags) : Prop :=
  ∀ b, fl.getLsbD b = true ↔ ∃ j, j < n ∧ active j = true ∧ (g j).getLsbD b = true

/-- What lane `j` of an instruction of form VE is given: its formats, SUB_FLUSH and operand codes; the second operand is
the low bits of S[VB] under SB (05 R112). -/
def laneInput (op : Nat) (f : VEForm) (fs fd : Fmt) (flush : Bool) (r : Regs) (j : Nat) : LaneIn :=
  let lane (first : Nat) : Nat := (groupCodes r ⟨first, fs.width, countOf f.count⟩).getD j 0
  { fs := fs, fd := fd, flush := flush, i := j, a := lane f.va.toNat,
    b := if f.sb then (r.getS f.vb.toNat).toNat % 2 ^ fs.width else if op = 0x20 then 0 else lane f.vb.toNat,
    c := if op = 0x04 ∨ op = 0x09 then lane f.vc.toNat else 0 }

/-- The element-wise instructions of 05 R116-R119: opcode, and the operation on one lane's operands with the operand
registers `r`. -/
def elementwise (c : CoreId) (f : VEForm) (fs : Fmt) (own : Option (Fin 16 × Plan)) (r : Regs) :
    List (Instr × Nat × (LaneIn → Nat × NumFlags)) :=
  [(Instr.vAdd c f, 0x01, fun l => laneAdd l.fs l.flush f.sat l.a l.b),
   (Instr.vSub c f, 0x02, fun l => laneSub l.fs l.flush f.sat l.a l.b),
   (Instr.vMul c f, 0x03, fun l => laneMul l.fs l.flush f.sat l.a l.b),
   (Instr.vFma c f, 0x04, fun l => laneFma l.fs l.flush l.a l.b l.c),
   (Instr.vMin c f, 0x05, fun l => laneMinMax l.fs l.flush false l.a l.b),
   (Instr.vMax c f, 0x06, fun l => laneMinMax l.fs l.flush true l.a l.b),
   (Instr.vAbs c f, 0x07, fun l => laneAbs l.fs l.flush f.sat l.a),
   (Instr.vNeg c f, 0x08, fun l => laneNeg l.fs l.flush f.sat l.a),
   (Instr.vClamp c f, 0x09, fun l => laneClamp l.fs l.flush l.a l.b l.c),
   (Instr.vSel c f, 0x0A, fun l => (if (r.mask (f.vc.setWidth 3)).getLsbD l.i then l.a else l.b, 0)),
   (Instr.vAnd c f, 0x0B, fun l => (l.a &&& l.b, 0)), (Instr.vOr c f, 0x0C, fun l => (l.a ||| l.b, 0)),
   (Instr.vXor c f, 0x0D, fun l => (l.a ^^^ l.b, 0)),
   (Instr.vShl c f, 0x0E, fun l => intResult fs.width true f.sat (l.fs.intVal l.a * 2 ^ (l.b % 64))),
   (Instr.vShr c f, 0x0F, fun l => (l.a / 2 ^ (l.b % 64), 0)),
   (Instr.vSra c f, 0x10, fun l => (wrapInt fs.width (l.fs.intVal l.a / 2 ^ (l.b % 64)), 0)),
   (Instr.vMov c f, 0x11, fun l => (l.a, 0)), (Instr.vQuant c f, 0x13, fun l => fmtD64.quantize l.a l.b),
   (Instr.vDiv c f, 0x18, fun l => fmtB64.div l.flush l.a l.b),
   (Instr.vSqrt c f, 0x19, fun l => fmtB64.sqrt l.flush l.a),
   (Instr.vFn c f, 0x1A, fun l => laneFn l.fs l.flush f.aux.toNat l.a),
   (Instr.vCvt c f, 0x20, fun l => laneCvt f ⟨c, own, r⟩ l)]

/-! ### Local moves -/

/-- The core's own local SRAM holds every byte of an element at an address that the program may read; stores also stay
out of the read-only range (03 R64, R65, R72). -/
def OwnElem (p : Plan) (k : Core) (store : Bool) (e : Elem) : Prop :=
  ∃ d, p.img.cores[k.planCore]? = some d ∧ e.addr % e.n = 0 ∧ 0 < e.n ∧ 64 % e.n = 0
    ∧ baseOwn + d.program.length ≤ e.addr ∧ e.addr + e.n ≤ baseOwn + sramBytes
    ∧ anyBad k.sramBad 8 (e.addr - baseOwn) e.n = false
    ∧ (store = true → baseOwn + d.roOffset + d.ro.length ≤ e.addr ∨ e.addr + e.n ≤ baseOwn + d.roOffset)

/-- A core with no work of its memory pipes outstanding, that holds its plan core's place in the core mapping; the
operations that it numbers rise and its SRAM is in canonical form (both are invariants: `Inv`). -/
def MemoryIdle (s : State) (p : Plan) (c : CoreId) (k : Core) : Prop :=
  k.moves = [] ∧ k.copies = [] ∧ k.far = [] ∧ k.ahead.buffer = [] ∧ planCorePhys s p k.planCore = some c
  ∧ k.planCore < 512 ∧ k.openId ≤ k.nextId ∧ memWf 0 k.sram = true

/-- Byte `i` of a value. -/
def byteOf (v i : Nat) : Byte := BitVec.ofNat 8 (v / 2 ^ (8 * i))

/-- The byte at an address after the elements of a store have been applied in order (03 R73). -/
def storedByte (elems : List Elem) (a : Nat) (old : Byte) : Byte :=
  elems.foldl (fun b e => if e.addr ≤ a ∧ a < e.addr + e.n then byteOf e.data (a - e.addr) else b) old

/-- The long registers after a load: each element's bits hold its value, and every other bit is as it was. -/
def Loaded (reg : Nat) (elems : List Elem) (value : Elem → Nat) (r r' : Regs) : Prop :=
  r' = { r with v := r'.v }
  ∧ (∀ e ∈ elems, ((r'.v.getD (reg + e.dst / 8192) 0).extractLsb' (e.dst % 8192) (8 * e.n)).toNat = value e)
  ∧ (∀ n b, n < 64 → b < 8192 →
      (∀ e ∈ elems, ¬ (n = reg + e.dst / 8192 ∧ e.dst % 8192 ≤ b ∧ b < e.dst % 8192 + 8 * e.n)) →
      (r'.v.getD n 0).getLsbD b = (r.v.getD n 0).getLsbD b)

/-! ### The invariant -/

/-- What every step keeps: HBM, each core's SRAM, each granary bin, the configuration image and both flash devices are
lists in canonical form, and the open bundle of a core is not numbered beyond the work that the core has numbered. -/
def Inv (s : State) : Prop :=
  memWf 0 s.hbm = true ∧ memWf 0 s.cfg = true
  ∧ (∀ c : CoreId, memWf 0 s.cores[c].sram = true ∧ s.cores[c].openId ≤ s.cores[c].nextId)
  ∧ (∀ b : Fin 512, memWf 0 s.bins[b].mem = true)
  ∧ (∀ d : Fin 2, memWf 0xFF s.flash[d] = true)

end Sys2Proof.Machine
end

