-- ==== Sys2Proof/Certificates/Slice0/Obligations.lean ====
section
/-! DEFINITION. The statements for the provers, by family of commands. Each names the rules of the specification that it
formalises; where a clause rests on the model's own choice, the docstring names the log entry. -/

open Sys2Proof Sys2Proof.Machine

/-! ### Core programs: the C slot -/

/-- 03 R68, 02 R38: C.ADD, C.SUB, C.MUL, C.SHL and C.ADDI write the exact result under SAT and complete. -/
def Obligations.CIntegerResults : Prop :=
  ∀ (s : State) (c : CoreId) (f : CForm),
    let a := (operands s c .c).getS f.a.toNat
    let b := (operands s c .c).getS f.b.toNat
    ∀ e ∈ ([(Instr.cAdd c f, 0x01, [f.a, f.b], a.toInt + b.toInt),
            (Instr.cSub c f, 0x02, [f.a, f.b], a.toInt - b.toInt),
            (Instr.cMul c f, 0x03, [f.a, f.b], a.toInt * b.toInt),
            (Instr.cShl c f, 0x07, [f.a, f.b], a.toInt * 2 ^ (b.toNat % 64)),
            (Instr.cAddi c f, 0x0A, [f.a], a.toInt + f.imm.toInt)] : List (Instr × Nat × List (BitVec 5) × Int)),
      f.legal e.2.1 = true → CanIssue s c .c (.s f.d.toNat :: e.2.2.1.map (fun n => .s n.toNat)) →
      ∃ t v fl, exec e.1 s = .next t ∧ SignedResult 64 f.sat e.2.2.2 v fl
        ∧ WroteS s t c f.d.toNat (BitVec.ofNat 64 v) fl

/-- 03 R68: the logic, shift-right, load-immediate, compare and move instructions of the C slot. C.LI sign-extends IMM,
C.LIH keeps bits [31:0], C.CMP takes the integer column of the *Condition code table*. -/
def Obligations.CLogicResults : Prop :=
  ∀ (s : State) (c : CoreId) (f : CForm),
    let r := operands s c .c
    let a := r.getS f.a.toNat
    let b := r.getS f.b.toNat
    ∀ e ∈ ([(Instr.cAnd c f, 0x04, [f.a, f.b], a &&& b), (Instr.cOr c f, 0x05, [f.a, f.b], a ||| b),
            (Instr.cXor c f, 0x06, [f.a, f.b], a ^^^ b),
            (Instr.cShr c f, 0x08, [f.a, f.b], BitVec.ofNat 64 (a.toNat / 2 ^ (b.toNat % 64))),
            (Instr.cSra c f, 0x09, [f.a, f.b], BitVec.ofInt 64 (a.toInt / 2 ^ (b.toNat % 64))),
            (Instr.cLi c f, 0x0B, [], BitVec.ofInt 64 f.imm.toInt),
            (Instr.cLih c f, 0x0C, [], f.imm ++ (r.getS f.d.toNat).extractLsb' 0 32),
            (Instr.cCmp c f, 0x0D, [f.a, f.b],
              if (match f.cond.toNat with
                  | 0 => decide (a = b) | 1 => decide (a ≠ b) | 2 => decide (a.toInt < b.toInt)
                  | 3 => decide (b.toInt ≤ a.toInt) | 4 => decide (a.toNat < b.toNat)
                  | _ => decide (b.toNat ≤ a.toNat)) then 1 else 0),
            (Instr.cSmova c f, 0x26, [], BitVec.ofNat 64 (r.getA f.a.toNat).toNat)] :
            List (Instr × Nat × List (BitVec 5) × SWord)),
      f.legal e.2.1 = true → CanIssue s c .c (.s f.d.toNat :: e.2.2.1.map (fun n => .s n.toNat)) →
      ∃ t, exec e.1 s = .next t ∧ WroteS s t c f.d.toNat e.2.2.2 0

/-- 03 R68, 02 R34-R36, R46, R53: the binary64 instructions of the C slot write the result of the named operation on
their operands, with its flags, SUB_FLUSH applied. -/
def Obligations.CBinary64Results : Prop :=
  ∀ (s : State) (c : CoreId) (f : CForm),
    let r := operands s c .c
    let z := (found s c .c).subFlush
    let a := (r.getS f.a.toNat).toNat
    let b := (r.getS f.b.toNat).toNat
    ∀ e ∈ ([(Instr.cFadd c f, 0x10, [f.a, f.b], fmtB64.add z a b), (Instr.cFsub c f, 0x11, [f.a, f.b], fmtB64.sub z a b),
            (Instr.cFmul c f, 0x12, [f.a, f.b], fmtB64.mul z a b),
            (Instr.cFfma c f, 0x13, [f.a, f.b], fmtB64.fma z a b (r.getS f.d.toNat).toNat),
            (Instr.cFdiv c f, 0x14, [f.a, f.b], fmtB64.div z a b), (Instr.cFsqrt c f, 0x15, [f.a], fmtB64.sqrt z a),
            (Instr.cFcmp c f, 0x16, [f.a, f.b],
              ((condBin f.cond (fmtB64.cmp z a b).1).toNat, (fmtB64.cmp z a b).2)),
            (Instr.cFmin c f, 0x17, [f.a, f.b], fmtB64.minmax z false a b),
            (Instr.cFmax c f, 0x18, [f.a, f.b], fmtB64.minmax z true a b),
            (Instr.cFcvti c f, 0x19, [f.a], convert .binary64 .int64 ⟨z, false, 0, 0, 0⟩ a),
            (Instr.cIcvtf c f, 0x1A, [f.a], convert .int64 .binary64 ⟨z, false, 0, 0, 0⟩ a)] :
            List (Instr × Nat × List (BitVec 5) × (Nat × NumFlags))),
      f.legal e.2.1 = true → CanIssue s c .c (.s f.d.toNat :: e.2.2.1.map (fun n => .s n.toNat)) →
      ∃ t, exec e.1 s = .next t ∧ WroteS s t c f.d.toNat (BitVec.ofNat 64 e.2.2.2.1) e.2.2.2.2

/-- 03 R59, R68: A registers wrap modulo 2^48; C.AADDI sign-extends IMM, C.ALI zero-extends it, C.ALIH writes bits
[47:32], C.AADDL adds L times IMM, C.AMOVS takes Sa[47:0]. The lane mask instructions: K0 reads as all ones, and no form
writes it. -/
def Obligations.CAddressAndMaskResults : Prop :=
  ∀ (s : State) (c : CoreId) (f : CForm),
    let r := operands s c .c
    let a := (r.getA f.a.toNat).toNat
    let k (n : BitVec 5) : KMask := r.mask (n.setWidth 3)
    (∀ e ∈ ([(Instr.cAadd c f, 0x20, [], ((a + (r.getA f.b.toNat).toNat : Nat) : Int)),
             (Instr.cAaddi c f, 0x21, [], a + f.imm.toInt), (Instr.cAli c f, 0x22, [], (f.imm.toNat : Int)),
             (Instr.cAlih c f, 0x23, [], ((f.imm.toNat % 2 ^ 16 * 2 ^ 32 + (r.getA f.d.toNat).toNat % 2 ^ 32 : Nat) : Int)),
             (Instr.cAaddl c f, 0x24, [], a + (r.getL f.b.toNat).toNat * f.imm.toInt),
             (Instr.cAmovs c f, 0x25, [f.a], ((r.getS f.a.toNat).toNat : Int))] :
             List (Instr × Nat × List (BitVec 5) × Int)),
      f.legal e.2.1 = true → CanIssue s c .c (e.2.2.1.map (fun n => .s n.toNat)) →
      ∃ t, exec e.1 s = .next t ∧ WroteA s t c f.d.toNat (BitVec.ofInt 48 e.2.2.2))
    ∧ (∀ e ∈ ([(Instr.cKand c f, 0x29, k f.a &&& k f.b), (Instr.cKor c f, 0x2A, k f.a ||| k f.b),
             (Instr.cKxor c f, 0x2B, k f.a ^^^ k f.b), (Instr.cKnot c f, 0x2C, ~~~ k f.a)] : List (Instr × Nat × KMask)),
      f.legal e.2.1 = true → CanIssue s c .c [] →
      ∃ t, exec e.1 s = .next t ∧ WroteK s t c (f.d.setWidth 3) e.2.2)
    ∧ (f.legal 0x28 = true → CanIssue s c .c (if f.useS then [.s f.a.toNat] else []) →
        ∃ t m, exec (.cKset c f) s = .next t ∧ WroteK s t c (f.d.setWidth 3) m
          ∧ ∀ i, i < 4096 →
              m.getLsbD i = decide ((i : Int) < if f.useS then (r.getS f.a.toNat).toInt else f.imm.toInt))

/-- 03 R69: C.NOP goes to the next bundle. C.BR, and C.BRC where its condition holds, go to the bundle's index plus IMM
and change no loop; C.BRC goes to the next bundle where it does not hold. -/
def Obligations.CBranches : Prop :=
  ∀ (s : State) (c : CoreId) (f : CForm),
    let k := found s c .c
    let r := operands s c .c
    let target := ((k.bundle : Int) + f.imm.toInt).toNat
    (k.loops = [] → CanIssue s c .c [] → ∃ t, exec (.cNop c) s = .next t ∧ MovedTo s t c (k.bundle + 1))
    ∧ (f.legal 0x30 = true → CanIssue s c .c [] → ∃ t, exec (.cBr c f) s = .next t ∧ MovedTo s t c target)
    ∧ (f.legal 0x31 = true → CanIssue s c .c [.s f.a.toNat, .s f.b.toNat] →
        ∃ t, exec (.cBrc c f) s = .next t
          ∧ (condInt f.cond (r.getS f.a.toNat) (r.getS f.b.toNat) = true → MovedTo s t c target)
          ∧ (condInt f.cond (r.getS f.a.toNat) (r.getS f.b.toNat) = false → k.loops = [] →
              MovedTo s t c (k.bundle + 1)))

/-- 03 R69: C.LOOP sets its counter to 0 and enters the next LEN bundles; COUNT 0 skips them. At the end of the body the
counter rises by 1, and the body runs again while fewer than COUNT passes are done. -/
def Obligations.CLoops : Prop :=
  ∀ (s : State) (c : CoreId) (f : CForm),
    let k := found s c .c
    let r := operands s c .c
    let n := if f.useS then (r.getS f.a.toNat).toNat % 2 ^ 20 else f.imm.toNat % 2 ^ 20
    let len := f.imm.toNat / 2 ^ 20
    (f.legal 0x32 = true → CanIssue s c .c (if f.useS then [.s f.a.toNat] else []) →
      ∃ t, exec (.cLoop c f) s = .next t ∧ OnlyRegisters c s t ∧ EndsBundle k t.cores[c]
        ∧ t.cores[c].regs.getL f.d.toNat = 0
        ∧ (n ≠ 0 → t.cores[c].bundle = k.bundle + 1
            ∧ ∃ i : Fin 4, i.val = f.d.toNat ∧ t.cores[c].loops = ⟨i, k.bundle + 1, len, n⟩ :: k.loops)
        ∧ (n = 0 → k.loops = [] → t.cores[c].bundle = k.bundle + 1 + len ∧ t.cores[c].loops = []))
    ∧ (∀ (lp : Loop), CanIssue s c .c [] → k.loops = [lp] → k.bundle + 1 = lp.first + lp.len →
        lp.count < 2 ^ 20 →
        ∃ t, exec (.cNop c) s = .next t
          ∧ ((k.regs.getL lp.ctr).toNat + 1 < lp.count →
              t.cores[c].bundle = lp.first ∧ t.cores[c].loops = [lp]
              ∧ (t.cores[c].regs.getL lp.ctr).toNat = (k.regs.getL lp.ctr).toNat + 1)
          ∧ (lp.count ≤ (k.regs.getL lp.ctr).toNat + 1 →
              t.cores[c].bundle = k.bundle + 1 ∧ t.cores[c].loops = [] ∧ t.cores[c].regs = k.regs))

/-- 03 R56, R68: C.WAITF on the 8-byte word at A[A] + IMM of own local SRAM goes on once its condition holds; while it
does not hold, the bundle that the program holds there issues in no slot. C.WAITDC issues once its completion counter has
reached its threshold, and until then leaves the core in its bundle. -/
def Obligations.CWaits : Prop :=
  ∀ (s : State) (c : CoreId) (f : CForm) (i : Fin 16) (p : Plan) (d : CoreProgram),
    let k := found s c .c
    let r := operands s c .c
    let off (q : Regs) : Int := ((q.getA f.a.toNat).toNat + f.imm.toInt : Int) - baseOwn
    let there (q : Regs) : Prop :=
      (d.program.length : Int) ≤ off q ∧ 0 ≤ off q ∧ off q + 8 ≤ sramBytes ∧ off q % 8 = 0
        ∧ anyBad k.sramBad 8 (off q).toNat 8 = false
    let word (q : Regs) := BitVec.ofNat 64 (leNat (memRead 0 k.sram (off q).toNat 8))
    let n : DCWord := if f.useS then (r.getS f.a.toNat).setWidth 32 else f.imm
    executing s c = some (i, p) → p.img.cores[k.planCore]? = some d →
    (f.legal 0x38 = true → there r → CanIssue s c .c [.s f.b.toNat] → k.loops = [] → k.moves = [] → k.copies = [] →
      condInt f.cond (word r) (r.getS f.b.toNat) = true →
      ∃ t, exec (.cWaitf c f) s = .next t ∧ MovedTo s t c (k.bundle + 1))
    ∧ (f.legal 0x38 = true → there k.regs → k.slotX = false → k.slotV = false → k.slotM = false →
        anyBad k.sramBad 8 (32 * k.bundle) 32 = false → slotOpcode (k.slotWord .c) = 0x38 → CForm.ofWord (k.slotWord .c) = f →
        condInt f.cond (word k.regs) (k.regs.getS f.b.toNat) = false →
        ∀ e ∈ [Instr.cWaitf c f, .xNop c, .vNop c, .mNop c, .mLfence c], exec e s = .next s)
    ∧ (f.legal 0x39 = true → CanIssue s c .c (if f.useS then [.s f.a.toNat] else []) → k.loops = [] →
        ∀ j : Fin 16, j.val = f.d.toNat →
        ∃ t, exec (.cWaitdc c f) s = .next t
          ∧ ((k.dc[j] - n).toNat < 2 ^ 31 → MovedTo s t c (k.bundle + 1))
          ∧ (2 ^ 31 ≤ (k.dc[j] - n).toNat → t = s))

/-- 03 R86: the sequence-slot instructions by the core that owns the slot. Sd takes CL and TL, the positions added, P, TL,
and 0; C.SQRESET leaves the slot's values for the commit. -/
def Obligations.CSequenceSlots : Prop :=
  ∀ (s : State) (c : CoreId) (f : CForm) (i : Fin 16) (p : Plan) (q : Fin 64),
    let k := found s c .c
    let r := operands s c .c
    let z := s.seqSlots[q]
    let n := if f.useS then (r.getS f.a.toNat).toNat % 2 ^ 32 else f.imm.toNat % 2 ^ 16
    executing s c = some (i, p) → p.seqs[f.imm.toNat / 2 ^ 16 % 64]? = some q.val → z.owner.toNat = k.planCore →
    k.loops = [] → z.cl.toNat ≤ z.tl.toNat → z.tl.toNat ≤ z.cap.toNat → z.cl.toNat + z.p.toNat ≤ z.tl.toNat →
    ∀ e ∈ ([(Instr.cSqrd c f, 0x40, z, z.tl.toNat * 2 ^ 32 + z.cl.toNat),
            (Instr.cSqdraft c f, 0x41, { z with tl := BitVec.ofNat 32 (min (z.tl.toNat + n) z.cap.toNat) },
              min (z.tl.toNat + n) z.cap.toNat - z.tl.toNat),
            (Instr.cSqaccept c f, 0x42, { z with p := BitVec.ofNat 32 (min (z.p.toNat + n) (z.tl.toNat - z.cl.toNat)) },
              min (z.p.toNat + n) (z.tl.toNat - z.cl.toNat)),
            (Instr.cSqtrim c f, 0x43, { z with tl := BitVec.ofNat 32 (z.cl.toNat + z.p.toNat) }, z.cl.toNat + z.p.toNat),
            (Instr.cSqreset c f, 0x44, { z with resetMark := true }, 0)] : List (Instr × Nat × SeqSlot × Nat)),
      f.legal e.2.1 = true → CanIssue s c .c (.s f.d.toNat :: if f.useS then [.s f.a.toNat] else []) →
      ∃ t, exec e.1 s = .next t ∧ t.seqSlots[q] = e.2.2.1 ∧ (∀ o : Fin 64, o ≠ q → t.seqSlots[o] = s.seqSlots[o])
        ∧ WroteS s { t with seqSlots := s.seqSlots } c f.d.toNat (BitVec.ofNat 64 e.2.2.2) 0

/-! ### The X slot -/

/-- 04 R91, R94: X.NOP changes nothing, X.ZERO clears a tile, X.TMOV copies one, X.TRD moves rows ROW to ROW + 4G - 1
into a group of long registers and X.TWR moves such a group into those rows, bits unchanged. -/
def Obligations.XTileMoves : Prop :=
  ∀ (s : State) (c : CoreId) (f : XForm),
    let k := found s c .x
    let r := operands s c .x
    let g := grpSize f.grp
    let td := f.td.toFin
    (CanIssue s c .x [] → ∃ t, exec (.xNop c) s = .next t ∧ StaysOpen s t c .x 0x00 k.regs 0)
    ∧ (∀ e ∈ ([(Instr.xZero c f, 0x02, [f.td], (0 : TReg)), (Instr.xTmov c f, 0x03, [f.td, f.ta], r.t[f.ta.toFin])] :
          List (Instr × Nat × List (BitVec 3) × TReg)),
        f.legal e.2.1 = true → CanIssue s c .x (e.2.2.1.map (fun n => .t n.toNat)) →
        ∃ t q, exec e.1 s = .next t ∧ StaysOpen s t c .x e.2.1 q 0 ∧ q = { k.regs with t := q.t }
          ∧ ∀ i : Fin 8, q.t[i] = if i = td then e.2.2.2 else k.regs.t[i])
    ∧ (f.legal 0x04 = true → CanIssue s c .x [.t f.td.toNat, .v f.vr.toNat g] →
        ∃ t q, exec (.xTrd c f) s = .next t ∧ StaysOpen s t c .x 0x04 q 0 ∧ q = { k.regs with v := q.v }
          ∧ ∀ n, n < 64 → q.v.getD n 0 =
              if f.vr.toNat ≤ n ∧ n < f.vr.toNat + g
              then (r.t[td]).extractLsb' (2048 * f.row.toNat + 8192 * (n - f.vr.toNat)) 8192 else k.regs.v.getD n 0)
    ∧ (f.legal 0x05 = true → CanIssue s c .x [.t f.td.toNat, .v f.vr.toNat g] →
        ∃ t q, exec (.xTwr c f) s = .next t ∧ StaysOpen s t c .x 0x05 q 0 ∧ q = { k.regs with t := q.t }
          ∧ (∀ i : Fin 8, i ≠ td → q.t[i] = k.regs.t[i])
          ∧ ∀ b, b < 131072 → (q.t[td]).getLsbD b =
              if 2048 * f.row.toNat ≤ b ∧ b < 2048 * f.row.toNat + 8192 * g
              then (r.v.getD (f.vr.toNat + (b - 2048 * f.row.toNat) / 8192) 0).getLsbD ((b - 2048 * f.row.toNat) % 8192)
              else (r.t[td]).getLsbD b)

/-- 04 R98, R100: X.MMA writes its accumulator tile with the tile product of its operands and sets the product's flags;
every other register is as it was. Under an int32 accumulator without SAT, output (m, n) of the product is the accumulator
plus the sum over k of the products of row m of TA and column n of TB, modulo 2^32, with no flag, whatever the group
size. -/
def Obligations.XMmaWritesItsTile : Prop :=
  (∀ (s : State) (c : CoreId) (f : XForm) (p : Pairing),
    pairing f.pair.toNat = some p → f.legal 0x01 = true → CanIssue s c .x (mmaUses p f) → Unwatched s c .x →
    let k := found s c .x
    let out := tileProduct p f k.subFlush (operands s c .x)
    ∃ t q, exec (.xMma c f) s = .next t ∧ StaysOpen s t c .x 0x01 q out.2 ∧ q = { k.regs with t := q.t }
      ∧ ∀ i : Fin 8, q.t[i] = if i = f.td.toFin then out.1 else k.regs.t[i])
  ∧ (∀ (p : Pairing) (f : XForm) (z : Bool) (r : Regs) (m n : Nat),
    pairing f.pair.toNat = some p → p.acc = .int32 → f.sat = false → m < 64 → n < 64 →
    let a (k : Nat) : Int := p.act.intVal ((r.t[f.ta.toFin]).extractLsb' (2048 * m + 8 * k) 8).toNat
    let b (k : Nat) : Int := p.wgt.intVal ((r.t[f.tb.toFin]).extractLsb' (2048 * n + 8 * k) 8).toNat
    let acc : Int := if f.acc then ((r.t[f.td.toFin]).extractLsb' (2048 * m + 32 * n) 32).toInt else 0
    (tileProduct p f z r).1.extractLsb' (2048 * m + 32 * n) 32
        = BitVec.ofInt 32 (acc + ((List.range 256).map (fun k => a k * b k)).sum)
      ∧ (tileProduct p f z r).2 = 0)

/-! ### The V slot -/

/-- 05 R105, R106, R113, R116-R119: an element-wise instruction writes each active lane with its operation on the lanes
of its operands, keeps every other lane and register, and sets the flags of its active lanes. 05 R131: in plain mode it
does the same to the first 128 bits of one register of each operand, with COUNT at most 128 over the width. That firmware
has entered plain mode when such an instruction comes is the model's choice (notes/assumptions/47.md). -/
def Obligations.VElementwise : Prop :=
  (∀ (s : State) (c : CoreId) (f : VEForm) (fs fd : Fmt) (i : Fin 16) (p : Plan),
    let k := found s c .v
    let r := operands s c .v
    let n := countOf f.count
    ∀ e ∈ elementwise c f fs (some (i, p)) r,
      executing s c = some (i, p) → f.legal e.2.1 = true → Fmt.ofCode f.fmt.toNat = some fs →
      f.dstFmt e.2.1 = some fd → CanIssue s c .v (veUses e.2.1 f fs fd) → Unwatched s c .v →
      let active (j : Nat) : Bool := (r.mask f.km).getLsbD j
      let res (j : Nat) : Nat × NumFlags := e.2.2 (laneInput e.2.1 f fs fd k.subFlush r j)
      ∃ t q fl, exec e.1 s = .next t ∧ FlagsOf n active (fun j => (res j).2) fl ∧ StaysOpen s t c .v e.2.1 q fl
        ∧ LanesWritten k.regs q ⟨f.vd.toNat, fd.width, n⟩
            (fun j => if active j then some ((res j).1 % 2 ^ fd.width) else none))
  ∧ (∀ (s : State) (c : CoreId) (f : VEForm) (fs fd : Fmt),
    let k := s.cores[c]
    let n := min (countOf f.count) (128 / max fs.width fd.width)
    let g : VEForm := { f with count := BitVec.ofNat 12 n }
    ∀ e ∈ elementwise c f fs none k.regs,
      plainMode s c = true → g.legal e.2.1 = true → Fmt.ofCode f.fmt.toNat = some fs → f.dstFmt e.2.1 = some fd →
      let active (j : Nat) : Bool := (k.regs.mask f.km).getLsbD j
      let res (j : Nat) : Nat × NumFlags := e.2.2 (laneInput e.2.1 g fs fd k.subFlush k.regs j)
      ∃ t q fl, exec e.1 s = .next t ∧ FlagsOf n active (fun j => (res j).2) fl
        ∧ LanesWritten k.regs q ⟨f.vd.toNat, fd.width, n⟩
            (fun j => if active j then some ((res j).1 % 2 ^ fd.width) else none)
        ∧ t = { s with cores := t.cores, free := t.free } ∧ (∀ d : CoreId, d ≠ c → t.cores[d] = s.cores[d])
        ∧ t.cores[c] = { k with regs := q, flagsStep := k.flagsStep ||| fl, counters := t.cores[c].counters,
                                plain := true, plainBank := t.cores[c].plainBank }
        ∧ (k.plain = true → t.cores[c].plainBank = k.plainBank))

/-- 05 R116: V.CMP writes the active lanes of Kd with the condition's results and keeps the other lanes. -/
def Obligations.VCompare : Prop :=
  ∀ (s : State) (c : CoreId) (f : VEForm) (fs : Fmt),
    let k := found s c .v
    let r := operands s c .v
    let n := countOf f.count
    let active (j : Nat) : Bool := (r.mask f.km).getLsbD j
    let res (j : Nat) : Nat × NumFlags :=
      let l := laneInput 0x12 f fs fs k.subFlush r j
      laneCmp fs l.flush f.aux.toNat l.a l.b
    f.legal 0x12 = true → Fmt.ofCode f.fmt.toNat = some fs → CanIssue s c .v (veUses 0x12 f fs fs) → Unwatched s c .v →
    ∃ t q fl, exec (.vCmp c f) s = .next t ∧ FlagsOf n active (fun j => (res j).2) fl ∧ StaysOpen s t c .v 0x12 q fl
      ∧ q = { k.regs with k := q.k }
      ∧ (∀ m : BitVec 3, m.toNat ≠ f.vd.toNat → q.mask m = k.regs.mask m)
      ∧ ∀ j, j < 4096 → (q.mask (f.vd.setWidth 3)).getLsbD j =
          if j < n ∧ active j = true then (res j).1 == 1 else (k.regs.mask (f.vd.setWidth 3)).getLsbD j

/-- 05 R120; 14 R324, R325: V.WUPD writes each active lane with the exact sum of Va and Vb rounded once, stochastically
under AUX = 1. Where a ratio table names the tensor, its monitor also takes the lanes (14 R337). -/
def Obligations.VWeightUpdate : Prop :=
  ∀ (s : State) (c : CoreId) (f : VEForm) (fs fd : Fmt) (i : Fin 16) (p : Plan),
    let k := found s c .v
    let r := operands s c .v
    let n := countOf f.count
    let active (j : Nat) : Bool := (r.mask f.km).getLsbD j
    let key := r.getS f.vc.toNat
    let res (j : Nat) : Nat × NumFlags :=
      let l := laneInput 0x21 f fs fd k.subFlush r j
      let z := wupdSum l
      match fd.fp with
      | none => (0, z.2)
      | some F =>
        let o := if f.aux.toNat = 1 then
            F.srRound l.flush (draw p.img.hdr.seed p.step (key.toNat / 2 ^ 32) (key.toNat + j)) z.1
          else floatToOther z.1 fd ⟨l.flush, false, 0, 0, 0⟩
        (o.1, z.2 ||| o.2)
    let monitored := p.img.ratios.any (fun e => e.tensor == key.extractLsb' 32 32)
    executing s c = some (i, p) → f.legal 0x21 = true → Fmt.ofCode f.fmt.toNat = some fs → f.dstFmt 0x21 = some fd →
    CanIssue s c .v (veUses 0x21 f fs fd) → Unwatched s c .v →
    ∃ t q fl, exec (.vWupd c f) s = .next t ∧ FlagsOf n active (fun j => (res j).2) fl
      ∧ LanesWritten k.regs q ⟨f.vd.toNat, fd.width, n⟩ (fun j => if active j then some ((res j).1 % 2 ^ fd.width) else none)
      ∧ OnlyRegisters c s t
      ∧ t.cores[c] = { (k.begin .v 0x21) with regs := q, flagsStep := k.flagsStep ||| fl, counters := t.cores[c].counters,
                                              ratio := t.cores[c].ratio, ratioLost := t.cores[c].ratioLost }
      ∧ (monitored = false → t.cores[c].ratio = k.ratio ∧ t.cores[c].ratioLost = k.ratioLost)
      ∧ (monitored = true →
          t.cores[c].ratio = (k.monitor (key.extractLsb' 32 32) (monitorLanes f fs k.subFlush r)).ratio
          ∧ t.cores[c].ratioLost = (k.monitor (key.extractLsb' 32 32) (monitorLanes f fs k.subFlush r)).ratioLost)

/-- 05 R121-R124: V.CHAIN runs its chain entry on each active lane: the output lanes unless NOWR, and under RED the
working values into RA0 or RA1. -/
def Obligations.VChains : Prop :=
  ∀ (s : State) (c : CoreId) (f : VCForm) (w : BitVec 320) (fo : Fmt),
    let k := found s c .v
    let r := operands s c .v
    let n := countOf f.count
    let e := chainEntry w
    let active (j : Nat) : Bool := (r.mask f.km).getLsbD j
    let ins (j : Nat) : List (Fmt × Nat) := (chainGroups f e).map (fun g =>
      match g with
      | some (t, g) => (t, (groupCodes r g).getD j 0)
      | none => (e.prec, 0))
    let res (j : Nat) : Nat × Nat × NumFlags := chainLane e k.subFlush r fo (ins j)
    let ra : Fin 2 := ⟨f.racc.toNat % 2, Nat.mod_lt _ (by decide)⟩
    let vals := (activeLanes (r.mask f.km) n).map (fun j => (res j).1)
    s.cores[c].chains[f.chain.toNat]? = some w → Fmt.ofCode e.fmtO = some fo → f.legal = true →
    (f.nowr = false → GroupRef.legal ⟨f.vd.toNat, fo.width, n⟩ = true) →
    CanIssue s c .v (chainUses f e fo) → Unwatched s c .v →
    ∃ t q fl, exec (.vChain c f) s = .next t ∧ OnlyRegisters c s t
      ∧ t.cores[c] = { (k.begin .v 0x30) with regs := q, flagsStep := k.flagsStep ||| fl, counters := t.cores[c].counters,
                                              ra01 := t.cores[c].ra01 }
      ∧ (f.nowr = true → q = k.regs)
      ∧ (f.nowr = false → LanesWritten k.regs q ⟨f.vd.toNat, fo.width, n⟩
          (fun j => if active j then some ((res j).2.1 % 2 ^ fo.width) else none))
      ∧ (∃ g, FlagsOf n active (fun j => (res j).2.2) g ∧ (f.red = false → fl = g)
          ∧ ∃ h, fl = g ||| (h &&& flagFlush))
      ∧ (f.red = false → t.cores[c].ra01 = k.ra01)
      ∧ (f.red = true → ∀ m : Fin 2, t.cores[c].ra01[m] = if m = ra
          then vals.foldl (fun a v => a.add (e.fp.read k.subFlush v).1) k.ra01[ra] else k.ra01[m])

/-- 05 R127, R128: V.RSUM adds the active lanes to RA0 or RA1 exactly, or to RA2 or RA3 modulo 2^128; V.RRD writes Sd
with the accumulator rounded once or narrowed, and empties it under CLR. -/
def Obligations.VAccumulators : Prop :=
  ∀ (s : State) (c : CoreId) (f : VRForm) (fs : Fmt),
    let k := found s c .v
    let r := operands s c .v
    let lanes := (activeLanes (r.mask f.km) (countOf f.count)).map (fun j => (groupCodes r (vrSource f fs)).getD j 0)
    let ra : Fin 2 := ⟨f.racc.toNat % 2, Nat.mod_lt _ (by decide)⟩
    Fmt.ofCode f.fmt.toNat = some fs → Unwatched s c .v →
    (f.legal 0x38 = true → CanIssue s c .v [groupUse (vrSource f fs)] →
      ∃ t fl, exec (.vRsum c f) s = .next t ∧ OnlyRegisters c s t
        ∧ t.cores[c] = { (k.begin .v 0x38) with ra01 := t.cores[c].ra01, ra23 := t.cores[c].ra23,
                                                flagsStep := k.flagsStep ||| fl }
        ∧ (∀ F, fs.fp = some F → t.cores[c].ra23 = k.ra23 ∧ (∀ m : Fin 2, t.cores[c].ra01[m] =
            if m = ra then lanes.foldl (fun a v => a.add (F.read k.subFlush v).1) k.ra01[ra] else k.ra01[m])
            ∧ fl &&& ~~~ flagFlush = 0)
        ∧ (fs.fp = none → t.cores[c].ra01 = k.ra01 ∧ fl = 0 ∧ (∀ m : Fin 2, t.cores[c].ra23[m] =
            if m = ra then k.ra23[ra] + BitVec.ofInt 128 (lanes.map fs.intVal).sum else k.ra23[m])))
    ∧ (f.legal 0x3B = true → CanIssue s c .v [.s f.vd.toNat] →
      ∃ t q v fl, exec (.vRrd c f) s = .next t ∧ OnlyRegisters c s t
        ∧ t.cores[c] = { k.begin .v 0x3B with regs := q, ra01 := t.cores[c].ra01, ra23 := t.cores[c].ra23,
                                              flagsStep := k.flagsStep ||| fl }
        ∧ q = k.regs.setS f.vd.toNat v
        ∧ (∀ F, fs.fp = some F → v = BitVec.ofNat 64 (k.ra01[ra].result F k.subFlush).1
            ∧ fl = (k.ra01[ra].result F k.subFlush).2 ∧ t.cores[c].ra23 = k.ra23
            ∧ (∀ m : Fin 2, t.cores[c].ra01[m] = if m = ra ∧ f.clr = true then RealAcc.empty else k.ra01[m]))
        ∧ (fs.fp = none → v = scalarOf fs (narrowSum fs f.sat k.ra23[ra].toInt).1
            ∧ fl = (narrowSum fs f.sat k.ra23[ra].toInt).2 ∧ t.cores[c].ra01 = k.ra01
            ∧ (∀ m : Fin 2, t.cores[c].ra23[m] = if m = ra ∧ f.clr = true then 0 else k.ra23[m])))

/-- 05 R129: V.RMIN and V.RMAX write Sd with the least or greatest active lane; int32 is sign-extended. For integer and
ledger lanes the result is a bound that is attained, and with no active lane it is the end of the format's range. -/
def Obligations.VExtremes : Prop :=
  ∀ (s : State) (c : CoreId) (f : VRForm) (fs : Fmt) (big : Bool),
    let k := found s c .v
    let r := operands s c .v
    let op := if big then 0x3A else 0x39
    let lanes := (activeLanes (r.mask f.km) (countOf f.count)).map (fun j => (groupCodes r (vrSource f fs)).getD j 0)
    let v := extreme fs k.subFlush big lanes
    Fmt.ofCode f.fmt.toNat = some fs → f.legal op = true →
    CanIssue s c .v [groupUse (vrSource f fs), .s f.vd.toNat] → Unwatched s c .v →
    (∃ t, exec (if big then .vRmax c f else .vRmin c f) s = .next t
      ∧ StaysOpen s t c .v op (k.regs.setS f.vd.toNat (scalarOf fs v.1)) v.2)
    ∧ (fs.fp = none → lanes = [] → fs.intVal v.1 = if big then -(2 ^ (fs.width - 1)) else 2 ^ (fs.width - 1) - 1)
    ∧ (fs.fp = none → lanes ≠ [] → v.1 ∈ lanes
        ∧ ∀ x ∈ lanes, if big then fs.intVal x ≤ fs.intVal v.1 else fs.intVal v.1 ≤ fs.intVal x)

/-- 05 R130: the tile-axis reductions write lane j of VD with the result of row or column j of the tile. -/
def Obligations.VTileAxes : Prop :=
  ∀ (s : State) (c : CoreId) (f : VRForm) (fs : Fmt),
    let k := found s c .v
    let r := operands s c .v
    let n := countOf f.count
    let active (j : Nat) : Bool := (r.mask f.km).getLsbD j
    ∀ e ∈ ([(Instr.vTrsum c f, 0x3C, fun l => axisSum fs k.subFlush f.sat l),
            (Instr.vTrmin c f, 0x3D, fun l => extreme fs k.subFlush false l),
            (Instr.vTrmax c f, 0x3E, fun l => extreme fs k.subFlush true l)] :
            List (Instr × Nat × (List Nat → Nat × NumFlags))),
      f.legal e.2.1 = true → Fmt.ofCode f.fmt.toNat = some fs →
      CanIssue s c .v [.t f.ta.toNat, groupUse (vrDest f fs)] → Unwatched s c .v →
      let res (j : Nat) : Nat × NumFlags := e.2.2 (tileAxis r.t[f.ta.toFin] fs f.axis j)
      ∃ t q fl, exec e.1 s = .next t ∧ FlagsOf n active (fun j => (res j).2) fl ∧ StaysOpen s t c .v e.2.1 q fl
        ∧ LanesWritten k.regs q (vrDest f fs) (fun j => if active j then some ((res j).1 % 2 ^ fs.width) else none)

/-- 05 R113, R116: V.NOP; V.BCST and V.IOTA fill the active lanes from S[SB]; V.INS writes one lane from it, V.EXT reads
one into Sd zero-extended, and V.KCNT counts the active lanes into Sd. -/
def Obligations.VLaneMoves : Prop :=
  ∀ (s : State) (c : CoreId) (f : VRForm) (fs : Fmt),
    let k := found s c .v
    let r := operands s c .v
    let n := countOf f.count
    let active (j : Nat) : Bool := (r.mask f.km).getLsbD j
    let b := r.getS f.sb.toNat
    (CanIssue s c .v [] → ∃ t, exec (.vNop c) s = .next t ∧ StaysOpen s t c .v 0x00 k.regs 0)
    ∧ (Fmt.ofCode f.fmt.toNat = some fs → Unwatched s c .v →
      (f.legal 0x40 = true → CanIssue s c .v [groupUse (vrDest f fs), .s f.sb.toNat] →
        ∃ t q, exec (.vBcst c f) s = .next t ∧ StaysOpen s t c .v 0x40 q 0
          ∧ LanesWritten k.regs q (vrDest f fs) (fun j => if active j then some (b.toNat % 2 ^ fs.width) else none))
      ∧ (f.legal 0x44 = true → CanIssue s c .v [groupUse (vrDest f fs), .s f.sb.toNat] →
        ∃ t q fl, exec (.vIota c f) s = .next t ∧ StaysOpen s t c .v 0x44 q fl
          ∧ FlagsOf n active (fun j => (intResult fs.width true f.sat (b.toInt + j)).2) fl
          ∧ LanesWritten k.regs q (vrDest f fs)
              (fun j => if active j then some ((intResult fs.width true f.sat (b.toInt + j)).1 % 2 ^ fs.width) else none))
      ∧ (f.legal 0x42 = true → CanIssue s c .v [groupUse (vrDest f fs), .s f.sb.toNat] →
        ∃ t q, exec (.vIns c f) s = .next t ∧ StaysOpen s t c .v 0x42 q 0
          ∧ LanesWritten k.regs q (vrDest f fs) (fun j => if j = f.lane.toNat then some (b.toNat % 2 ^ fs.width) else none))
      ∧ (f.legal 0x41 = true → CanIssue s c .v [groupUse (vrSource f fs), .s f.vd.toNat] →
        ∃ t, exec (.vExt c f) s = .next t ∧ StaysOpen s t c .v 0x41
          (k.regs.setS f.vd.toNat (BitVec.ofNat 64 ((groupCodes r (vrSource f fs)).getD f.lane.toNat 0))) 0)
      ∧ (f.legal 0x43 = true → CanIssue s c .v [.s f.vd.toNat] →
        ∃ t, exec (.vKcnt c f) s = .next t ∧ StaysOpen s t c .v 0x43
          (k.regs.setS f.vd.toNat (BitVec.ofNat 64 ((List.range n).filter active).length)) 0))

/-- 14 R332, R334: an X- or V-slot instruction that sets a flag of a watch's trigger, in a bundle that the watch covers
at a level below double precision, makes the core abandon the step, and the watch is recorded as fired. -/
def Obligations.WatchAbandonsStep : Prop :=
  ∀ (s : State) (c : CoreId) (i : Fin 16) (p : Plan) (r : Regs) (fl : NumFlags) (w : WatchEntry),
    s.cores[c].plan = some i → s.plans[i] = some p → p.teardownCause = none → p.attempt = 0 → Calm s →
    w ∈ p.img.watches → w.cls = p.cls →
    w.planCore = s.cores[c].planCore → w.first ≤ s.cores[c].bundle → s.cores[c].bundle ≤ w.last →
    w.trigger &&& fl ≠ 0 → w.from_ + p.level w.watch < 2 → s.mod.state = .ready →
    let t := raiseFlags s ⟨c, i, p, r⟩ fl
    (∃ cause, t.cores[c].run = .abandoned cause) ∧ t.cores[c].replayVote = true ∧ w.watch ∈ t.cores[c].fired
      ∧ t.cores[c].view = none ∧ t.cores[c].flagsStep = s.cores[c].flagsStep ||| fl

/-! ### The M slot -/

/-- 03 R70-R76: loads into long registers from the core's own SRAM. Each active element's bits of the destination take
the bytes at its address; memory and every other bit of every register stay as they were. -/
def Obligations.MVectorLoads : Prop :=
  ∀ (s : State) (c : CoreId) (f : MVForm) (g : MGForm) (i : Fin 16) (p : Plan),
    let k := found s c .m
    let r := operands s c .m
    ∀ e ∈ ([(Instr.mLdv c f, 0x01, f.legal 0x01, mvUses 0x01 f, f.reg.toNat, mvElems 0x01 f r),
            (Instr.mLdvs c f, 0x02, f.legal 0x02, mvUses 0x02 f, f.reg.toNat, mvElems 0x02 f r),
            (Instr.mLdf c f, 0x05, f.legal 0x05, mvUses 0x05 f, f.reg.toNat, mvElems 0x05 f r),
            (Instr.mGath c g, 0x08, g.legal 0x08, mgUses g, g.vd.toNat, mgElems g r)] :
            List (Instr × Nat × Bool × List RegRef × Nat × List Elem)),
      executing s c = some (i, p) → e.2.2.1 = true → CanIssue s c .m e.2.2.2.1 → MemoryIdle s p c k →
      (∀ x ∈ e.2.2.2.2.2, OwnElem p k false x) →
      ∃ t q, exec e.1 s = .next t ∧ OnlyRegisters c s t
        ∧ t.cores[c] = { (k.begin .m e.2.1) with regs := q, nextId := k.nextId + 1 }
        ∧ Loaded e.2.2.2.2.1 e.2.2.2.2.2 (fun x => leNat (memRead 0 k.sram (x.addr - baseOwn) x.n)) k.regs q

/-- 03 R70, R72, R75: M.LDX writes Sd with the zero-extended element, and M.TLD a tile with 16 KiB, from the core's own
SRAM; memory and every other register stay as they were. -/
def Obligations.MScalarAndTileLoads : Prop :=
  ∀ (s : State) (c : CoreId) (f : MVForm) (i : Fin 16) (p : Plan),
    let k := found s c .m
    let r := operands s c .m
    let a := (r.getA f.ab.toNat + f.offs.signExtend 48).toNat
    executing s c = some (i, p) → MemoryIdle s p c k →
    (f.legal 0x0C = true → CanIssue s c .m [.s f.reg.toNat] → (∀ x ∈ mvElems 0x0C f r, OwnElem p k false x) →
      ∃ t, exec (.mLdx c f) s = .next t ∧ OnlyRegisters c s t
        ∧ t.cores[c] = { k.begin .m 0x0C with
            regs := k.regs.setS f.reg.toNat (BitVec.ofNat 64 (leNat (memRead 0 k.sram (a - baseOwn) (2 ^ f.ew.toNat)))),
            nextId := k.nextId + 1 })
    ∧ (f.legal 0x10 = true → CanIssue s c .m [.t f.reg.toNat] → (∀ x ∈ mvElems 0x10 f r, OwnElem p k false x) →
        ∃ t q, exec (.mTld c f) s = .next t ∧ OnlyRegisters c s t
          ∧ t.cores[c] = { (k.begin .m 0x10) with regs := q, nextId := k.nextId + 1 } ∧ q = { k.regs with t := q.t }
          ∧ ∀ j : Fin 8, q.t[j] = if j.val = f.reg.toNat
              then BitVec.ofNat 131072 (leNat (memRead 0 k.sram (a - baseOwn) 16384)) else k.regs.t[j])

/-- 03 R66: M.LDX of the core control window reads CORE_ID, NUM_CTL, NUM_FLAGS as the work before the bundle left it,
VEC_CTL, WIDEN and the DC registers, and zero at an offset that lists none of them. -/
def Obligations.MControlWindow : Prop :=
  ∀ (s : State) (c : CoreId) (f : MVForm) (i : Fin 16) (p : Plan) (off : Nat),
    let k := found s c .m
    executing s c = some (i, p) → f.legal 0x0C = true → CanIssue s c .m [.s f.reg.toNat] → MemoryIdle s p c k →
    k.issued = [] → ((operands s c .m).getA f.ab.toNat + f.offs.signExtend 48).toNat = baseControl + off →
    off < controlBytes → f.ew.toNat = 3 → off % 8 = 0 →
    p.member < 2 ^ 14 → p.members < 2 ^ 14 → p.img.hdr.planCores < 2 ^ 10 →
    ∃ t v, exec (.mLdx c f) s = .next t ∧ OnlyRegisters c s t
      ∧ t.cores[c] = { k.begin .m 0x0C with regs := k.regs.setS f.reg.toNat v }
      ∧ (off = 0x00 → v.toNat = p.member * 2 ^ 34 + p.members * 2 ^ 20 + k.planCore * 2 ^ 10 + p.img.hdr.planCores)
      ∧ (off = 0x08 → v.toNat = if k.subFlush then 1 else 0)
      ∧ (off = 0x10 → v.toNat = k.openFlags.toNat)
      ∧ (off = 0x18 → v.toNat = k.route.toNat + (if k.plain then 8 else 0) + k.plainBank.toNat * 16)
      ∧ (off = 0xA0 → v = p.widen)
      ∧ (∀ d : Fin 16, off = 0x20 + 8 * d.val → v.toNat = k.dc[d].toNat)
      ∧ (0xA8 ≤ off → v = 0)

/-- 03 R70-R76: stores to the core's own SRAM. Every byte reads as the last element of the instruction that covers it
gave it, in increasing lane order, and every byte that no element covers reads as before; no register changes. -/
def Obligations.MStores : Prop :=
  ∀ (s : State) (c : CoreId) (f : MVForm) (g : MGForm) (i : Fin 16) (p : Plan),
    let k := found s c .m
    let r := operands s c .m
    ∀ e ∈ ([(Instr.mStv c f, 0x03, f.legal 0x03, mvUses 0x03 f, mvElems 0x03 f r),
            (Instr.mStvs c f, 0x04, f.legal 0x04, mvUses 0x04 f, mvElems 0x04 f r),
            (Instr.mStf c f, 0x06, f.legal 0x06, mvUses 0x06 f, mvElems 0x06 f r),
            (Instr.mScat c g, 0x09, g.legal 0x09, mgUses g, mgElems g r),
            (Instr.mStx c f, 0x0D, f.legal 0x0D, mvUses 0x0D f, mvElems 0x0D f r),
            (Instr.mFlagl c f, 0x0E, f.legal 0x0E, mvUses 0x0E f, mvElems 0x0E f r),
            (Instr.mTst c f, 0x11, f.legal 0x11, mvUses 0x11 f, mvElems 0x11 f r)] :
            List (Instr × Nat × Bool × List RegRef × List Elem)),
      executing s c = some (i, p) → e.2.2.1 = true → CanIssue s c .m e.2.2.2.1 → MemoryIdle s p c k →
      (∀ x ∈ e.2.2.2.2, OwnElem p k true x) →
      ∃ t, exec e.1 s = .next t
        ∧ t = { s with cores := t.cores, plans := t.plans } ∧ (∀ d : CoreId, d ≠ c → t.cores[d] = s.cores[d])
        ∧ t.cores[c] = { (k.begin .m e.2.1) with sram := t.cores[c].sram, sramBad := t.cores[c].sramBad, nextId := k.nextId + 1 }
        ∧ (∃ y, t.plans = s.plans.set i (some { p with tallies := y }))
        ∧ ∀ a, memGet 0 t.cores[c].sram a = storedByte e.2.2.2.2 (a + baseOwn) (memGet 0 k.sram a)

/-- 03 R73, R76: M.SCADD and M.SCADDU add each active lane to its target with one rounding and set the flags of the
additions; where no two targets overlap the order of the lanes does not matter. -/
def Obligations.MScatterAdds : Prop :=
  ∀ (s : State) (c : CoreId) (f : MGForm) (i : Fin 16) (p : Plan),
    let k := found s c .m
    let elems := mgElems f (operands s c .m)
    let sum (e : Elem) : Nat × NumFlags :=
      let old := leNat (memRead 0 k.sram (e.addr - baseOwn) e.n)
      if f.ew = 3 then fmtB64.add k.subFlush old e.data else fmtB32.add k.subFlush old e.data
    ∀ e ∈ ([(Instr.mScadd c f, 0x0A), (Instr.mScaddu c f, 0x0B)] : List (Instr × Nat)),
      executing s c = some (i, p) → f.legal e.2 = true → CanIssue s c .m (mgUses f) → MemoryIdle s p c k →
      (∀ x ∈ elems, OwnElem p k true x) → elems.Pairwise (fun x y => x.addr + x.n ≤ y.addr ∨ y.addr + y.n ≤ x.addr) →
      ∃ t fl, exec e.1 s = .next t
        ∧ t = { s with cores := t.cores, plans := t.plans, free := t.free }
        ∧ (∀ d : CoreId, d ≠ c → t.cores[d] = s.cores[d])
        ∧ t.cores[c] = { (k.begin .m e.2) with sram := t.cores[c].sram, sramBad := t.cores[c].sramBad, nextId := k.nextId + 1,
                                               flagsStep := k.flagsStep ||| fl }
        ∧ FlagsOf elems.length (fun _ => true) (fun j => match elems[j]? with | some x => (sum x).2 | none => 0) fl
        ∧ (∃ y, t.plans = s.plans.set i (some { p with tallies := y }))
        ∧ ∀ a, memGet 0 t.cores[c].sram a =
            storedByte (elems.map (fun x => { x with data := (sum x).1 })) (a + baseOwn) (memGet 0 k.sram a)

/-- 03 R73, R75, R84; 11 R261: M.NOP, M.FENCE with no far operation without a reply and M.LFENCE with every earlier
local store applied change nothing but their bundle; M.COPY is then outstanding. -/
def Obligations.MFencesAndCopies : Prop :=
  ∀ (s : State) (c : CoreId) (f : MVForm),
    let k := found s c .m
    let r := operands s c .m
    CanIssue s c .m [] →
    (∃ t, exec (.mNop c) s = .next t ∧ StaysOpen s t c .m 0x00 k.regs 0)
    ∧ (k.far = [] → ∃ t, exec (.mFence c) s = .next t ∧ StaysOpen s t c .m 0x1C k.regs 0)
    ∧ (k.far ≠ [] → exec (.mFence c) s = .next s)
    ∧ (k.moves = [] → k.copies = [] → ∃ t, exec (.mLfence c) s = .next t ∧ StaysOpen s t c .m 0x1F k.regs 0)
    ∧ (f.legal 0x14 = true → k.requests < 256 →
        ∃ t, exec (.mCopy c f) s = .next t ∧ OnlyRegisters c s t
          ∧ t.cores[c] = { (k.begin .m 0x14) with
              nextId := k.nextId + 1,
              copies := k.copies ++ [⟨k.nextId, (r.getA f.ab.toNat + f.offs.signExtend 48).toNat,
                (r.getA f.reg.toNat).toNat, f.count.toNat + 1, f.ast.toFin, k.bundle, f.reg.toNat⟩] })

/-- 03 R74; 11 R255-R262: a far operation takes the next sequence number, carries its handle's place, job and key and
the 42-bit address A[AB] + OFFS, and leaves as one request; a module with no earlier far operation holds nothing back. -/
def Obligations.MFarOperations : Prop :=
  ∀ (s : State) (c : CoreId) (f : MFForm) (i : Fin 16) (p : Plan) (h : FarHandle),
    let k := found s c .m
    let r := operands s c .m
    let word (n : Nat) : Bytes := leBytes 8 (r.getS n).toNat
    ∀ e ∈ ([(Instr.mFld c f, 0x18, [RegRef.v f.reg.toNat 1], f.len.toNat + 1, []),
            (Instr.mFst c f, 0x19, [RegRef.v f.reg.toNat 1], f.len.toNat + 1,
              leBytes (f.len.toNat + 1) (r.v.getD f.reg.toNat 0).toNat),
            (Instr.mFatom c f, 0x1A,
              [RegRef.s f.reg.toNat, .s f.sb.toNat] ++ (if f.aop = 4 then [.s (f.sb.toNat + 1)] else []),
              if f.typ = 2 then 16 else 8,
              if f.aop = 4 then word f.sb.toNat ++ word (f.sb.toNat + 1) else word f.sb.toNat),
            (Instr.mFflag c f, 0x1B, [RegRef.s f.reg.toNat], 8, word f.reg.toNat)] :
            List (Instr × Nat × List RegRef × Nat × Bytes)),
      executing s c = some (i, p) → f.legal e.2.1 = true → CanIssue s c .m e.2.2.1 → MemoryIdle s p c k →
      k.fh[f.fh.toFin] = h → (r.getA f.ab.toNat + f.offs.signExtend 48).toNat < 2 ^ 42 →
      ∃ t o, exec e.1 s = .next t ∧ t = { s with cores := t.cores, out := t.out } ∧ SameMemory s t
        ∧ (∀ d : CoreId, d ≠ c → t.cores[d] = s.cores[d])
        ∧ t.cores[c] = { (k.begin .m e.2.1) with nextId := k.nextId + 1, nextSeq := k.nextSeq + 1, far := [o],
                                                 counters := t.cores[c].counters }
        ∧ o.seq = k.nextSeq ∧ o.op = e.2.1 ∧ o.place = h.place ∧ o.job = h.job ∧ o.key = h.key
        ∧ o.addr = (r.getA f.ab.toNat + f.offs.signExtend 48).toNat ∧ o.len = e.2.2.2.1 ∧ o.data = e.2.2.2.2
        ∧ o.issued = some s.bell
        ∧ t.out = s.out ++ [.farRequest h.place h.job.toNat k.planCore o s.bell]

/-- 03 R73, R75, R84: MOVE_COMPLETE of an outstanding load whose elements read well writes its registers, counts its HBM
lines (18 event catalogue, notes/assumptions/25.md) and ends it. COPY_COMPLETE of a copy between two ranges of the core's own
SRAM that do not overlap writes the source's bytes to the destination, leaves every other byte, and adds 1 to its DC
register. -/
def Obligations.MovesAndCopiesComplete : Prop :=
  (∀ (s : State) (c : CoreId) (i : Fin 16) (p : Plan) (m : Move) (value : Elem → Bytes),
    let k := s.cores[c]
    serving s = true → k.plan = some i → s.plans[i] = some p → k.moves = [m] → k.copies = [] → k.far = [] →
    m.op ∈ [0x01, 0x02, 0x05, 0x08] → k.view = none →
    (∀ e ∈ m.elems, e.addr % e.n = 0 ∧ 8 * e.n ≤ 8192 - e.dst % 8192 ∧ m.reg + e.dst / 8192 < 64
      ∧ planRead s i (canonAddr k.planCore e.addr) e.n = .ok (value e) ∧ (value e).length = e.n) →
    m.elems.Pairwise (fun x y => x.dst + 8 * x.n ≤ y.dst) →
    ∃ t q, exec (.moveComplete c m.id [] []) s = .next t ∧ OnlyRegisters c s t
      ∧ t.cores[c] = { k.countLines (m.elems.map (fun e => canonAddr k.planCore e.addr)) [] with moves := [], regs := q }
      ∧ Loaded m.reg m.elems (fun e => leNat (value e)) k.regs q)
  ∧ (∀ (s : State) (c : CoreId) (i : Fin 16) (p : Plan) (d : CopyOp),
    let k := s.cores[c]
    serving s = true → k.plan = some i → s.plans[i] = some p → k.copies = [d] → k.moves = [] → k.far = [] →
    k.sramBad = [] → memWf 0 k.sram = true → planCorePhys s p k.planCore = some c → k.planCore < 512 →
    (∃ e, p.img.cores[k.planCore]? = some e ∧ baseOwn + e.program.length ≤ d.src ∧ baseOwn + e.program.length ≤ d.dst
      ∧ (d.dst + 64 * d.blocks ≤ baseOwn + e.roOffset ∨ baseOwn + e.roOffset + e.ro.length ≤ d.dst)) →
    d.src % 64 = 0 → d.dst % 64 = 0 → d.src + 64 * d.blocks ≤ baseOwn + sramBytes →
    d.dst + 64 * d.blocks ≤ baseOwn + sramBytes →
    (d.src + 64 * d.blocks ≤ d.dst ∨ d.dst + 64 * d.blocks ≤ d.src) →
    ∃ t, exec (.copyComplete c d.id [] []) s = .next t
      ∧ t = { s with cores := t.cores, plans := t.plans } ∧ (∀ e : CoreId, e ≠ c → t.cores[e] = s.cores[e])
      ∧ t.cores[c] = { k with copies := [], dc := k.dc.set d.dc (k.dc[d.dc] + 1), sram := t.cores[c].sram }
      ∧ ∀ a, memGet 0 t.cores[c].sram a =
          if d.dst ≤ a + baseOwn ∧ a + baseOwn < d.dst + 64 * d.blocks
          then memGet 0 k.sram (a + d.src - d.dst) else memGet 0 k.sram a)

/-- 03 R79, R80, R82: RUNAHEAD_LOAD changes the address side, the core's count of lines read and what the memories report
of their errors alone: no register, flag or byte of memory that the execute side reads. A load from own SRAM in a bundle
that does not wait is issued early and held, and when its bundle issues it writes its register from what is held. -/
def Obligations.RunAheadOnlyAddressSide : Prop :=
  (∀ (s : State) (c : CoreId) (reads : ReadOutcome), ∃ t, exec (.runaheadLoad (c, reads)) s = .next t
    ∧ SameMemory s t ∧ t.plans = s.plans ∧ t.out = s.out
    ∧ (∀ d : CoreId, t.cores[d] = { s.cores[d] with
        ahead := if d = c then t.cores[c].ahead else s.cores[d].ahead,
        counters := if d = c then t.cores[c].counters else s.cores[d].counters,
        sramBad := t.cores[d].sramBad, sramCorrected := t.cores[d].sramCorrected })
    ∧ (reads.corrected = [] → reads.lost = [] →
        OnlyRegisters c s t ∧ ∃ l, t.cores[c] = { s.cores[c].countLines l [] with ahead := t.cores[c].ahead }))
  ∧ (∀ (s : State) (c : CoreId) (f : MVForm) (i : Fin 16) (p : Plan),
    let k := s.cores[c]
    let elems := mvElems 0x01 f k.regs
    k.plan = some i → s.plans[i] = some p → k.run = .running → p.teardownCause = none → usable s.coreMap[c] = true →
    serving s = true → MemoryIdle s p c k → k.slotM = false → anyBad k.sramBad 8 (32 * k.bundle) 32 = false →
    decodeSlot .c c (k.slotWord .c) = some (.cNop c) → decodeSlot .m c (k.slotWord .m) = some (.mLdv c f) → f.km = 0 →
    f.ab.toNat ∉ k.fromS → (∀ x ∈ elems, OwnElem p k false x) →
    ∃ t, exec (.runaheadLoad (c, ⟨[], []⟩)) s = .next t
      ∧ t.cores[c].ahead.buffer =
          [⟨k.closed, 0x01, f, elems.map (fun x => leNat (memRead 0 k.sram (x.addr - baseOwn) x.n)), none⟩])
  ∧ (∀ (s : State) (c : CoreId) (f : MVForm) (a : Ahead),
    let k := found s c .m
    let elems := mvElems 0x01 f (operands s c .m)
    f.legal 0x01 = true → CanIssue s c .m (mvUses 0x01 f) → k.ahead.buffer = [a] → a.pos = k.closed → a.op = 0x01 →
    a.form = f → a.fault = none → a.data.length = elems.length → k.openId ≤ k.nextId →
    ∃ t, exec (.mLdv c f) s = .next t ∧ OnlyRegisters c s t
      ∧ t.cores[c] = { (k.begin .m 0x01) with
          regs := loadRegs 0x01 f.reg.toNat (elems.zip a.data) k.regs, ahead := { k.ahead with buffer := [] } })
/-! ### The host link -/

/-- 17 R386, R390-R394; 15 R353, R359; 18 R406; 14 R330: the requests that read. Each gets one reply with STATUS 0 and
what it asks for, where its role may ask; nothing else of the module changes but what taking the frame and the reply
change. -/
def Obligations.HostReads : Prop :=
  ∀ (s : State) (h : HostHdr) (k : Session), Asks s h k → Calm s →
    (∃ t, exec (.heartbeat h) s = .next t ∧ Served s t h 0x01 0 [])
    ∧ (∀ block inst n v, statusBlock s block inst = some (n, v) →
        ∃ t, exec (.readStatus h block inst) s = .next t
          ∧ (roleReads s k block = true → Served s t h 0x20 0 (leBytes n v))
          ∧ (roleReads s k block = false → Served s t h 0x20 0x2002 []))
    ∧ (∀ first r, s.host.attn.findIdx? (fun e => e.seq == first % 256) = some r →
        ∃ t, exec (.attnRead h first) s = .next t
          ∧ Served s t h 0x21 0 (leBytes 1 0 ++ (s.host.attn.drop r).flatMap (AttnRec.bytes k.role)))
    ∧ (∀ first count, k.role ≠ 1 → k.role ≤ 2 → ∃ t, exec (.journalRead h first count) s = .next t
        ∧ Served s t h 0x23 0 (journalExport s first count))
    ∧ (k.role = 0 → ∃ t, exec (.telemetry h) s = .next t ∧ Served s t h 0x2D 0 (telemetry s))
    ∧ (∀ hist plan first count, k.role = 0 → historyOf s hist plan ≠ [] → 1 ≤ count → count ≤ 4096 →
        ∃ t, exec (.tallyRead h hist plan first count) s = .next t
          ∧ Served s t h 0x2E 0 ((((historyOf s hist plan).drop first).take count).flatMap (fun e => leBytes 32 e.word)))

/-- 15 R343, R351-R353, R358, R359; 16 R370: the requests that set, each refused with 0x2002 to a role that may not ask.
EXTEND extends one of MEAS12 to MEAS15 and names no other register; SET_CAP takes a cap within the band and refuses any
other with 0x2006; a quote and a checkpoint are objects of the module's own, laid out as R343 says, and are journaled;
JOURNAL_ACK frees every record up to its index, and ends a restart that waits for its record. -/
def Obligations.HostSets : Prop :=
  (∀ (s : State) (h : HostHdr) (k : Session), Asks s h k → Calm s →
    (∀ w, ∃ t, exec (.setCap h w) s = .next t
      ∧ (k.role = 0 → capMin s ≤ w → w ≤ capMax s → Served { s with adm := { s.adm with capW := w } } t h 0x27 0 [])
      ∧ (k.role = 0 → w < capMin s ∨ capMax s < w → Served s t h 0x27 0x2006 [])
      ∧ (k.role ≠ 0 → Served s t h 0x27 0x2002 []))
    ∧ (∀ n digest, ∃ t, exec (.extend h n digest) s = .next t
        ∧ (k.role = 0 → 12 ≤ n → ∀ r : Fin 16, r.val = n →
            Served (journalRaw { s with meas := s.meas.set r (sha512 (s.meas[r] ++ digest)) } 0x070B 0 0 0xFF
              (leBytes 1 n ++ digest.take 64)) t h 0x26 0 [])
        ∧ (k.role = 0 → n < 12 ∨ 16 ≤ n → Served s t h 0x26 0x2007 [])
        ∧ (k.role ≠ 0 → Served s t h 0x26 0x2002 []))
    ∧ (∀ nonce mask, ∃ t, exec (.quote h nonce mask) s = .next t
        ∧ Served (journalRaw { s with free := s.free + 1 } 0x070C 0 0 0xFF (leBytes 2 h.session ++ leBytes 2 mask.toNat)) t h 0x22 0
            (moduleObject s 7 (quoteBody s nonce mask.toNat) s.free))
    ∧ (∃ t, exec (.checkpoint h) s = .next t
        ∧ (k.role = 0 ∨ k.role = 2 → Served (journalRaw { s with
              free := s.free + 1,
              journal := { s.journal with
                checkpoints := s.journal.checkpoints ++ [⟨lastIndex s, s.bell, s.journal.chain, s.free⟩] } }
            0x0702 0 0 0xFF (leBytes 8 (lastIndex s))) t h 0x25 0
            (moduleObject s 8 (leBytes 4 s.mod.startCount ++ leBytes 4 0 ++ leBytes 8 (lastIndex s) ++ s.journal.chain
              ++ leBytes 8 s.bell) s.free))
        ∧ (¬ (k.role = 0 ∨ k.role = 2) → Served s t h 0x25 0x2002 []))
    ∧ (∀ index, let freed : State := { s with journal := { s.journal with
          records := s.journal.records.filter (fun r => index < r.index),
          checkpoints := s.journal.checkpoints.filter (fun r => index < r.index) } }
        ∃ t, exec (.journalAck h index) s = .next t
          ∧ (mayAck s k = true → (∀ d n b, s.draining = some d → d.shutdown = some (n, b) → index < n) →
              Served freed t h 0x24 0 [])
          ∧ (mayAck s k = true → ∀ d n b, s.draining = some d → d.shutdown = some (n, b) → n ≤ index →
              ∃ u, Served freed u h 0x24 0 [] ∧ t = beginAgain u false)
          ∧ (mayAck s k = false → Served s t h 0x24 0x2002 [])))
  ∧ (∀ (s : State) (type salt : Nat) (body : Bytes), type < 2 ^ 16 → body.length < 2 ^ 32 →
      let o := moduleObject s type body salt
      leNat (o.take 4) = 0x53474E4F ∧ leNat ((o.drop 6).take 2) = 1 ∧ leNat ((o.drop 8).take 2) = type
        ∧ leNat ((o.drop 11).take 1) = 5 ∧ leNat ((o.drop 12).take 4) = body.length
        ∧ leNat ((o.drop 16).take 8) = s.fuses.identityDigest % 2 ^ 64 ∧ leNat ((o.drop 24).take 8) = 0
        ∧ (o.drop 32).take 520 = keyBlockOf Config.identityKey ∧ (o.drop 552).take body.length = body)

/-- 15 R347; 17 R383, R384, R394: a handshake with a known principal opens a session at the lowest free id; CLOSE and
1,000,000 idle bells close one; the link's loss closes all; and a link that trains in service sends RING_CREDITS. -/
def Obligations.HostSessions : Prop :=
  ∀ (s : State), Calm s →
    (∀ tag role keyBlock np pr, s.host.up = true → serving s = true → s.fuses.keysErased = false →
      principalOf s role (digestOf keyBlock) = some pr →
      ∃ t w nm, exec (.hello tag role keyBlock np) s = .next t ∧ w % 2 ^ 16 = 0 ∧ nm.length = 32
        ∧ Noted { s with
            free := s.free + 1,
            out := s.out ++ [.host 0 0x82 tag w (Config.identityCert ++ transportCert s ++ nm)],
            host := { s.host with
                      lastBell := s.bell,
                      shakes := s.host.shakes.filter (fun k => k.tag != tag) ++ [⟨tag, role, keyBlock, np, nm⟩] } } t)
    ∧ (∀ tag cipher sig k, s.host.up = true → serving s = true → s.fuses.keysErased = false →
        s.host.shakes.find? (fun k => k.tag == tag) = some k →
        let d := digestOf k.keyBlock
        let secret := oaepDecrypt (Config.transportKey s.mod.startCount).1 (Config.transportPrivate s.mod.startCount) cipher
        let signed := rsaVerify k.keyBlock
          (sha512 (k.np ++ k.nm ++ cipher ++ leBytes 64 (transportDigest s.mod.startCount))) sig
        let others := s.host.shakes.filter (fun k => k.tag != tag)
        ∃ t, exec (.keyExchange tag cipher sig) s = .next t
          ∧ (∀ pr z, principalOf s k.role d = some pr → secret = some z → s.host.sessions.length < 64 → signed = true →
              ∃ n, 1 ≤ n.id ∧ findSession s n.id = none ∧ (∀ m, 1 ≤ m → m < n.id → (findSession s m).isSome = true)
                ∧ n.role = k.role ∧ n.principal = pr ∧ n.digest = d ∧ n.transfer = none
                ∧ Served (journalRaw { s with host := { s.host with sessions := s.host.sessions ++ [n], shakes := others } }
                    0x0704 0 0 0xFF (leBytes 2 n.id ++ leBytes 1 k.role ++ leBytes 64 d)) t ⟨n.id, tag, true⟩ 0x03 0 [])
          ∧ (principalOf s k.role d = none ∨ secret = none ∨ 64 ≤ s.host.sessions.length ∨ signed = false →
              ∃ reason w, w % 2 ^ 16 = 0x2005
                ∧ Noted { journalRaw { s with host := { s.host with lastBell := s.bell, shakes := others } } 0x0705 0 0 0xFF
                      (leBytes 1 k.role ++ leBytes 64 d ++ leBytes 1 reason) with
                    out := s.out ++ [.host 0 0x83 tag w []] } t))
    ∧ (∀ h k, Asks s h k → k.transfer = none →
        ∃ t w, exec (.closeSession h) s = .next t ∧ w % 2 ^ 16 = 0
          ∧ Noted (journalRaw { s with
              out := s.out ++ [.host h.session 0x84 h.tag w []],
              host := { s.host with
                lastBell := s.bell, sessions := s.host.sessions.filter (fun n => n.id != h.session) } }
              0x0706 0 0 0xFF (leBytes 2 h.session ++ leBytes 1 1)) t)
    ∧ (∀ id k, findSession s id = some k → k.transfer = none → k.lastBell + 1000000 ≤ s.bell →
        ∃ t, exec (.sessionIdleTimeout id) s = .next t
          ∧ Noted (journalRaw { s with host := { s.host with sessions := s.host.sessions.filter (fun n => n.id != id) } }
              0x0706 0 0 0xFF (leBytes 2 id ++ leBytes 1 3)) t)
    ∧ (s.host.up = false → serving s = true → s.mod.startStep = 10 →
        ∃ t w, exec (.hostLinkTrain 0xFF) s = .next t ∧ w % 2 ^ 16 = 0
          ∧ t = { s with
              host := { s.host with up := true, lastBell := s.bell, attnCode := 0 },
              out := s.out ++ [.host 0 0x05 0 w
                           ((mappedRings s).flatMap (fun n => leBytes 2 n ++ leBytes 2 (ringCredits s n)))] })
    ∧ (∀ seen, s.host.up = true → (seen = true ∨ s.host.lastBell + 100000 ≤ s.bell) → s.host.sessions.length ≤ 64 →
        (∀ k ∈ s.host.sessions, k.transfer = none) →
        ∃ t, exec (.hostLinkDown seen) s = .next t ∧ OnlyReports s t ∧ t.host.up = false ∧ t.host.sessions = []
          ∧ t.host.shakes = [] ∧ t.out = s.out)

/-- 17 R389; 16 R365, R378; 01 R27: a bulk transfer begins, takes its data without a reply, and ends by writing its flash
region; UNLOAD drains a plan, and the drain's end frees all that the plan held; an orderly restart drains every plan and
ends with the SHUTDOWN record, whose acknowledgement may fail to come. -/
def Obligations.TransfersAndRestarts : Prop :=
  ∀ (s : State), Calm s →
    (∀ h k target device region total, Asks s h k → k.role = 0 → k.transfer = none →
      (target = 3 ∧ device < 2 ∧ region ∈ [1, 2, 3, 4, 7, 8] ∧ total ≤ regionSize region) ∨ target = 2
        ∨ (target = 1 ∧ total ≤ freeHbmBytes s) →
      ∃ t, exec (.bulkBegin h target device region total) s = .next t
        ∧ Served (setTransfer s h.session (some (Transfer.start target device region total))) t h 0x11 0 [])
    ∧ (∀ h k x off data, Asks s h k → k.role = 0 → k.transfer = some x → x.target ≠ 2 → x.failed = none →
        data.length ≤ 4088 → off + data.length ≤ x.total →
        ∃ t, exec (.bulkData h off data) s = .next t
          ∧ Noted (setTransfer (taken s h.session) h.session (some { x with
              data := memWrite 0 x.data off data, got := if data = [] then x.got else x.got ++ [(off, data.length)] })) t)
    ∧ (∀ h k x (d : Fin 2), Asks s h k → k.role = 0 → k.transfer = some x → x.target = 3 → x.failed = none →
        x.device = d.val → x.whole = true → typeFits x.region x.bytes = true →
        ∃ t, exec (.bulkEnd h) s = .next t
          ∧ Served (flashWrite (setTransfer s h.session none) d (regionBase x.region) x.bytes) t h 0x13 0 [])
    ∧ (∀ h k (i : Fin 16) p, Asks s h k → k.role = 0 → s.plans[i] = some p → p.draining = false →
        (∀ r ∈ p.requests, r.slot.isSome = true) →
        ∃ t, exec (.unload h i) s = .next t
          ∧ Served { s with plans := s.plans.set i (some { p with draining := true }) } t h 0x14 0 [])
    ∧ (∀ (i : Fin 16) p, s.plans[i] = some p → p.draining = true → p.requests = [] → p.teardownCause = none →
        (∀ r ∈ p.runs, r.ended = true ∧ r.endBell ≤ s.bell) →
        ∃ t, exec (.planDrainEnd i) s = .next t
          ∧ t.plans = s.plans.set i none
          ∧ (∀ c : CoreId, t.cores[c].plan = if s.cores[c].plan = some i then none else s.cores[c].plan)
          ∧ (∀ n : Fin 32, t.carts[n].plan ≠ some i ∧ t.recks[n].plan ≠ some i)
          ∧ (∀ b : Fin 512, t.bins[b].holder ≠ some i) ∧ (∀ q : Fin 64, t.seqSlots[q].plan ≠ some i) ∧ SameMemory s t)
    ∧ (∀ h k, Asks s h k → k.role = 0 → s.draining = none → (∀ (i : Fin 16), s.plans[i] = none) → s.reeve.role ≠ 1 →
        ∃ t, exec (.restart h) s = .next t
          ∧ Served { s with mod := { s.mod with state := .draining }, draining := some ⟨h.session, s.bell, none⟩ } t h 0x28 0 [])
    ∧ (∀ d, s.draining = some d → d.shutdown = none → (∀ (i : Fin 16), s.plans[i] = none) → serving s = true →
        ∃ t u, exec .restartDrainEnd s = .next t
          ∧ u = journalRaw s 0x0107 0 0 0xFF (leBytes 1 1 ++ leBytes 2 d.session ++ leBytes 4 0)
          ∧ Noted { u with draining := some { d with shutdown := some (lastIndex u, s.bell) } } t)
    ∧ (∀ d n b, s.draining = some d → d.shutdown = some (n, b) → b + 10000000000 ≤ s.bell →
        exec .shutdownAckTimeout s = .next (beginAgain s false))

/-- 18 R397-R405: counters, top-down values and bandwidth windows. SELECT chooses a counter's event and zeroes it, CLEAR
zeroes its value and overflow mark, a freeze latches every counter at its bell, and the window of a new length begins at
its next boundary. The counts that the model does not follow are free (notes/assumptions/25.md). -/
def Obligations.CountersAndWindows : Prop :=
  ∀ (s : State), Calm s →
    (∀ h k, Asks s h k → k.role = 0 → (∀ f, s.counting.freeze = some f → s.bell < f) →
      (∀ kind inst ctr event en r, counterRef kind inst ctr = some r → event ∈ eventsOf kind →
        ∃ t, exec (.counterSelect h kind inst ctr event en) s = .next t
          ∧ Served (setCounter s r ⟨BitVec.ofNat 12 event, en, false, 0⟩) t h 0x2C 0 []
          ∧ (event ≠ 0x405 → getCounter t r = ⟨BitVec.ofNat 12 event, en, false, 0⟩))
      ∧ (∀ kind inst ctr event en, counterRef kind inst ctr = none →
          ∃ t, exec (.counterSelect h kind inst ctr event en) s = .next t ∧ Served s t h 0x2C 0x301B [])
      ∧ (∀ (sels : List (Nat × Nat × Nat)) (rs : List CounterRef), sels.map (fun e => counterRef e.1 e.2.1 e.2.2) = rs.map some → 1 ≤ rs.length → rs.length ≤ 64 →
          ∃ t b, exec (.counterRead h sels) s = .next t ∧ Served s t h 0x2C 0 b ∧ b.length = 16 * rs.length
            ∧ ∀ n r, rs[n]? = some r → (getCounter s r).enabled = false →
                leNat ((b.drop (16 * n)).take 8)
                  = ((getCounter s r).value.toNat == 2 ^ 48 - 1).toNat * 2 ^ 63 + (getCounter s r).event.toNat * 2 ^ 48
                    + (getCounter s r).value.toNat
                ∧ leNat ((b.drop (16 * n + 8)).take 8) = s.bell % 2 ^ 64)
      ∧ (∀ kind inst ctr r, counterRef kind inst ctr = some r → ∃ t, exec (.counterClear h kind inst ctr) s = .next t
          ∧ Served (setCounter s r { getCounter s r with value := 0, ovf := false }) t h 0x2C 0 [])
      ∧ (∀ c : CoreId, ∃ t, exec (.counterClear h 1 c 8) s = .next t
          ∧ Served (s.modCore c (fun k => { k with topDown := ⟨0, 0, 0, 0, 0⟩ })) t h 0x2C 0 [])
      ∧ (∀ f, s.counting.freeze = none → s.bell + 100000 ≤ f → f ≤ s.bell + 1000000000 →
          ∃ t, exec (.freeze h f) s = .next t
            ∧ Served { s with counting := { s.counting with freeze := some f } } t h 0x2C 0 [])
      ∧ (∀ f l first count, s.counting.snapshot = some (f, l) → 1 ≤ count → count ≤ 255 → first + count ≤ l.length →
          ∃ t, exec (.snapshotRead h first count) s = .next t
            ∧ Served s t h 0x2C 0 (leBytes 8 f ++ ((l.drop first).take count).flatMap (fun e => leBytes 8 e.toNat)))
      ∧ (∀ w, 1000 ≤ w → w ≤ 1000000000 → ∃ t, exec (.bwWindow h w) s = .next t
          ∧ Served { s with counting := { s.counting with bwNext := some (w, s.bell / w + 1) } } t h 0x2C 0 [])
      ∧ (∀ (p : Fin 32), ∃ t, exec (.bwRead h 3 p 1) s = .next t
          ∧ Served s t h 0x2C 0 (leBytes 8 s.ports[p].bwLast.1 ++ leBytes 8 s.ports[p].bwLast.2.1
              ++ leBytes 8 s.ports[p].bwLast.2.2))
      ∧ (∀ (c : CoreId), ∃ t x y, exec (.topdownRead h c 1) s = .next t
          ∧ Served s t h 0x2C 0 (leBytes 8 s.cores[c].topDown.kept.toNat ++ leBytes 8 s.cores[c].topDown.spilt.toNat
              ++ leBytes 8 x ++ leBytes 8 y ++ leBytes 8 s.bell)))
    ∧ (∀ f, serving s = true → s.counting.freeze = some f → f ≤ s.bell →
        ∃ t, ∃ l : List (BitVec 64), exec .freezeLatch s = .next t ∧ l.length = 8096
          ∧ Noted { s with
                free := s.free + 8000, counting := { s.counting with freeze := none, snapshot := some (f, l) } } t
          ∧ ∀ (c : CoreId) (j : Fin 8), s.cores[c].counters[j].enabled = false →
              l[8 * c.val + j.val]? = some (s.cores[c].counters[j].entry 0))
    ∧ (∀ w n, serving s = true → s.counting.bwNext = some (w, n) → w * n ≤ s.bell →
        s.bell < (s.counting.bwNumber + 1) * s.counting.bwWindow →
        ∃ t, exec .bwWindowBoundary s = .next t
          ∧ Noted { s with
              ports := s.ports.map (fun p => { p with bwTx := 0, bwRx := 0 }),
              counting := { s.counting with bwWindow := w, bwNext := none, bwNumber := s.bell / w } } t)

/-- 18 R399: a counter counts the events that it selects until it reaches 2^48 - 1, where it stays with OVF set and reads
as all ones; selecting it again and clearing it set its value and OVF to zero, and reading it changes no counter. -/
def Obligations.CountersStick : Prop :=
  (∀ (k : Counter) (n : Nat), k.enabled = true → k.ovf = false → k.value.toNat < 2 ^ 48 - 1 →
    (k.value.toNat + n < 2 ^ 48 - 1 → (k.count k.event.toNat n).value.toNat = k.value.toNat + n
      ∧ (k.count k.event.toNat n).ovf = false)
    ∧ (2 ^ 48 - 1 ≤ k.value.toNat + n → (k.count k.event.toNat n).value = BitVec.allOnes 48
      ∧ (k.count k.event.toNat n).ovf = true))
  ∧ (∀ (k : Counter) (event n : Nat), k.ovf = true → k.count event n = k)
  ∧ (∀ (k : Counter) (f : Nat), k.ovf = true → k.value = BitVec.allOnes 48 → k.event.toNat ∉ untracked →
      ((k.entry f).extractLsb' 0 48).toNat = 0xFFFFFFFFFFFF ∧ (k.entry f).getLsbD 63 = true)
  ∧ (∀ (s : State) (h : HostHdr) (a : Session) (kind inst ctr event : Nat) (en : Bool) (r : CounterRef),
      Asks s h a → a.role = 0 → Calm s → s.counting.freeze = none → counterRef kind inst ctr = some r →
      event ∈ eventsOf kind → event ≠ 0x405 → (getCounter s r).event.toNat ≠ 0x405 →
      (∃ t, exec (.counterSelect h kind inst ctr event en) s = .next t ∧ (getCounter t r).value = 0
        ∧ (getCounter t r).ovf = false)
      ∧ (∃ t, exec (.counterClear h kind inst ctr) s = .next t ∧ (getCounter t r).value = 0 ∧ (getCounter t r).ovf = false)
      ∧ (∃ t, exec (.counterRead h [(kind, inst, ctr)]) s = .next t ∧ getCounter t r = getCounter s r))

/-- 18 R407, R408; 16 R370, R378; 15 R346: the management port. A message with a good PEC gets one reply of a status and
its content; a bad one, and a module without control rails, none. -/
def Obligations.ManagementPort : Prop :=
  ∀ (s : State), Calm s → s.power.inputOk = true → s.power.rails[14].mv ≠ 0 → serving s = true → s.mod.startStep = 10 →
    (∃ t, exec (.getState true) s = .next t
      ∧ Noted { s with out := s.out ++ [.mgmt 0 (leBytes 1 (moduleState s) ++ leBytes 8 (stStart s)
          ++ leBytes 1 (stIdentity s % 256) ++ leBytes 1 s.power.flags.toNat)] } t)
    ∧ (∃ t, exec (.getCap true) s = .next t
        ∧ Noted { s with out := s.out ++ [.mgmt 0 (leBytes 2 s.adm.capW ++ leBytes 2 (capMin s) ++ leBytes 2 (capMax s))] } t)
    ∧ (∀ w, ∃ t, exec (.mgmtSetCap true w) s = .next t
        ∧ (capMin s ≤ w ∧ w ≤ capMax s → Noted { s with adm := { s.adm with capW := w }, out := s.out ++ [.mgmt 0 []] } t)
        ∧ (¬ (capMin s ≤ w ∧ w ≤ capMax s) → Noted { s with out := s.out ++ [.mgmt 0x2006 []] } t))
    ∧ (∀ page, page < 4 → ∃ t b, exec (.mgmtTelemetry true page) s = .next t
        ∧ Noted { s with free := s.free + 1, out := s.out ++ [.mgmt 0 b] } t
        ∧ b.length = if page = 0 then 6 else if page = 3 then 64 else if page = 1 then 64 else 16)
    ∧ (∀ page, 4 ≤ page → ∃ t, exec (.mgmtTelemetry true page) s = .next t
        ∧ Noted { s with free := s.free + 1, out := s.out ++ [.mgmt 0x2007 []] } t)
    ∧ (∃ t, exec (.claimPermit true) s = .next t
        ∧ ((∀ e ∈ s.fuses.slots.toList, e.1 = 0) →
            Noted { s with fuses := { s.fuses with claimPermit := true }, out := s.out ++ [.mgmt 0 []] } t)
        ∧ (¬ (∀ e ∈ s.fuses.slots.toList, e.1 = 0) → Noted { s with out := s.out ++ [.mgmt 0x2002 []] } t))
    ∧ (s.mgmt.lastRestart = none → s.draining = none → (∀ (i : Fin 16), s.plans[i] = none) → s.reeve.role ≠ 1 →
        ∃ t, exec (.mgmtRestart true true) s = .next t
          ∧ Noted { s with
              mod := { s.mod with state := .draining }, draining := some ⟨0, s.bell, none⟩,
              mgmt := { s.mgmt with lastRestart := some s.bell }, out := s.out ++ [.mgmt 0 []] } t)
    ∧ ((∀ e ∈ s.fuses.slots.toList, e.1 ≠ 1) →
        (∀ region total, region ∈ [1, 2] → total ≤ regionSize region → s.mgmt.staging = none →
          ∃ t, exec (.stageBegin true region total) s = .next t
            ∧ Noted { s with
                mgmt := { s.mgmt with staging := some (region, Transfer.start 3 0 region total) },
                out := s.out ++ [.mgmt 0 []] } t)
        ∧ (∀ r x off data, s.mgmt.staging = some (r, x) → data.length ≤ 240 → off + data.length ≤ x.total →
            ∃ t, exec (.stageData true off data) s = .next t
              ∧ Noted { s with
                  mgmt := { s.mgmt with staging := some (r, { x with
                    data := memWrite 0 x.data off data,
                    got := if data = [] then x.got else x.got ++ [(off, data.length)] }) },
                  out := s.out ++ [.mgmt 0 []] } t)
        ∧ (∀ r x, s.mgmt.staging = some (r, x) → x.whole = true → typeFits r x.bytes = true →
            ∃ t, exec (.stageEnd true) s = .next t
              ∧ Noted { s with
                  mgmt := { s.mgmt with staging := none },
                  flash := s.flash.set 0 (memWrite 0xFF s.flash[0] (regionBase r) x.bytes),
                  out := s.out ++ [.mgmt 0 []] } t))
    ∧ (∀ i ∈ [Instr.getState false, .getCap false, .claimPermit false, .stageEnd false], exec i s = .next s)

/-! ### The domain and its jobs -/

/-- 13 R297, R304, R306, R307, R316: a member joins, installs a job, arms, holds GO until its launch bell, launches, and
disarms. The grid of every service starts at L, and the step number is 0 (09 R198). A message that comes again is answered
again and does nothing else; a module that is FAULT_STOPPED answers ARM NOT_READY. -/
def Obligations.MembersLaunch : Prop :=
  (∀ (s : State), Calm s → serving s = true →
    (∀ src reason bell, s.domain.joined = false → s.autostart.stage = 0 →
      ∃ t, exec (.joinAck src true reason bell) s = .next t ∧ t.bell = bell ∧ t.domain.joined = true
        ∧ t.domain.primary = src ∧ t.domain.standby = s.domain.standby ∧ SameMemory s t ∧ t.plans = s.plans ∧ t.out = s.out)
    ∧ (∀ seq job member members places regions (i : Fin 16) p, s.domain.joined = true → planOfDigest s p.digest = some i →
        s.plans[i] = some p → p.jobId = 0 → p.draining = false → p.filled = true → job ≠ 0 → p.regionEntries = [] →
        Fresh s (reeveMsg s job 0x10 seq false) →
        ∃ t, exec (.install ⟨seq, job⟩ member members (some p.digest) places [] regions [] false) s = .next t
          ∧ Told s t [s.domain.primary] 0x11 job member []
          ∧ Noted (toReeve { kept s (reeveMsg s job 0x10 seq false) with
              plans := s.plans.set i (some { p with
                jobId := job, member := member, members := members, memberPlaces := places, twin := false,
                jobState := .installed, treeA := treeNode false members member, treeB := treeNode true members member }),
              meas := s.meas.set 10 (sha512 (s.meas[10]
                ++ sha512 (leBytes 2 job ++ leBytes 2 member ++ leBytes 2 members ++ leBytes 64 p.digest))) }
              0x10 0x11 job member) t)
    ∧ (∀ seq job member members digest places routes regions handles twin m,
        s.acted = [{ reeveMsg s job 0x10 seq false with answer := some m }] →
        ∃ t, exec (.install ⟨seq, job⟩ member members digest places routes regions handles twin) s = .next t
          ∧ Noted { s with out := s.out ++ [.control m] } t)
    ∧ (∀ seq job tree l (i : Fin 16) p, s.domain.joined = true → planOfJob s job = some (i, p) → p.jobState = .installed →
        p.members = 1 → p.treeA = ⟨none, [], [], false⟩ → p.treeB = ⟨none, [], [], false⟩ → p.answers = [] →
        p.launchBell = none → twinB s = false → Fresh s (reeveMsg s job 0x12 seq tree) →
        ∃ t, exec (.arm ⟨seq, job⟩ tree l) s = .next t
          ∧ (∃ q, t.plans = s.plans.set i (some q) ∧ q.jobState = .armed ∧ q.launchBell = some l ∧ q.jobId = p.jobId
              ∧ q.step = p.step)
          ∧ SameMemory s t ∧ Told s t [s.domain.primary] (if tearing s then 0x15 else 0x13) job p.member [])
    ∧ (∀ seq job tree l (i : Fin 16) p, planOfJob s job = some (i, p) → p.launchBell = some l → p.jobState = .armed →
        (p.node tree).children = [] → Fresh s (reeveMsg s job 0x16 seq tree) →
        let u := kept s (reeveMsg s job 0x16 seq tree)
        ∃ t, exec (.goMsg ⟨seq, job⟩ tree) s = .next t
          ∧ (s.bell + 50000 ≤ l → Noted { u with plans := s.plans.set i (some { p with goHeld := true }) } t)
          ∧ (l < s.bell + 50000 → Noted u t))
    ∧ (∀ l (i : Fin 16) p, s.plans[i] = some p → p.jobState = .armed → p.goHeld = true → p.launchBell = some l →
        l ≤ s.bell → p.img.services = [] →
        ∃ t, exec (.launch i) s = .next t ∧ Told s t [s.domain.primary] 0x17 p.jobId p.member []
          ∧ Noted (toReeve { s with plans := s.plans.set i (some { p with
              jobState := .running, launched := true, gridBell := l, step := 0, attempt := 0, nextSlot := [] }) }
              0x16 0x17 p.jobId p.member) t)
    ∧ (∀ seq job tree (i : Fin 16) p, planOfJob s job = some (i, p) → p.jobState = .armed → (p.node tree).children = [] →
        Fresh s (reeveMsg s job 0x18 seq tree) →
        ∃ t, exec (.disarm ⟨seq, job⟩ tree) s = .next t ∧ Told s t [s.domain.primary] 0x19 job p.member []
          ∧ Noted (toReeve { kept s (reeveMsg s job 0x18 seq tree) with
              plans := s.plans.set i (some { p with jobState := .installed, launchBell := none, goHeld := false, answers := [] }) }
              0x18 0x19 job p.member) t)
    ∧ (∀ l (i : Fin 16) p, s.plans[i] = some p → p.jobState = .armed → p.goHeld = false → p.launchBell = some l →
        l + 1000000 ≤ s.bell →
        ∃ t, exec (.armedTimeout i) s = .next t ∧ Told s t [s.domain.primary] 0x19 p.jobId p.member []
          ∧ Noted (toReeve { s with
              plans := s.plans.set i (some { p with jobState := .installed, launchBell := none, goHeld := false, answers := [] }) }
              0x18 0x19 p.jobId p.member) t))
  ∧ (∀ (s : State) seq job tree l, s.mod.state = .stopped → Fresh s (reeveMsg s job 0x12 seq tree) →
      ∃ t who, exec (.arm ⟨seq, job⟩ tree l) s = .next t ∧ Told s t [s.domain.primary] 0x14 job who []
        ∧ (∀ i p, planOfJob s job = some (i, p) → who = p.member) ∧ t.plans = s.plans ∧ SameMemory s t)

/-- 13 R299, R309, R310, R314: TEARDOWN stops the job's cores and units at once; its drain revokes the job's regions and
handles; its wipe returns every byte of the plan's pages, bins and core SRAM to zero, unloads the plan and answers
TEARDOWN_DONE, and so does a module that no longer holds the job; ROUTE_REMOVE empties the job's route entries; a twin stop
is held by the root; and a takeover changes the primary. -/
def Obligations.MembersTearDown : Prop :=
  ∀ (s : State), Calm s → serving s = true →
    (∀ seq job cause (i : Fin 16) p, planOfJob s job = some (i, p) → p.teardownCause = none →
      Fresh s (reeveMsg s job 0x21 seq false) →
      ∃ t, exec (.teardown ⟨seq, job⟩ cause) s = .next t
        ∧ (∃ q, t.plans = s.plans.set i (some q) ∧ q.jobState = .fenced ∧ q.teardownCause = some cause ∧ q.stepOpen = false
            ∧ q.teardownBell = s.bell ∧ q.step = p.step)
        ∧ (∀ c : CoreId, s.cores[c].plan = some i → t.cores[c].run = .stopped ∧ t.cores[c].far = [])
        ∧ (∀ c : CoreId, s.cores[c].plan ≠ some i → t.cores[c] = s.cores[c])
        ∧ (∀ n : Fin 32, s.carts[n].plan = some i → t.carts[n].running = none ∧ t.carts[n].queue = [])
        ∧ (∀ n : Fin 32, s.recks[n].plan = some i → t.recks[n].running = none ∧ t.recks[n].queue = [])
        ∧ SameMemory s t ∧ t.out = s.out)
    ∧ (∀ seq job cause, planOfJob s job = none → Fresh s (reeveMsg s job 0x21 seq false) →
        ∃ t who, exec (.teardown ⟨seq, job⟩ cause) s = .next t ∧ Told s t (reeves s) 0x22 job who []
          ∧ t.plans = s.plans ∧ SameMemory s t)
    ∧ (∀ (i : Fin 16) p, s.plans[i] = some p → p.jobState = .fenced → p.requests = [] → p.jobId ≠ 0 →
        (∀ k ∈ planCores s i, k.moves = [] ∧ k.copies = []) →
        ∃ t, exec (.teardownDrainEnd i) s = .next t
          ∧ Noted { s with
              plans := s.plans.set i (some { p with jobState := .wiping, teardownBell := s.bell }),
              regions := s.regions.map (fun e => if e.job.toNat = p.jobId then RegionEntry.reset else e),
              endpoint := { s.endpoint with
                caches := s.endpoint.caches.filter (fun k => k.job != p.jobId),
                halves := s.endpoint.halves.filter (fun k => k.1.job.toNat != p.jobId) },
              cores := s.cores.map (fun k => if k.plan = some i then { k with fh := .replicate 64 ⟨0, 0, 0⟩ } else k) } t)
    ∧ (∀ (i : Fin 16) p, s.plans[i] = some p → p.jobState = .wiping → s.reforming = [] → memWf 0 s.hbm = true →
        ∃ t, exec (.teardownWipeEnd i) s = .next t
          ∧ t.plans = s.plans.set i none
          ∧ Told s t (reeves s) 0x22 p.jobId p.member []
          ∧ (∀ a, memGet 0 t.hbm a = if (∃ f ∈ p.frames, f.1 * windowSpan + f.2 * pageBytes ≤ a
                ∧ a < f.1 * windowSpan + f.2 * pageBytes + pageBytes) then 0 else memGet 0 s.hbm a)
          ∧ (∀ (c : CoreId) a, memGet 0 t.cores[c].sram a = if s.cores[c].plan = some i then 0 else memGet 0 s.cores[c].sram a)
          ∧ (∀ (b : Fin 512) a, memGet 0 t.bins[b].mem a = if b.val ∈ p.bins then 0 else memGet 0 s.bins[b].mem a))
    ∧ (∀ seq job, Fresh s (reeveMsg s job 0x23 seq false) → ∃ t, exec (.routeRemove ⟨seq, job⟩) s = .next t
        ∧ Told s t [s.domain.primary] 0x24 job 0 []
        ∧ Noted (toReeve { kept s (reeveMsg s job 0x23 seq false) with
            routes := s.routes.map (fun e => if e.valid ∧ e.job.toNat = job then RouteEntry.reset else e) } 0x23 0x24 job 0) t)
    ∧ (∀ job cause (i : Fin 16) p, planOfJob s job = some (i, p) →
        (p.members ≤ 1 ∨ isRoot false p.members p.member = true ∨ isRoot true p.members p.member = true) →
        ∃ t, exec (.twinStop job cause) s = .next t
          ∧ Noted { s with plans := s.plans.set i (some { p with twinStop := some cause }) } t)
    ∧ (∀ place, place ≠ cfgPlace s → ∃ t, exec (.reeveTakeover place) s = .next t
        ∧ Noted { s with
            domain := { s.domain with primary := place, standby := place }, reeve := { s.reeve with role := 0 } } t)

/-- 13 R297, R299, R301-R304, R306, R307, R312: the primary admits a module and installs its route entries of job id 0;
starts a job under the lowest free id, telling its standby first; arms it once every INSTALLED is in, sends GO once both
READY are in by L - 200,000, and counts its launch. In a twin side B starts the job that side A asks for, and arms it at
side A's L. -/
def Obligations.ReeveStartsJobs : Prop :=
  ∀ (s : State), Calm s → serving s = true → s.reeve.role = 1 →
    (∀ seq place grade logical routes, (∀ e ∈ s.reeve.joined, e.1 ≠ place) → s.reeve.joined.length < cfgDomainSize s →
      Fresh s ⟨place, 0, 0x01, seq, false, none⟩ →
      let content := leBytes 2 0 ++ routeBytes 0 routes
      let n := nextControl s 0
      ∃ t, exec (.joinMsg seq place grade logical ⟨true, s.meas[11], false⟩ routes) s = .next t
        ∧ t.reeve = { s.reeve with
            joined := s.reeve.joined ++ [(place, grade, logical)],
            waits := s.reeve.waits ++ [⟨[place], 0x10, 0, n + 1, 0, content, s.bell, [place]⟩] }
        ∧ t.out = s.out ++ [.control ⟨[place], 0x02, 0, n, 0, leBytes 8 s.bell⟩,
                            .control ⟨[place], 0x10, 0, n + 1, 0, content⟩]
        ∧ t.plans = s.plans ∧ SameMemory s t)
    ∧ (∀ h k digest places v id, Asks s h k → k.role = 0 → v.fromA = none → startRefusal s digest places v = none →
        startId s v = some id →
        ∃ t j, exec (.jobStart h digest places v) s = .next t
          ∧ t.reeve.jobs = s.reeve.jobs ++ [j] ∧ j.id = id ∧ j.digest = digest ∧ j.phase = .installing ∧ j.routes = v.routes
          ∧ List.Perm j.places places ∧ j.places.Pairwise (· ≤ ·) ∧ (∀ p ∈ places, p ∈ j.holders)
          ∧ (∀ e ∈ v.routes, e.1 ∈ j.holders)
          ∧ (∃ w, w % 2 ^ 16 = 0 ∧ t.out = s.out
              ++ (if cfgTwin s then [.twinJob (cfgTwinPrimary s) id digest places.length] else [])
              ++ installsOf s t j ++ [.host h.session 0xA9 h.tag w (leBytes 2 id)])
          ∧ SameMemory s t ∧ t.plans = s.plans)
    ∧ (∀ v n, v.fromA = none → cfgTwin s = false → startId s v = some n →
        1 ≤ n ∧ n < 65536 ∧ (∀ j ∈ s.reeve.jobs, j.id ≠ n) ∧ lapses s n = false
        ∧ ∀ m, 1 ≤ m → m < n → (∃ j ∈ s.reeve.jobs, j.id = m) ∨ lapses s m = true)
    ∧ (∀ h k digest places v c, Asks s h k → k.role = 0 → v.fromA = none → startRefusal s digest places v = some c →
        c < 2 ^ 16 →
        ∃ t, exec (.jobStart h digest places v) s = .next t
          ∧ Served (journalRaw s 0x0509 0 0 0xFF (leBytes 64 digest ++ leBytes 2 c)) t h 0x29 c [])
    ∧ (∀ h digest places v id, twinB s = true → v.fromA = some id →
        ∃ t, exec (.jobStart h digest places v) s = .next t ∧ SameMemory s t ∧ t.plans = s.plans
          ∧ (∀ c, startRefusal s digest places v = some c →
              t.reeve.jobs = s.reeve.jobs ∧ t.out = s.out ++ [.twinAnswer (cfgTwinPrimary s) id c])
          ∧ (startRefusal s digest places v = none → ∃ j, t.reeve.jobs = s.reeve.jobs ++ [j] ∧ j.id = id ∧ j.digest = digest
              ∧ j.phase = .installing ∧ List.Perm j.places places
              ∧ t.out = s.out ++ installsOf s t j ++ [.twinAnswer (cfgTwinPrimary s) id 0]))
    ∧ (∀ job place j, s.reeve.jobs = [j] → j.id = job → j.phase = .installing → j.holders = [place] → j.installed = [] →
        j.busy = none → s.reeve.waits = [] →
        ∃ t, exec (.installed job place) s = .next t ∧ t.plans = s.plans ∧ SameMemory s t
          ∧ (twinB s = true → t.reeve.jobs = [{ j with phase := .installed, installed := [place] }] ∧ t.out = s.out)
          ∧ (twinB s = false → ∃ l, s.bell + 250000 + 2 * j.boundA ≤ l
              ∧ t.reeve.jobs = [{ j with phase := .arming, launch := l, installed := [place], reports := [] }]
              ∧ t.out = s.out ++ mirrorOf t job ++ [.control ⟨rootPlaces j.places, 0x12, job, nextControl s job, l, []⟩]
                  ++ (if cfgTwin s then [.control ⟨[cfgTwinPrimary s], 0x12, job, nextControl s job + 1, l, []⟩] else [])))
    ∧ (∀ seq job tree l j, twinB s = true → s.reeve.jobs = [j] → j.id = job → j.phase = .installed → j.busy = none →
        ∃ t, exec (.arm ⟨seq, job⟩ tree l) s = .next t
          ∧ t.reeve.jobs = [{ j with phase := .arming, launch := l, reports := [] }]
          ∧ Sends s t (rootPlaces j.places) 0x12 job l [] ∧ t.plans = s.plans ∧ SameMemory s t)
    ∧ (∀ job tree who other j, s.reeve.jobs = [j] → j.id = job → j.phase = .arming → j.busy = none →
        (cfgTwin s = true → other = true) → s.bell + 200000 ≤ j.launch →
        ∃ t, exec (.armAnswer job tree none 0x13 who other) s = .next t
          ∧ t.reeve.jobs = [{ j with phase := .going }]
          ∧ Sends s t (rootPlaces j.places) 0x16 job 0 [] ∧ t.plans = s.plans ∧ SameMemory s t)
    ∧ (∀ job j, s.reeve.jobs = [j] → j.id = job → j.phase = .arming → j.launch ≤ s.bell + 200000 →
        ∃ t, exec (.goDeadline job) s = .next t
          ∧ t.reeve.jobs = [{ j with phase := .installed, busy := none }]
          ∧ Sends s t (rootPlaces j.places) 0x18 job 0 [] ∧ t.plans = s.plans ∧ SameMemory s t)
    ∧ (∀ job member j, s.reeve.jobs = [j] → j.id = job → j.phase = .going → j.reports = [] → j.places.length = 1 →
        ∃ t, exec (.launched job member true) s = .next t
          ∧ t.reeve.jobs = [{ j with phase := .launched, reports := [(member, true)] }] ∧ t.out = s.out
          ∧ t.plans = s.plans ∧ SameMemory s t)
    ∧ (∀ job j, s.reeve.jobs = [j] → j.id = job → j.phase = .going → j.reports.length < j.places.length →
        j.launch + 1000000 + j.boundA ≤ s.bell →
        ∃ t, exec (.launchReportDeadline job) s = .next t
          ∧ t.reeve.jobs = [{ j with phase := .teardown, cause := 0x500D, done := [] }]
          ∧ Sends s t j.places 0x21 job 0x500D [] ∧ t.plans = s.plans ∧ SameMemory s t)

/-- 13 R299, R303, R308, R310, R314-R316: the primary ends a job by TEARDOWN to every member, by ROUTE_REMOVE to every
holder once all are done, and frees its id 100,000 bells after the last ROUTE_REMOVED; it repeats what lacks an answer
for 20,000 bells and beats every 100,000; the standby takes over after 300,000; and a twin whose tallies differ, or whose
other side falls silent, is stopped on either side. -/
def Obligations.ReeveEndsJobs : Prop :=
  ∀ (s : State), Calm s → serving s = true →
    (∀ h k job j, Asks s h k → k.role = 0 → s.reeve.jobs = [j] → j.id = job → j.phase ≠ .teardown → j.phase ≠ .removing →
      ∃ t w, exec (.jobStop h job) s = .next t ∧ w % 2 ^ 16 = 0
        ∧ t.reeve.jobs = [{ j with phase := .teardown, cause := 0x7003, done := [] }]
        ∧ t.out = s.out ++ mirrorOf t job ++ [.control ⟨j.places, 0x21, job, nextControl s job, 0x7003, []⟩,
                                              .host h.session 0xAA h.tag w []]
        ∧ t.plans = s.plans ∧ SameMemory s t)
    ∧ (∀ job cause member j, s.reeve.role = 1 → s.reeve.jobs = [j] → j.id = job → j.phase ≠ .teardown →
        j.phase ≠ .removing →
        ∃ t, exec (.jobFault job cause member) s = .next t
          ∧ t.reeve.jobs = [{ j with phase := .teardown, cause := cause, done := [] }]
          ∧ Sends s t j.places 0x21 job cause [] ∧ t.plans = s.plans ∧ SameMemory s t)
    ∧ (∀ job place j, s.reeve.role = 1 → s.reeve.jobs = [j] → j.id = job → j.phase = .teardown → j.places = [place] →
        j.done = [] → j.busy = none →
        ∃ t, exec (.teardownDone job place) s = .next t
          ∧ t.reeve.jobs = [{ j with phase := .removing, done := [0], removed := [] }]
          ∧ Sends s t j.holders 0x23 job 0 [] ∧ t.plans = s.plans ∧ SameMemory s t)
    ∧ (∀ job place j, s.reeve.role = 1 → s.reeve.jobs = [j] → j.id = job → j.phase = .removing → j.holders = [place] →
        ∃ t, exec (.routeRemoved job place) s = .next t
          ∧ t.reeve.jobs = [] ∧ t.reeve.lapsing = s.reeve.lapsing ++ [(job, s.bell)] ∧ t.out = s.out ++ mirrorOf t job
          ∧ t.plans = s.plans ∧ SameMemory s t)
    ∧ (∀ job, (∀ e ∈ s.reeve.lapsing, e.1 = job → e.2 + 100000 ≤ s.bell) →
        ∃ t, exec (.jobIdFree job) s = .next t
          ∧ Noted { s with reeve := { s.reeve with lapsing := s.reeve.lapsing.filter (fun e => e.1 != job) } } t)
    ∧ (∀ w, s.reeve.waits = [w] → w.sent + 20000 ≤ s.bell →
        ∃ t, exec .controlResend s = .next t
          ∧ Noted { s with
              reeve := { s.reeve with waits := [{ w with sent := s.bell }] },
              out := s.out ++ [.control ⟨if w.msg = 0x12 ∨ w.msg = 0x16 ∨ w.msg = 0x18 then w.dst else w.awaits, w.msg, w.job,
                                         w.seq, w.arg, w.content⟩] } t)
    ∧ (s.reeve.role = 1 → s.reeve.hasStandby = true → s.reeve.lastBeat + 100000 ≤ s.bell →
        ∃ t, exec .reeveBeat s = .next t ∧ Told s t [s.domain.standby] 0x03 0 0 []
          ∧ t.reeve = { s.reeve with lastBeat := s.bell } ∧ t.plans = s.plans ∧ SameMemory s t)
    ∧ (s.reeve.role = 2 → ∃ t, exec .reeveBeat s = .next t ∧ Noted { s with reeve := { s.reeve with lastBeat := s.bell } } t)
    ∧ (∀ joined lapsing, s.reeve.role = 2 → s.reeve.lastBeat + 300000 ≤ s.bell →
        ∃ t, exec (.standbyTakeover [] joined lapsing false) s = .next t
          ∧ t.domain = { s.domain with primary := cfgPlace s, standby := cfgPlace s }
          ∧ t.reeve = { s.reeve with role := 1, hasStandby := false, jobs := [], joined := joined, lapsing := lapsing,
                                     waits := [], tallies := [] }
          ∧ Told s t (joined.map (fun e => e.1)) 0x04 0 0 [] ∧ t.plans = s.plans ∧ SameMemory s t)
    ∧ (∀ job step t0 t1 j, s.reeve.role = 1 → s.reeve.jobs = [j] → j.id = job → j.cause = 0 → s.reeve.tallies = [] →
        ∃ t, exec (.twinTally (cfgTwinSideB s) job step t0 t1) s = .next t
          ∧ t.reeve = { s.reeve with tallies := [(cfgTwinSideB s, job, step, t0 + 2 ^ 64 * t1, s.bell)] }
          ∧ Told s t [cfgTwinPrimary s] 0x30 job step (leBytes 8 t0 ++ leBytes 8 t1) ∧ t.plans = s.plans ∧ SameMemory s t)
    ∧ (∀ job step t0 t1 b0 b1 bell j, s.reeve.role = 1 → s.reeve.jobs = [j] → j.id = job → j.cause = 0 →
        s.reeve.tallies = [(cfgTwinSideB s, job, step, b0 + 2 ^ 64 * b1, bell)] →
        ∃ t, exec (.twinTally (!cfgTwinSideB s) job step t0 t1) s = .next t
          ∧ t.reeve.tallies = [] ∧ t.plans = s.plans ∧ SameMemory s t
          ∧ (t0 + 2 ^ 64 * t1 = b0 + 2 ^ 64 * b1 → t.out = s.out ∧ t.reeve.jobs = [j])
          ∧ (t0 + 2 ^ 64 * t1 ≠ b0 + 2 ^ 64 * b1 → t.reeve.jobs = [{ j with cause := 0x500B }]
              ∧ Told s t (rootPlaces j.places) 0x31 job 0 (leBytes 2 0x500B)))
    ∧ (∀ job step tally bell j, s.reeve.role = 1 → s.reeve.jobs = [j] → j.id = job →
        s.reeve.tallies = [(cfgTwinSideB s, job, step, tally, bell)] → bell + 10000000 ≤ s.bell →
        ∃ t, exec (.twinPeerLost job step) s = .next t
          ∧ t.reeve.jobs = [{ j with cause := 0x500C }] ∧ t.reeve.tallies = [] ∧ t.plans = s.plans ∧ SameMemory s t
          ∧ Told s t (rootPlaces j.places) 0x31 job 0 (leBytes 2 0x500C))

/-- 16 R376, R377; 13 R316: a module serves a resident plan's image, and a loaded plan's read-only weights, to a joined
module, or refuses with 0x301A; the module that fetches keeps what arrives, and gives the autostart entry up when it is
refused, when 1,000,000,000 bells pass without data, when the data ends short, and when no JOIN_ACK has come in 60 s. Where
no later entry of the list is in use the list then ends. -/
def Obligations.Fetches : Prop :=
  ∀ (s : State), Calm s → serving s = true →
    let piece (src : Nat) (b : Bytes) (n : Nat) : Out :=
      .control ⟨[src], 0x42, 0, nextControl s 0 + n, 0, leBytes 8 (184 * n) ++ (b.drop (184 * n)).take 184⟩
    let serves (src : Nat) (b : Bytes) (about : Bytes) (t : State) : Prop :=
      let m := (b.length + 183) / 184
      Noted { s with
        out := s.out ++ (List.range m).map (piece src b)
          ++ [.control ⟨[src], 0x43, 0, nextControl s 0 + m, 0, leBytes 8 b.length ++ about⟩],
        controlSeq := t.controlSeq } t
      ∧ nextControl t 0 = nextControl s 0 + m + 1
    (∀ src digest, ∃ t, exec (.planFetch src digest) s = .next t
      ∧ (s.domain.joined = false → Noted s t)
      ∧ (s.domain.joined = true → ∀ b, residentPlan s digest = some b → serves src b [] t)
      ∧ (s.domain.joined = true → residentPlan s digest = none →
          Told s t [src] 0x44 0 0x301A [] ∧ Noted (sendControl s [src] 0x44 0 0x301A []) t))
    ∧ (∀ src (i : Fin 16) p, s.domain.joined = true → planOfDigest s p.digest = some i → s.plans[i] = some p →
        ∃ t, exec (.weightFetch src p.digest) s = .next t
          ∧ (p.packages.all (packageReadOnly p) = true → ∀ b, packageBytes s i p.packages = .ok b →
              serves src b (p.packages.flatMap (fun k => leBytes 64 k.1 ++ leBytes 8 k.2.1 ++ leBytes 8 k.2.2)) t)
          ∧ (p.packages.all (packageReadOnly p) = false → Told s t [src] 0x44 0 0x301A []
              ∧ Noted (sendControl s [src] 0x44 0 0x301A []) t))
    ∧ (∀ src digest, s.domain.joined = true → planOfDigest s digest = none →
        ∃ t, exec (.weightFetch src digest) s = .next t ∧ Told s t [src] 0x44 0 0x301A []
          ∧ Noted (sendControl s [src] 0x44 0 0x301A []) t)
    ∧ (∀ src x b off data, s.autostart.fetch = some (src, x, b) → s.autostart.stage ≤ 2 →
        ∃ t, exec (.fetchData src off data) s = .next t
          ∧ Noted { s with autostart := { s.autostart with
              fetch := some (src, { x with data := memWrite 0 x.data off data,
                                           got := if data = [] then x.got else x.got ++ [(off, data.length)] }, s.bell) } } t)
    ∧ (let word := autostartWord s s.autostart.next
      let fails (code : Nat) (t : State) : Prop :=
        Noted { journalRaw s 0x0106 0 0 0xFF (leBytes 1 (bits word 15 8) ++ leBytes 1 s.autostart.stage ++ leBytes 2 code) with
                autostart := { s.autostart with next := 16, stage := 0, fetch := none, packages := 0 } } t
      s.autostart.next < 16 → (∀ n, s.autostart.next < n → n < 16 → bits (autostartWord s n) 0 0 = 0) →
        (∀ src x b, s.autostart.fetch = some (src, x, b) → s.autostart.stage = 1 ∨ s.autostart.stage = 2 →
          (∀ code, ∃ t, exec (.fetchRefused src code) s = .next t ∧ fails code t)
          ∧ (∃ t, exec .fetchTimeout s = .next t ∧ (b + 1000000000 ≤ s.bell → fails 0x301A t)
              ∧ (s.bell < b + 1000000000 → Noted s t))
          ∧ (∀ total packages, Transfer.whole { x with total := total } = false →
              ∃ t, exec (.fetchEnd src total packages) s = .next t ∧ fails 0x301A t)
          ∧ (s.autostart.stage = 2 → ∀ (i : Fin 16) p, s.plans[i] = some p → autoDigest s = some p.digest →
              weightsPlan s p.digest = some i → ∃ t, exec (.fetchEnd src 0 []) s = .next t
                ∧ t.autostart = { s.autostart with next := 16, stage := 0, fetch := none, packages := 0 } ∧ SameMemory s t
                ∧ t.plans = s.plans))
        ∧ (s.autostart.stage = 1 ∨ s.autostart.stage = 2 → s.autostart.fetch = none → s.domain.joined = false →
            ∃ t, exec .autostartJoinWait s = .next t
              ∧ (s.autostart.readyBell + 60000000000 ≤ s.bell → fails 0x301A t)
              ∧ (s.bell < s.autostart.readyBell + 60000000000 → Noted s t)))

/-! ### The fabric -/

/-- 11 R241, R246-R253, R267; 13 R297: an issued frame of this module's own place is delivered, one whose route has one
port up leaves on it with the port's next count, and one without a route is dropped and counted; one received in sequence
whose CRC and tag hold is acknowledged, its buffer's credit returned, and delivered where it is for this place; any other
is refused with a NAK; acknowledgements, credits and NAKs act; frames without acknowledgement for 2,000 bells are sent
again with their counts; TIME is sent every 100,000 bells. -/
def Obligations.PortsCarryFrames : Prop :=
  ∀ (s : State), Calm s → serving s = true →
    (∀ o n f wire, issuedFrame s o n = some f → f.dst.toNat < 2 ^ 20 → f.src.toNat < 2 ^ 20 → f.typ.toNat < 8 → f.cls ≠ 3 →
      (∀ e, routeOf s f = some e → e.ports = 0 → e.level = 0 → e.place.toNat = cfgPlace s → age s f ≤ 40000 →
        ∃ t, exec (.frameRoute (.issued o n) wire) s = .next t ∧ Noted { s with out := s.out ++ [.deliver f] } t)
      ∧ (∀ e (p : Fin 32), routeOf s f = some e → upPorts s none (fun q => e.ports.getLsbD q) = [p] →
          age s f ≤ 40000 → s.ports[p].queue = [] → s.ports[p].replayBuf = [] → 0 < s.ports[p].credit f →
          let k := s.ports[p].txCount + 1
          let body := sealFrame (linkRekey s.ports[p].keyTx k) k f
          ∃ t, exec (.frameRoute (.issued o n) wire) s = .next t
            ∧ t.out = s.out ++ [.port p (wireOf f body
                ⟨BitVec.ofNat 24 k, BitVec.ofNat 24 s.ports[p].rxCount, false, 0, 0⟩)]
            ∧ t.ports[p].txCount = k ∧ t.ports[p].replayBuf = [⟨k, f, none, body, s.bell, 0⟩]
            ∧ t.ports[p].credit f = s.ports[p].credit f - 1 ∧ t.ports[p].queue = []
            ∧ (∀ q : Fin 32, q ≠ p → t.ports[q] = s.ports[q]) ∧ t.plans = s.plans ∧ SameMemory s t)
      ∧ (routeOf s f = none → (f.job ≠ 0 ∨ f.typ ≠ 6) → s.endpoint.drops = [] →
          ∃ t, exec (.frameRoute (.issued o n) wire) s = .next t
            ∧ Noted { s with endpoint := { s.endpoint with drops := [(1, f.job.toNat, 1)] } } t))
    ∧ (∀ (p : Fin 32) wire, ∀ i ∈ [Instr.frameRoute (.received p) wire, .timeFrame p wire], s.ports[p].state = 2 →
        let n := s.ports[p].rxCount + 1
        (wireCrcGood wire = false ∨ (wireLink wire).txSeq ≠ BitVec.ofNat 24 n
            ∨ openFrame (linkRekey s.ports[p].keyRx n) n wire = none →
          ∃ t, exec i s = .next t ∧ Noted { s with out := s.out ++ [.idle p s.ports[p].rxCount true 0 0] } t)
        ∧ (∀ f, wireCrcGood wire = true → (wireLink wire).txSeq = BitVec.ofNat 24 n → (wireLink wire).nak = false →
            openFrame (linkRekey s.ports[p].keyRx n) n wire = some f → s.ports[p].queue = [] →
            f.dst.toNat < 2 ^ 20 → f.src.toNat < 2 ^ 20 → f.cls ≠ 3 → ∀ out : List Out,
            (f.typ = 0 ∧ out = [])
              ∨ (f.typ = 7 ∧ out = [])
              ∨ (f.typ ≠ 0 ∧ f.typ ≠ 7 ∧ f.typ.toNat < 8 ∧ age s f ≤ 40000 ∧ out = [.deliver f]
                  ∧ ∃ e, routeOf s f = some e ∧ e.ports = 0 ∧ e.level = 0 ∧ e.place.toNat = cfgPlace s) →
            ∃ t, exec i s = .next t ∧ t.ports[p].rxCount = n
              ∧ t.ports[p].keyRx = linkRekey s.ports[p].keyRx n
              ∧ t.ports[p].replayBuf = s.ports[p].replayBuf.filter
                  (fun e => !decide (((wireLink wire).ackSeq - BitVec.ofNat 24 e.count).toNat < 2 ^ 23))
              ∧ (∀ c : Fin 3, t.ports[p].credits[c] = if (wireLink wire).cls = BitVec.ofNat 2 c then
                  min 64 (s.ports[p].credits[c] + (wireLink wire).credits.toNat) else s.ports[p].credits[c])
              ∧ t.ports[p].timeReceived = (if f.typ = 7 then s.bell else s.ports[p].timeReceived)
              ∧ t.out = s.out ++ [.idle p n false f.cls.toNat 1] ++ out
              ∧ (∀ q : Fin 32, q ≠ p → t.ports[q] = s.ports[q]) ∧ t.plans = s.plans ∧ SameMemory s t))
    ∧ (∀ (p : Fin 32) wire tag, s.ports[p].state = 2 →
        (wireCrcGood wire = false ∨ tag = false → ∃ t, exec (.idle ⟨p, wire, tag⟩) s = .next t
          ∧ Noted { s with out := s.out ++ [.idle p s.ports[p].rxCount true 0 0] } t)
        ∧ (wireCrcGood wire = true → s.ports[p].queue = [] →
            let l := s.ports[p].replayBuf.filter
              (fun e => !decide (((wireLink wire).ackSeq - BitVec.ofNat 24 e.count).toNat < 2 ^ 23))
            let again := if (wireLink wire).nak then l else []
            ∃ t, exec (.idle ⟨p, wire, true⟩) s = .next t
              ∧ t.ports[p].replayBuf.map (fun e => (e.count, e.frame, e.body)) = l.map (fun e => (e.count, e.frame, e.body))
              ∧ (∀ c : Fin 3, t.ports[p].credits[c] = if (wireLink wire).cls = BitVec.ofNat 2 c then
                  min 64 (s.ports[p].credits[c] + (wireLink wire).credits.toNat) else s.ports[p].credits[c])
              ∧ t.out = s.out ++ again.map (fun e => .port p (wireOf e.frame e.body
                  ⟨BitVec.ofNat 24 e.count, BitVec.ofNat 24 s.ports[p].rxCount, false, 0, 0⟩))
              ∧ (∀ q : Fin 32, q ≠ p → t.ports[q] = s.ports[q]) ∧ t.plans = s.plans ∧ SameMemory s t))
    ∧ (∀ (p : Fin 32) (e : Sent), s.ports[p].state = 2 → s.ports[p].replayBuf = [e] → e.bell + 2000 ≤ s.bell →
        ∃ t, exec (.linkAckTimeout p) s = .next t
          ∧ t.out = s.out ++ [.port p (wireOf e.frame e.body
              ⟨BitVec.ofNat 24 e.count, BitVec.ofNat 24 s.ports[p].rxCount, false, 0, 0⟩)]
          ∧ t.ports[p].replayBuf = [{ e with bell := s.bell, tries := e.tries + 1 }]
          ∧ t.ports[p].replays = s.ports[p].replays + 1 ∧ t.ports[p].txCount = s.ports[p].txCount
          ∧ (∀ q : Fin 32, q ≠ p → t.ports[q] = s.ports[q]) ∧ t.plans = s.plans ∧ SameMemory s t)
    ∧ (∀ (p : Fin 32), s.ports[p].state = 2 → s.ports[p].queue = [] → s.ports[p].replayBuf = [] →
        (∀ n : Fin 3, 0 < s.ports[p].credits[n]) → s.ports[p].timeSent + 100000 ≤ s.bell →
        let k := s.ports[p].txCount + 1
        ∃ t f, exec (.timeSend p) s = .next t ∧ f.typ = 7 ∧ f.cls ≠ 3 ∧ f.dst = s.ports[p].peerPlace
          ∧ f.src = BitVec.ofNat 22 (cfgPlace s)
          ∧ f.content = leBytes 8 s.bell ++ leBytes 8 s.ports[p].timeReceived
          ∧ t.out = s.out ++ [.port p (wireOf f (sealFrame (linkRekey s.ports[p].keyTx k) k f)
              ⟨BitVec.ofNat 24 k, BitVec.ofNat 24 s.ports[p].rxCount, false, 0, 0⟩)]
          ∧ t.ports[p].timeSent = s.bell ∧ t.ports[p].txCount = k
          ∧ (∀ q : Fin 32, q ≠ p → t.ports[q] = s.ports[q]) ∧ t.plans = s.plans ∧ SameMemory s t)

/-- 11 R243, R244, R252; 15 R348: a port that trains sends its certificates and nonce; where the peer's certificates chain to
the vendor root, name its place and share an active owner slot, and its half-secret's signature holds, the port comes up at
the width of the lanes that work, with fresh counts, credits and keys; one whose peer fails a check writes LINK_REFUSED with
that check and stays down (the checks are numbered in R348's order and the number of a half-secret's failure is free,
notes/assumptions/48.md). One that retrains drops to training and routes its unacknowledged and queued frames again, but for
TIME and IDLE, never back to the port on which they came. -/
def Obligations.PortsTrain : Prop :=
  ∀ (s : State) (p : Fin 32), Calm s → serving s = true →
    (∀ (f : TrainFacts), s.ports[p].state ≠ 2 → (cfgPortEnable s).testBit p = true → f.lanes ≠ 0 →
      f.peerPlace.toNat ≠ cfgPlace s →
      ∃ t own mine, exec (.portTrain p f) s = .next t ∧ own.length = 32 ∧ mine.length = 32
        ∧ (∀ q : Fin 32, q ≠ p → t.ports[q] = s.ports[q]) ∧ t.plans = s.plans ∧ SameMemory s t
        ∧ t.ports[p].peerPlace = f.peerPlace ∧ t.ports[p].peerPort = f.peerPort
        ∧ (s.out ++ [.trainCerts p Config.identityCert (transportCert s) own]) <+: t.out
        ∧ (let Refused (n : Nat) : Prop := t.ports[p].state = 0 ∧ t.ports[p].width = 0 ∧ t.ports[p].laneMask = 0
              ∧ t.ports[p].secure = false
              ∧ ∃ r ∈ t.journal.records, r.type = 0x070F ∧ r.bell = s.bell
                  ∧ r.payload = leBytes 1 p ++ leBytes 4 f.peerPlace.toNat ++ leBytes 1 n
           (peerIdentity s f.identity = none → Refused 1)
           ∧ (∀ id, peerIdentity s f.identity = some id →
              (peerTransport id f.transport = none → Refused 1)
              ∧ (∀ b, peerTransport id f.transport = some b →
                  (certPlace b ≠ f.peerPlace.toNat → Refused 2)
                  ∧ (certPlace b = f.peerPlace.toNat → (∀ d ∈ certActive b, d ∉ activeSlots s) → Refused 3)
                  ∧ (certPlace b = f.peerPlace.toNat → (∃ d ∈ certActive b, d ∈ activeSlots s) →
                      (∃ cipher sig, t.out = s.out ++ [.trainCerts p Config.identityCert (transportCert s) own,
                        .trainSecret p cipher sig])
                      ∧ (peerSecret s f id own = none → ∃ n, Refused n)
                      ∧ (∀ z, peerSecret s f id own = some z →
                          t.ports[p].state = 2 ∧ t.ports[p].secure = true ∧ t.ports[p].txCount = 0
                          ∧ t.ports[p].rxCount = 0 ∧ t.ports[p].replayBuf = []
                          ∧ t.ports[p].credits = .replicate 3 64 ∧ t.ports[p].lastTrain = s.bell
                          ∧ (cfgPlace s < f.peerPlace.toNat → t.ports[p].keyTx = linkKey mine z own f.nonce 1
                              ∧ t.ports[p].keyRx = linkKey mine z own f.nonce 2)
                          ∧ (f.peerPlace.toNat < cfgPlace s → t.ports[p].keyTx = linkKey z mine f.nonce own 2
                              ∧ t.ports[p].keyRx = linkKey z mine f.nonce own 1)
                          ∧ (f.lanes = 0xF → t.ports[p].width = 3 ∧ t.ports[p].laneMask = 0xF)
                          ∧ (f.lanes ≠ 0xF → f.lanes &&& 3 = 3 → t.ports[p].width = 2 ∧ t.ports[p].laneMask = 3)
                          ∧ (f.lanes &&& 3 ≠ 3 → f.lanes &&& 12 = 12 → t.ports[p].width = 2 ∧ t.ports[p].laneMask = 12)
                          ∧ (f.lanes &&& 3 ≠ 3 → f.lanes &&& 12 ≠ 12 → t.ports[p].width = 1
                              ∧ t.ports[p].laneMask = f.lanes &&& (0 - f.lanes))))))))
    ∧ (∀ i ∈ [Instr.portRetrain p 0, .portRetrain p 1, .portRetrain p 2, .portWidenAttempt p], s.ports[p].state = 2 →
        (i = .portRetrain p 0 → ∃ e ∈ s.ports[p].replayBuf, 8 ≤ e.tries) →
        (i = .portWidenAttempt p → s.ports[p].width ≠ 3 ∧ s.ports[p].lastTrain + 10000000000 ≤ s.bell) →
        ∃ t, exec i s = .next t ∧ t.ports[p].state = 1 ∧ t.ports[p].width = 0 ∧ t.ports[p].laneMask = 0
          ∧ t.ports[p].secure = false ∧ t.ports[p].retrains = s.ports[p].retrains + 1
          ∧ t.ports[p].replayBuf = [] ∧ t.ports[p].queue = [] ∧ t.plans = s.plans ∧ SameMemory s t
          ∧ ((∀ e ∈ s.ports[p].replayBuf, e.frame.typ = 0 ∨ e.frame.typ = 7) →
              (∀ e ∈ s.ports[p].queue, e.frame.typ = 0 ∨ e.frame.typ = 7) →
              t.out = s.out ∧ ∀ q : Fin 32, q ≠ p → t.ports[q] = s.ports[q])
          ∧ (∀ (e : Sent) r (q : Fin 32), s.ports[p].replayBuf = [e] → s.ports[p].queue = [] → e.frame.typ ≠ 0 →
              e.frame.typ ≠ 7 → e.frame.typ.toNat < 8 → e.frame.cls ≠ 3 → e.frame.dst.toNat < 2 ^ 20 →
              e.frame.src.toNat < 2 ^ 20 → age s e.frame ≤ 40000 → routeOf s e.frame = some r →
              upPorts s e.arrival (fun x => x != p && r.ports.getLsbD x) = [q] → s.ports[q].queue = [] →
              s.ports[q].replayBuf = [] → 0 < s.ports[q].credit e.frame →
              let k := s.ports[q].txCount + 1
              t.out = s.out ++ [.port q (wireOf e.frame (sealFrame (linkRekey s.ports[q].keyTx k) k e.frame)
                ⟨BitVec.ofNat 24 k, BitVec.ofNat 24 s.ports[q].rxCount, false, 0, 0⟩)]))

/-- 09 R206; 11 R254-R258, R261, R263, R264: the endpoint answers a load of its region from memory with status 0, applies
a store, flag or atomic once and answers its repetition from the replay cache, refuses a wrong key and an address outside
every region, and discards lone halves after 40,000 bells; a source completes a load on its reply, repeats a request at
20,000 bells, and gives it up at 80,000 with TARGET_LOST. A request or a reply of two frames acts when both are there. -/
def Obligations.FarOperations : Prop :=
  ∀ (s : State), Calm s → serving s = true →
    (∀ (f : Frame) more cmd, Brings s 1 (fun f => .farRequest f [] []) f more cmd → let r := farReq f more
      let Answers (u : State) (status : Nat) (data : Bytes) : Prop := ∃ t, exec cmd s = .next t
        ∧ t.out = s.out ++ [.farReply r.place r.job r.core r.seq r.cls status r.step r.attempt data] ∧ SameMemory u t
      (∀ (i : Fin 16) p n e, planOfJob s r.job = some (i, p) → p.teardownCause = none → cacheFull s r = false →
        regionOf s r = some (n, e) → e.plan.toFin = i →
        (r.op = 1 → e.key.toNat = r.key → e.load = true → ∀ bs, planRead s i r.addr r.len = .ok bs → Answers s 0 bs)
        ∧ (r.op = 1 → e.key.toNat ≠ r.key → Answers s 0x2001 [])
        ∧ (r.op ≠ 1 → (r.step = p.step → p.highest ≤ r.attempt) → findCache s r = none → e.key.toNat = r.key →
            (r.op = 2 → e.store = true → ∀ u, planWrite s i r.addr (r.data.take r.len) = .ok u → Answers u 0 [])
            ∧ (r.op = 4 → e.flag = true → r.addr % 8 = 0 → ∀ u, planWrite s i r.addr (r.data.take 8) = .ok u →
                Answers u 0 [])
            ∧ (r.op = 3 → e.atomic = true → Machine.atomicLegal r.aop r.typ = true →
                (e.sole = true → r.place = e.solePlace ∧ r.core = e.soleCore) →
                let w := if r.typ = 2 then 16 else 8
                r.addr % w = 0 → ∀ bs u, planRead s i r.addr w = .ok bs →
                planWrite s i r.addr (leBytes w (atomicResult r.aop r.typ (leNat bs) r.data).1) = .ok u →
                Answers u 0 (leBytes 8 (atomicResult r.aop r.typ (leNat bs) r.data).2)))
        ∧ (r.op ≠ 1 → (r.step = p.step → p.highest ≤ r.attempt) → ∀ c k, findCache s r = some c →
            c.slots.find? (fun x => x.seq.toNat % 64 == r.seq.toNat % 64) = some k → k.seq = r.seq →
            s.bell ≤ k.bell + 100000 → Answers s k.status k.data))
      ∧ (r.op = 1 → planOfJob s r.job = none → cacheFull s r = false → regionOf s r = none → Answers s 0x5005 []))
    ∧ (∀ (g : Frame), s.endpoint.halves = [] → ∀ i,
        (i = Instr.continueFrame g [] [] ∨ (g.more = true ∧ (i = .farRequest g [] [] ∨ i = .farReply g))) →
        ∃ t, exec i s = .next t ∧ Noted { s with endpoint := { s.endpoint with halves := [(g, s.bell)] } } t)
    ∧ (∃ t, exec .continueTimeout s = .next t
        ∧ Noted { s with endpoint := { s.endpoint with
            halves := s.endpoint.halves.filter (fun e => decide (s.bell < e.2 + 40000)) } } t)
    ∧ (∀ job place core k, s.endpoint.caches = [k] → k.job = job → k.place = place → k.core = core →
        (∀ x ∈ k.slots, x.bell + 100000 < s.bell) → s.endpoint.waiting = [] →
        ∃ t, exec (.replayCacheFree job place core) s = .next t
          ∧ Noted { s with endpoint := { s.endpoint with caches := [] } } t)
    ∧ (∀ (f : Frame) more cmd (i : Fin 16) p (c : CoreId) (o : FarOp), Brings s 3 (fun f => .farReply f) f more cmd →
        planOfJob s f.job.toNat = some (i, p) → planCorePhys s p f.srcCore.toNat = some c →
        s.cores[c].far = [o] → o.seq = f.seq → o.place = f.src → o.issued.isSome = true → o.op = 0x18 → o.reg < 64 →
        o.len ≤ 1024 → s.cores[c].view = none → bits (leNat (f.content.take 16)) 127 112 = 0 →
        ∃ t, exec cmd s = .next t ∧ t.cores[c].far = [] ∧ t.out = s.out ∧ t.plans = s.plans ∧ SameMemory s t
          ∧ (∀ d : CoreId, d ≠ c → t.cores[d] = s.cores[d])
          ∧ t.cores[c].regs = { s.cores[c].regs with v := t.cores[c].regs.v }
          ∧ (∀ n, n < 64 → n ≠ o.reg → t.cores[c].regs.v.getD n 0 = s.cores[c].regs.v.getD n 0)
          ∧ ((t.cores[c].regs.v.getD o.reg 0).extractLsb' 0 (8 * o.len)).toNat
              = leNat ((f.content.drop 16 ++ more).take o.len)
          ∧ (∀ b, 8 * o.len ≤ b → b < 8192 → (t.cores[c].regs.v.getD o.reg 0).getLsbD b
              = (s.cores[c].regs.v.getD o.reg 0).getLsbD b))
    ∧ (∀ (c : CoreId) (o : FarOp) b, s.cores[c].far = [o] → o.issued = some b → o.resends = 0 → b + 20000 ≤ s.bell →
        ∃ t, exec (.farResend c o.seq) s = .next t
          ∧ t.out = s.out ++ [.farRequest o.place o.job.toNat s.cores[c].planCore o s.bell]
          ∧ t.cores[c].far = [{ o with resends := 1 }] ∧ t.cores[c].regs = s.cores[c].regs
          ∧ (∀ d : CoreId, d ≠ c → t.cores[d] = s.cores[d]) ∧ t.plans = s.plans ∧ SameMemory s t)
    ∧ (∀ (c : CoreId) (o : FarOp) b (i : Fin 16) p, s.cores[c].far = [o] → o.issued = some b → b + 80000 ≤ s.bell →
        s.cores[c].plan = some i → s.plans[i] = some p → p.teardownCause = none → p.corruptMark = false →
        ∃ t, exec (.targetLost c o.seq) s = .next t
          ∧ t.cores[c].run = .stopped ∧ t.cores[c].far = []
          ∧ t.cores[c].fault = ⟨s.bell, p.step, o.bundle, 0x5001, o.op, o.reg, 3, 0, 5, o.addr⟩
          ∧ (∃ q, t.plans = s.plans.set i (some q) ∧ q.teardownCause = some 0x5001) ∧ SameMemory s t)

/-! ### Steps: issue of descriptors, votes and results -/

/-- 03 R83; 06 R134, R138; 07 R163: C.ISSUE of a cart or reckoner descriptor by the owner of its unit, or of a collective
whose other participants have not issued it, gives the descriptor to its unit and goes to the next bundle, an indirect one
with its base word; a core that does not own the unit only goes on; a core that holds 16 descriptors waits. -/
def Obligations.CIssuesDescriptors : Prop :=
  ∀ (s : State) (c : CoreId) (f : CForm) (i : Fin 16) (p : Plan),
    let k := found s c .c
    let n := f.imm.toNat % 2 ^ 16
    let held (unit : Nat) (dc : Fin 16) : Core := { k with issued := k.issued ++ [⟨unit, n, dc⟩] }
    let goesOn (k' : Core) (t : State) : Prop :=
      EndsBundle k' t.cores[c] ∧ t.cores[c].bundle = k.bundle + 1 ∧ t.cores[c].loops = []
        ∧ t.cores[c].regs = k.regs ∧ ∀ d : CoreId, d ≠ c → t.cores[d] = s.cores[d]
    let wordAt (off : Nat) : Nat := leNat (memRead 0 k.sram off 8)
    let begun := s.modCore c (fun _ => k.begin .c 0x3A)
    f.legal 0x3A = true → executing s c = some (i, p) → k.loops = [] →
    (anyBad k.sramBad 8 (32 * k.bundle) 32 = false → 16 ≤ k.issued.length →
      ∃ t, exec (.cIssue c f) s = .next t ∧ t = s)
    ∧ (CanIssue s c .c [] → k.issued.length < 16 → ∀ dc : Fin 16, dc.val = f.d.toNat →
        (∀ b (u : Fin 32), f.unit = 0 → p.img.cartDesc[n]? = some b → p.img.cartOf[n]? = some u.val →
          (s.carts[u].plan ≠ some i ∨ (u.val, k.planCore) ∉ p.img.cartOwner →
            ∃ t, exec (.cIssue c f) s = .next t ∧ goesOn k t ∧ t = { s with cores := t.cores })
          ∧ (∀ base, s.carts[u].plan = some i → (u.val, k.planCore) ∈ p.img.cartOwner →
              s.carts[u].queue.length + s.carts[u].running.isSome.toNat < 16 →
              ((cartDesc b).ind = false ∧ base = none)
                ∨ ((cartDesc b).ind = true ∧ k.storesDone k.openId = true
                    ∧ anyBad k.sramBad 8 (cartDesc b).src 8 = false ∧ base = some (wordAt (cartDesc b).src % 2 ^ 48)
                    ∧ ∀ r, (cartDesc b).issueFault begun p k.planCore (wordAt (cartDesc b).src % 2 ^ 48) r = none) →
              ∃ t, exec (.cIssue c f) s = .next t ∧ goesOn (held 0 dc) t
                ∧ t = { s with cores := t.cores, carts := s.carts.set u (
                    match s.carts[u].running with
                    | none => { s.carts[u] with running := some ⟨n, dc, c, k.bundle, base⟩ }
                    | some _ => { s.carts[u] with queue := s.carts[u].queue ++ [⟨n, dc, c, k.bundle, base⟩] }) }))
        ∧ (∀ b (u : Fin 32), f.unit = 1 → p.img.reckDesc[n]? = some b → p.img.reckOf[n]? = some u.val →
            (s.recks[u].plan ≠ some i ∨ (u.val, k.planCore) ∉ p.img.reckOwner →
              ∃ t, exec (.cIssue c f) s = .next t ∧ goesOn k t ∧ t = { s with cores := t.cores })
            ∧ (∀ base, s.recks[u].plan = some i → (u.val, k.planCore) ∈ p.img.reckOwner →
                s.recks[u].queue.length + s.recks[u].running.isSome.toNat < 16 →
                ((reckDesc b).ind = false ∧ base = none)
                  ∨ ((reckDesc b).ind = true ∧ k.storesDone k.openId = true
                      ∧ anyBad k.sramBad 8 (reckDesc b).baseOffs 8 = false
                      ∧ base = some (wordAt (reckDesc b).baseOffs % 2 ^ 48)
                      ∧ ∃ q, p.reckClass (reckDesc b).cls = some q
                          ∧ (reckDesc b).issueFault begun p k.planCore (qpClass q) (wordAt (reckDesc b).baseOffs) = none) →
                ∃ t, exec (.cIssue c f) s = .next t ∧ goesOn (held 1 dc) t
                  ∧ t = { s with cores := t.cores, recks := s.recks.set u (
                      match s.recks[u].running with
                      | none => { s.recks[u] with running := some ⟨n, dc, c, k.bundle, base⟩ }
                      | some _ => { s.recks[u] with queue := s.recks[u].queue ++ [⟨n, dc, c, k.bundle, base⟩] }) }))
        ∧ (∀ b, f.unit = 2 → p.img.collDesc[n]? = some b → k.planCore ∈ (collDesc b).parts p → 2 ≤ (collDesc b).partCount →
            s.colls = [] → k.storesDone k.openId = true →
            ∃ t, exec (.cIssue c f) s = .next t ∧ goesOn (held 2 dc) t
              ∧ t = { s with cores := t.cores,
                             colls := [{ emptyColl i n (p.endedOcc n) p.attempt with issuers := [(c, dc)] }] }))

/-- 03 R85; 09 R201, R203: C.HARV and C.HALT wait for the core's outstanding work; then they end the bundle, keep the
registers that a commit will record, and cast the core's vote. The module's vote leaves with the last of them, a commit
vote of the open step, attempt and class. -/
def Obligations.CClosesSteps : Prop :=
  ∀ (s : State) (c : CoreId) (f : CForm) (i : Fin 16) (p : Plan),
    let k := found s c .c
    ∀ e ∈ ([(Instr.cHarv c f, 0x3B, .voted), (Instr.cHalt c f, 0x3C, .halting)] : List (Instr × Nat × RunState)),
      f.legal e.2.1 = true → executing s c = some (i, p) → k.loops = [] →
      let closed (t : State) : Prop :=
        t.cores[c].run = e.2.2 ∧ t.cores[c].bundle = k.bundle + 1 ∧ t.cores[c].regs = k.regs ∧ t.cores[c].view = none
          ∧ t.cores[c].candidate = some ⟨k.regs.s, k.regs.a, k.regs.l, k.dc, [], k.bundle + 1, k.fromS⟩
          ∧ t.cores[c].flagsStep = k.flagsStep ∧ SameMemory s t ∧ ∀ d : CoreId, d ≠ c → t.cores[d] = s.cores[d]
      (anyBad k.sramBad 8 (32 * k.bundle) 32 = false → ¬ (k.moves = [] ∧ k.copies = [] ∧ k.issued = [] ∧ k.far = []) →
        ∃ t, exec e.1 s = .next t ∧ t = s)
      ∧ (CanIssue s c .c [] → k.moves = [] → k.copies = [] → k.issued = [] → k.far = [] →
          ((∃ d : CoreId, d ≠ c ∧ s.cores[d].plan = some i ∧ s.cores[d].hasVoted = false) →
            ∃ t, exec e.1 s = .next t ∧ closed t ∧ t = { s with cores := t.cores })
          ∧ ((∀ d : CoreId, d ≠ c → s.cores[d].plan = some i → s.cores[d].hasVoted = true) → s.colls = [] →
              (∀ d : CoreId, s.cores[d].plan = some i → s.cores[d].replayVote = false
                ∧ (s.cores[d].run ≠ .idle → s.cores[d].run ≠ .sitsOut → classAt p s.cores[d].planCore s.cores[d].ckpt.bundle = some p.cls)) →
              p.members ≤ 1 → p.voteSent = false → p.corruptMark = false → p.twinStop = none → p.twin = false →
              ∃ t, exec e.1 s = .next t ∧ closed t
                ∧ t = { s with cores := t.cores, plans := s.plans.set i (some { p with
                    voteSent := true, ownResult := some (⟨p.step, p.cls, p.attempt, false, false, 0, 0⟩, 0) }) }))

/-- 09 R202-R204, R213; 13 R313: a node holds a vote of the next step, sends the combination of its own vote and its
children's to its parent once all are in, and forwards an early replay at once; a root sends it down as the result with
REOPEN_BELL 50,000 bells ahead. Tallies add modulo 2^61 - 1 and a replay carries none. That a combination which is a
mismatch travels with CLASS 0x1FFF is the model's choice (notes/assumptions/14.md). -/
def Obligations.VotesClimb : Prop :=
  ∀ (s : State) b src word t0 t1 (i : Fin 16) p, let v := Vote.ofWord word t0 t1
    let cmd := Instr.voteReceive b src word (t0, t1)
    Calm s → serving s = true → planOfJob s (voteJob word) = some (i, p) → p.teardownCause = none →
    src ∈ (p.node b).children →
    (v.step = (p.step + 1) % 2 ^ 32 → ∃ t, exec cmd s = .next t
      ∧ Noted { s with plans := s.plans.set i (some { p with heldVotes := p.heldVotes ++ [(b, src, v)] }) } t)
    ∧ (p.step < 2 ^ 32 → p.stepOpen = true → v.step = p.step → v.attempt = p.attempt → (p.node b).sent = false →
        (∀ w m, (p.node b).children = [src] → (p.node b).got = [(p.member, w)] → src ≠ p.member →
          (p.node b).parent = some m → ¬ (v.early = true ∧ v.replay = true) →
          let lane (x y : Nat) : Nat := if w.replay ∨ v.replay then 0 else (x + y) % (2 ^ 61 - 1)
          ∃ t, exec cmd s = .next t
            ∧ Noted { s with
                plans := s.plans.set i (some (p.setNode b { p.node b with
                  got := [(p.member, w), (src, v)], sent := true })),
                out := s.out ++ [.vote b m (Vote.word p.jobId { w with
                  cls := if w.step = v.step ∧ w.cls = v.cls ∧ w.attempt = v.attempt then w.cls else 0x1FFF,
                  early := w.early || v.early, replay := w.replay || v.replay }) (lane w.t0 v.t0) (lane w.t1 v.t1)] } t)
        ∧ ((∀ g ∈ (p.node b).got, g.1 ≠ src) → v.early = true → v.replay = true →
            ∀ u, combineAll ((p.node b).got.map (·.2) ++ [v]) = some u → let x := if u.cls = 0x1FFF then u else v
            (∀ m, (p.node b).parent = some m →
              ∃ t, exec cmd s = .next t
                ∧ Noted { s with
                    plans := s.plans.set i (some (p.setNode b { p.node b with
                      got := (p.node b).got ++ [(src, v)], sent := true })),
                    out := s.out ++ [.vote b m (Vote.word p.jobId x) x.t0 x.t1] } t)
            ∧ ((p.node b).parent = none → p.twinStop = none →
                ∃ t, exec cmd s = .next t
                  ∧ Noted { s with
                      plans := s.plans.set i (some { p.setNode b { p.node b with
                        got := (p.node b).got ++ [(src, v)], sent := true } with
                        ownResult := some (x, s.bell + 50000) }),
                      out := s.out ++ (p.node b).children.map (fun m => .result b m (Vote.word p.jobId x)
                        (BitVec.ofNat 64 (s.bell + 50000)) x.t0 x.t1) } t)))

/-- 09 R198: the step number of a job is 0 at launch, rises by 1 modulo 2^32 at every commit result, and is kept across a
replay; the attempt is 0 on a step's first run and 1 on its replay. -/
def Obligations.StepNumbers : Prop :=
  ∀ (s : State) (i : Fin 16) (p : Plan), serving s = true → s.plans[i] = some p → p.jobId ≠ 0 →
    (∀ l, p.jobState = .armed → p.goHeld = true → p.launchBell = some l → l ≤ s.bell →
      ∃ t q, exec (.launch i) s = .next t ∧ t.plans[i] = some q ∧ q.step = 0 ∧ q.attempt = 0)
    ∧ (p.teardownCause = none → p.stepOpen = true → ∀ b word reopen t0 t1, let v := Vote.ofWord word t0 t1
        planOfJob s (voteJob word) = some (i, p) →
        ((p.node b).parent = none → isOwnResult p word reopen t0 t1 = true) →
        v.cls < 0x1FFE → v.step = p.step → v.attempt = p.attempt →
        (v.replay = false → p.voteSent = true → p.earlySent = false →
          ∃ t q, exec (.harvestResult b word reopen (t0, t1)) s = .next t ∧ t.plans[i] = some q
            ∧ q.step = (p.step + 1) % 2 ^ 32 ∧ q.attempt = 0)
        ∧ (v.replay = true →
            ∃ t q, exec (.harvestResult b word reopen (t0, t1)) s = .next t ∧ t.plans[i] = some q ∧ q.step = p.step
              ∧ (p.attempt = 0 → v.early = false → (∀ r ∈ p.requests, charged p r = true → r.replays = 0) → q.attempt = 1)))
    ∧ (∀ b, p.reopenBell = some b → b ≤ s.bell → p.teardownCause = none → (∀ u ∈ s.subs, u.plan ≠ i) →
        (∀ k ∈ planCores s i, k.moves = [] ∧ k.copies = []) →
        ∃ t q, exec (.attemptReopen i) s = .next t ∧ t.plans[i] = some q ∧ q.step = p.step ∧ q.attempt = 1)

/-- 02 R48; 03 R61, R87; 09 R205, R207, R211: a commit keeps the step's flags and checkpoint, advances the sequence slots
and opens the next step; an ordinary replay opens attempt 1 from the checkpoint; a second replay, a mismatch, a twin stop
and a deadline without a result are job faults with their causes. An early replay stops the step, and attempt 1 opens from
the checkpoint once REOPEN_BELL has come and the cores' local operations have completed. -/
def Obligations.ResultsApply : Prop :=
  ∀ (s : State) (i : Fin 16) (p : Plan), Calm s → serving s = true → s.plans[i] = some p → p.requests = [] →
    s.subs = [] → p.jobId ≠ 0 → p.teardownCause = none →
    let faulted (cause : Nat) (down : List Out) (t : State) : Prop := SameMemory s t
      ∧ (∃ q, t.plans = s.plans.set i (some q) ∧ q.teardownCause = some cause ∧ q.jobState = .fenced ∧ q.step = p.step)
      ∧ t.out = s.out ++ down ++ [.control ⟨reeves s, 0x20, p.jobId, nextControl s p.jobId, cause, []⟩]
    (∀ b word reopen t0 t1, let v := Vote.ofWord word t0 t1
      let cmd := Instr.harvestResult b word reopen (t0, t1)
      let down := if (p.node b).parent.isSome then (p.node b).children.map (fun m => Out.result b m word reopen t0 t1) else []
      p.stepOpen = true → planOfJob s (voteJob word) = some (i, p) →
      ((p.node b).parent = none → isOwnResult p word reopen t0 t1 = true) →
      (v.cls = 0x1FFF → ∃ t, exec cmd s = .next t ∧ faulted 0x5008 down t)
      ∧ (v.cls = 0x1FFE → ∃ t, exec cmd s = .next t ∧ faulted (reopen.toNat % 65536) down t)
      ∧ (v.cls < 0x1FFE → v.step = p.step → v.attempt = p.attempt → v.replay = true → p.attempt = 1 →
          ∃ t, exec cmd s = .next t ∧ faulted 0x5009 down t)
      ∧ (v.cls < 0x1FFE → v.step = p.step → v.attempt = p.attempt → p.heldVotes = [] → p.img.ratios = [] →
          (∀ c : CoreId, s.cores[c].plan = some i → usable s.coreMap[c] = true ∧ s.cores[c].ratioLost = false) →
          (v.replay = false → p.voteSent = true → p.earlySent = false →
            (∃ c : CoreId, s.cores[c].plan = some i ∧ s.cores[c].run = .voted) →
            ∃ t q, exec cmd s = .next t ∧ SameMemory s t ∧ t.plans[i] = some q
              ∧ q.stepOpen = true ∧ q.openBell = s.bell ∧ q.voteSent = false
              ∧ (∀ c : CoreId, s.cores[c].plan = some i → ∀ x, s.cores[c].candidate = some x →
                  t.cores[c].ckpt = x ∧ t.cores[c].flagsCommitted = s.cores[c].flagsCommitted ||| s.cores[c].flagsStep
                  ∧ t.cores[c].flagsStep = 0 ∧ t.cores[c].regs.s = s.cores[c].regs.s
                  ∧ t.cores[c].regs.a = s.cores[c].regs.a ∧ t.cores[c].regs.l = s.cores[c].regs.l
                  ∧ t.cores[c].regs.v = .replicate 64 0 ∧ t.cores[c].bundle = s.cores[c].bundle
                  ∧ (s.cores[c].run = .voted →
                      t.cores[c].run = if rangeEmpty p q.cls s.cores[c].planCore then .sitsOut else .running)
                  ∧ (s.cores[c].run = .halting → t.cores[c].run = .idle))
              ∧ (∀ c : CoreId, s.cores[c].plan ≠ some i → t.cores[c] = s.cores[c])
              ∧ (∀ n : Fin 64, s.seqSlots[n].plan = some i → t.seqSlots[n].p = 0
                  ∧ (s.seqSlots[n].resetMark = false → t.seqSlots[n].cl = s.seqSlots[n].cl + s.seqSlots[n].p
                      ∧ t.seqSlots[n].tl = s.seqSlots[n].tl)
                  ∧ (s.seqSlots[n].resetMark = true → t.seqSlots[n].cl = 0 ∧ t.seqSlots[n].tl = 0)))
          ∧ (v.replay = true → v.early = false → p.attempt = 0 →
            ∃ t q, exec cmd s = .next t ∧ SameMemory s t ∧ t.plans[i] = some q
              ∧ q.stepOpen = true ∧ q.openBell = s.bell ∧ q.voteSent = false ∧ q.replayed = true
              ∧ (∀ c : CoreId, s.cores[c].plan = some i →
                  t.cores[c].bundle = s.cores[c].ckpt.bundle ∧ t.cores[c].dc = s.cores[c].ckpt.dc
                  ∧ t.cores[c].loops = s.cores[c].ckpt.loops ∧ t.cores[c].flagsStep = 0
                  ∧ t.cores[c].flagsCommitted = s.cores[c].flagsCommitted
                  ∧ t.cores[c].regs.s = s.cores[c].ckpt.s ∧ t.cores[c].regs.a = s.cores[c].ckpt.a
                  ∧ t.cores[c].regs.l = s.cores[c].ckpt.l ∧ t.cores[c].regs.v = .replicate 64 0)
              ∧ (∀ n : Fin 64, s.seqSlots[n].plan = some i → t.seqSlots[n].cl = s.seqSlots[n].clOpen
                  ∧ t.seqSlots[n].tl = s.seqSlots[n].tlOpen ∧ t.seqSlots[n].p = 0))))
    ∧ (∀ c, p.stepOpen = true → p.img.classes[p.cls]? = some c → p.openBell + c.workBound + c.harvAllow + 80000 ≤ s.bell →
        ∃ t, exec (.stepTimeout i) s = .next t ∧ faulted 0x5007 [] t)
    ∧ (∀ b word reopen t0 t1, let v := Vote.ofWord word t0 t1
        let cmd := Instr.harvestResult b word reopen (t0, t1)
        p.stepOpen = true → planOfJob s (voteJob word) = some (i, p) →
        ((p.node b).parent = none → isOwnResult p word reopen t0 t1 = true) →
        v.cls < 0x1FFE → v.step = p.step → v.attempt = p.attempt → v.replay = true → v.early = true → p.attempt = 0 →
        (∀ n : Fin 32, s.carts[n].plan = some i → s.carts[n].running = none) →
        ∃ t q, exec cmd s = .next t ∧ SameMemory s t ∧ t.plans[i] = some q
          ∧ q.stepOpen = false ∧ q.reopenBell = some reopen.toNat ∧ q.attempt = 0
          ∧ (∀ c : CoreId, s.cores[c].plan = some i → t.cores[c].far = [] ∧ t.cores[c].issued = []
              ∧ t.cores[c].moves = s.cores[c].moves ∧ t.cores[c].copies = s.cores[c].copies ∧ t.cores[c].dc = s.cores[c].dc)
          ∧ (∀ n : Fin 32, s.carts[n].plan = some i → t.carts[n].queue = [])
          ∧ (∀ n : Fin 32, s.recks[n].plan = some i → t.recks[n].running = none ∧ t.recks[n].queue = []))
    ∧ (∀ b, p.reopenBell = some b → p.heldVotes = [] →
        (s.bell < b → ∃ t, exec (.attemptReopen i) s = .next t ∧ t = s)
        ∧ (b ≤ s.bell → (∀ c : CoreId, s.cores[c].plan = some i → s.cores[c].moves = [] ∧ s.cores[c].copies = []
              ∧ usable s.coreMap[c] = true) →
            ∃ t q, exec (.attemptReopen i) s = .next t ∧ SameMemory s t ∧ t.plans[i] = some q ∧ q.step = p.step
              ∧ q.attempt = 1 ∧ q.stepOpen = true ∧ q.openBell = s.bell ∧ q.reopenBell = none
              ∧ (∀ c : CoreId, s.cores[c].plan = some i →
                  t.cores[c].bundle = s.cores[c].ckpt.bundle ∧ t.cores[c].dc = s.cores[c].ckpt.dc
                  ∧ t.cores[c].loops = s.cores[c].ckpt.loops ∧ t.cores[c].flagsStep = 0
                  ∧ t.cores[c].regs.s = s.cores[c].ckpt.s ∧ t.cores[c].regs.a = s.cores[c].ckpt.a
                  ∧ t.cores[c].regs.l = s.cores[c].ckpt.l ∧ t.cores[c].regs.v = .replicate 64 0
                  ∧ t.cores[c].run = if s.cores[c].run = .idle then .idle
                      else if rangeEmpty p q.cls s.cores[c].planCore then .sitsOut else .running)
              ∧ (∀ c : CoreId, s.cores[c].plan ≠ some i → t.cores[c] = s.cores[c])))

/-! ### The ends of descriptors, slots and requests -/

/-- 03 R84; 06 R133, R136, R146: a cart descriptor whose cells lie in its core's own SRAM copies every element unchanged
and touches no other byte; the completion counter gains 1 and the cart takes its next descriptor. 07 R167: a reckoner
writes the output record of its input. 12 R272, R275, R280, R285: a collective that has ended completes for each
participant; integer sums are exact and narrowed once; a chunk frame that comes before its collective starts is held,
and one of another step is discarded. What a collective leaves in its staging area is not given, and no clause says it. -/
def Obligations.UnitsEnd : Prop :=
  ∀ (s : State) (i : Fin 16) (p : Plan), Calm s → serving s = true → s.plans[i] = some p → p.teardownCause = none →
    (∀ (u : Fin 32) (j : UnitJob) b, let c := j.core
      let k := s.cores[c]
      let d := cartDesc b
      let from_ (x : CartCell) : Nat := cartAddr d.src x.src
      let into (x : CartCell) : Nat := cartAddr d.dst x.dst
      s.carts[u].plan = some i → s.carts[u].running = some j → j.base = none → p.img.cartDesc[j.desc]? = some b →
      d.staged = false → planCorePhys s p k.planCore = some c → k.planCore < 512 → memWf 0 k.sram = true →
      (∀ x ∈ d.written, x.valid = true ∧ OwnElem p k false ⟨0, from_ x, d.esize, 0, 0⟩
        ∧ OwnElem p k true ⟨0, into x, d.esize, 0, 0⟩
        ∧ ∀ y ∈ d.written, from_ x + d.esize ≤ into y ∨ into y + d.esize ≤ from_ x) →
      d.written.Pairwise (fun x y => into x + d.esize ≤ into y ∨ into y + d.esize ≤ into x) →
      k.issued = [⟨0, j.desc, j.dc⟩] →
      ∃ t, exec (.cartDescEnd u [] [] false) s = .next t
        ∧ (∀ x ∈ d.written, ∀ n, n < d.esize →
            memGet 0 t.cores[c].sram (into x - baseOwn + n) = memGet 0 k.sram (from_ x - baseOwn + n))
        ∧ (∀ a, (∀ x ∈ d.written, ¬ (into x ≤ a + baseOwn ∧ a + baseOwn < into x + d.esize)) →
            memGet 0 t.cores[c].sram a = memGet 0 k.sram a)
        ∧ t.cores[c].dc = k.dc.set j.dc (k.dc[j.dc] + 1) ∧ t.cores[c].issued = [] ∧ t.cores[c].regs = k.regs
        ∧ t.carts = s.carts.set u { s.carts[u] with
            status := 0, desc := j.desc, running := s.carts[u].queue.head?, queue := s.carts[u].queue.tail }
        ∧ t.hbm = s.hbm ∧ t.bins = s.bins ∧ t.recks = s.recks ∧ ∀ e : CoreId, e ≠ c → t.cores[e] = s.cores[e])
    ∧ (∀ (u : Fin 32) (j : UnitJob) b q input v, let c := j.core
        let d := reckDesc b
        let at_ (x : Nat) : Nat := canonAddr s.cores[c].planCore (x % 2 ^ 48)
        s.recks[u].plan = some i → s.recks[u].running = some j → j.base = none → p.img.reckDesc[j.desc]? = some b →
        p.reckClass d.cls = some q → d.warm = false → planRead s i (at_ d.inAddr) (qpClass q).bytesIn = .ok input →
        planWrite s i (at_ d.out) (qpRun (qpClass q) input none) = .ok v → s.cores[c].issued = [⟨1, j.desc, j.dc⟩] →
        ∃ t, exec (.reckSolveEnd u [] [] 0 none) s = .next t ∧ SameMemory v t
          ∧ t.cores[c].dc = s.cores[c].dc.set j.dc (s.cores[c].dc[j.dc] + 1) ∧ t.cores[c].issued = []
          ∧ t.cores[c].regs = s.cores[c].regs
          ∧ t.recks = s.recks.set u { s.recks[u] with
              status := 0, desc := j.desc, running := s.recks[u].queue.head?, queue := s.recks[u].queue.tail }
          ∧ t.carts = s.carts)
    ∧ (∀ (k : Coll) (c : CoreId) (dc : Fin 16) b, s.colls = [k] → k.plan = i → k.attempt = p.attempt → k.started = true →
        k.ended = false → k.issuers = [(c, dc)] → p.img.collDesc[k.desc]? = some b → collDue p (collDesc b) k = true →
        collOver p (collDesc b) k = true → s.cores[c].issued = [⟨2, k.desc, dc⟩] →
        (∃ e : CoreId, s.cores[e].plan = some i ∧ s.cores[e].hasVoted = false) →
        ∃ t, exec (.collectiveEnd i k.desc none) s = .next t ∧ t.colls = [] ∧ t.hbm = s.hbm
          ∧ (∀ e : CoreId, t.cores[e].sram = s.cores[e].sram)
          ∧ (∀ a : Fin 512, a.val ∉ (p.bins.drop (collDesc b).stage).take (stageBins (collDesc b)) → t.bins[a] = s.bins[a])
          ∧ t.cores[c].dc = s.cores[c].dc.set dc (s.cores[c].dc[dc] + 1) ∧ t.cores[c].issued = []
          ∧ t.cores[c].regs = s.cores[c].regs ∧ (∀ e : CoreId, e ≠ c → t.cores[e] = s.cores[e])
          ∧ t.mills[0].status = k.status ∧ t.mills[0].desc = k.desc ∧ t.out = s.out)
    ∧ (∀ (d : CollDesc) (ins : List Nat) w, d.moves = false → d.func = 0 → (d.dtype = 4 ∧ w = 32 ∨ d.dtype = 5 ∧ w = 64) →
        ins.length < 2 ^ 60 →
        let r := d.fromWire (d.combine (ins.map (fun x => (d.toWire x).1))).1
        SignedResult w d.sat (ins.map (sext w)).sum r.1 r.2)
    ∧ (∀ (f : Frame) residue src b, planOfJob s f.job.toNat = some (i, p) →
        let h := chunkHdr f.content
        p.memberPlaces.findIdx? (fun x => x == f.src.toNat) = some src → p.img.collDesc[h.desc]? = some b →
        s.mills[millOf h.chunk].inService = true →
        (h.step ≠ p.step → h.phase ≠ 3 → ∃ t, exec (.chunkFrameReceive f residue none) s = .next t
          ∧ Noted { s with counting := { s.counting with
              mills := s.counting.mills.set (millOf h.chunk)
                (s.counting.mills[millOf h.chunk].map (fun k => k.count 0x383 1)) } } t)
        ∧ (h.step = p.step → h.attempt = p.attempt → p.highest ≤ p.attempt → p.endedOcc h.desc ≤ h.occ → s.colls = [] →
            h.phase ≤ 2 → h.corrupt = false → h.isCheck = false → (collDesc b).crc = false →
            ∃ t, exec (.chunkFrameReceive f residue none) s = .next t
              ∧ Noted { s with
                  plans := s.plans.set i (some { p with highest := p.attempt }),
                  colls := [{ emptyColl i h.desc h.occ h.attempt with
                    bufs := [⟨h.chunk, h.phase, src, [(h.frame, (f.content.drop 16).take h.bytes)], none, false, h.flags⟩],
                    residue := if residue = true ∧ h.phase = 0 then [(h.chunk, h.frame)] else [] }] } t))

/-- 03 R58, R60; 09 R210; 10 R222-R229, R233; 17 R388: an ENQUEUE is refused with its code, deferred, or accepted into a
slot and lane that meet its service's BOUND; at its planned start a slot takes its input and its cores enter their
programs with the addresses of lane 0; at its release bell its output goes to the session that asked. -/
def Obligations.SlotsServeRequests : Prop :=
  ∀ (s : State), Calm s → serving s = true →
    (∀ h k ring input, Asks s h k → k.role = 1 →
      let refused (code : Nat) (t : State) : Prop :=
        Served { s with adm := { s.adm with byCode := bump s.adm.byCode code, byRing := bump s.adm.byRing ring } } t h 0x10
          code (leBytes 12 0)
      ((16384 ≤ ring ∨ ringMapped s ring = false ∨ ringCredits s ring = 0) →
        ∃ t, exec (.enqueue h ring input) s = .next t ∧ Served s t h 0x10 0x2007 (leBytes 12 0))
      ∧ (ring < 16384 → ringMapped s ring = true → 0 < ringCredits s ring →
          (ringService s ring = none → ∃ t, exec (.enqueue h ring input) s = .next t ∧ refused 0x3008 t)
          ∧ (∀ i p n v, ringService s ring = some (i, p, n, v) →
              (mayRing s k ring = false → ∃ t, exec (.enqueue h ring input) s = .next t ∧ refused 0x2002 t)
              ∧ (mayRing s k ring = true →
                  let r := newReq s h ring n input
                  (∀ code, code < 2 ^ 16 → decideRequest s ring p n v r = .refuse code →
                    ∃ t, exec (.enqueue h ring input) s = .next t ∧ refused code t)
                  ∧ (requestFits p v n input = false → decideRequest s ring p n v r = .refuse 0x3013)
                  ∧ (requestFits p v n input = true → v.bound = 0 →
                      ∃ t, exec (.enqueue h ring input) s = .next t
                        ∧ Served { s with plans := s.plans.set i (some { p with requests := p.requests ++ [r] }) } t h 0x10
                            0x6001 (leBytes 4 0
                              ++ leBytes 4 (p.requests.countP (fun q => q.service == n && q.slot.isNone)) ++ leBytes 4 0))
                  ∧ (∀ slot lane, decideRequest s ring p n v r = .accept slot lane →
                      (∃ t, exec (.enqueue h ring input) s = .next t
                        ∧ Noted { taken s h.session with
                            plans := s.plans.set i (some { p with
                              requests := p.requests ++ [{ r with slot := some slot, lane := lane }] }),
                            adm := { s.adm with
                              ringUse := (ring, ringWindow s ring, ringUsed s ring + 1)
                                :: s.adm.ringUse.filter (fun e => e.1 != ring) } } t)
                      ∧ (v.stream = false → 0 < v.slotBells →
                          s.bell + v.leadBells ≤ slotStart p v slot ∧ slotEnd p v slot ≤ s.bell + v.bound
                          ∧ lane < v.lanes ∧ laneFree p v n slot lane = true))))))
    ∧ (∀ (i : Fin 16) p v k, s.plans[i] = some p → p.launched = true → p.teardownCause = none → p.runs = [] →
        p.img.services = [v] → p.nextSlot = [k] → v.stream = false →
        (s.bell < slotStart p v k → ∃ t, exec (.slotOpen i) s = .next t ∧ t = s)
        ∧ (∀ r u, slotStart p v k ≤ s.bell → p.requests = [r] → r.service = 0 → r.slot = some k → r.lane = 0 → v.lanes = 1 →
            r.input.length = v.inBytes → v.inBytes ≤ 64 → v.inBase % 64 = 0 → p.heldVotes = [] → s.subs = [] →
            planWrite s i (v.inLane k 0) r.input = .ok u →
            ∃ t q, exec (.slotOpen i) s = .next t ∧ SameMemory u t ∧ t.plans[i] = some q
              ∧ q.stepOpen = true ∧ q.attempt = 0 ∧ q.step = p.step ∧ q.openBell = s.bell ∧ q.widen = 0
              ∧ q.nextSlot = [k + 1] ∧ q.runs = [⟨0, k, false, slotEnd p v k, false, []⟩] ∧ q.requests = p.requests
              ∧ (∀ c : CoreId, s.cores[c].plan = some i → usable s.coreMap[c] = true →
                  t.cores[c].run = (if rangeEmpty p q.cls s.cores[c].planCore then .sitsOut else .running) ∧ t.cores[c].bundle = v.entries.getD s.cores[c].planCore 0
                  ∧ t.cores[c].loops = [] ∧ t.cores[c].dc = .replicate 16 0 ∧ t.cores[c].regs.l = .replicate 4 0
                  ∧ t.cores[c].regs.v = .replicate 64 0
                  ∧ (∀ n, n < 32 → t.cores[c].regs.getS n = if n = 1 then BitVec.ofNat 64 (v.inLane k 0)
                      else if n = 2 then BitVec.ofNat 64 (v.outLane k 0) else 0)
                  ∧ (∀ n, n < 16 → t.cores[c].regs.getA n = if n = 1 then BitVec.ofNat 48 (v.inLane k 0)
                      else if n = 2 then BitVec.ofNat 48 (v.outLane k 0) else 0))
              ∧ (∀ c : CoreId, s.cores[c].plan ≠ some i → t.cores[c].regs = s.cores[c].regs)))
    ∧ (∀ (i : Fin 16) p v n k e w cr, s.plans[i] = some p → p.teardownCause = none → p.img.services[n]? = some v →
        p.runs = [⟨n, k, true, e, w, cr⟩] → v.stream = false →
        (s.bell < e → ∃ t, exec (.slotRelease i (n, k) ⟨[], []⟩) s = .next t ∧ t = s)
        ∧ (∀ r x bs, e ≤ s.bell → p.requests = [r] → r.inSlot v n k = true → receipted s p n = false → s.host.up = true →
            r.session ≠ 0 → findSession s r.session = some x → planRead s i (v.outLane k r.lane) v.outBytes = .ok bs →
            ∃ t z, exec (.slotRelease i (n, k) ⟨[], []⟩) s = .next t ∧ z % 2 ^ 16 = 0 ∧ SameMemory s t
              ∧ t.out = s.out ++ [.host r.session 0x90 r.tag z (leBytes 12 0 ++ bs) r.ring]
              ∧ t.plans = s.plans.set i (some { p with requests := [], runs := [] }) ∧ t.cores = s.cores))

/-! ### Memory, faults and power -/

/-- 08 R174, R178-R180, R185, R188, R189, R191; 20 R446: the plough of a mapped-out channel runs as its registers say and
a run that reads back what it wrote finds nothing; patrol counts what it corrects and records what it cannot, and an error
that the code miscorrects or misses changes its own line only; the end of a window's zero fill, once the map-out is in
flash, and of a plan's. -/
def Obligations.MemoryIsMaintained : Prop :=
  ∀ (s : State), Calm s → serving s = true →
    (∀ h k (ch : Fin 256) ctl arg, Asks s h k → k.role = 0 → let x := s.channels[ch]
      let put : Plough := { x.plough with ctl := ctl &&& 0x07FFFFFFFFFC0000, arg := arg &&& 0xFFFFFFFF07FFFFFF }
      let setTo (g : Plough) : State := { s with channels := s.channels.set ch { x with plough := g } }
      let lines := bits ctl.toNat 58 32 + 1
      ∃ t, exec (.plough h ch ctl arg) s = .next t
        ∧ (x.inService = true ∨ x.granting = true → Served s t h 0x2B 0x2002 [])
        ∧ (x.inService = false → x.granting = false →
            (ctl.getLsbD 0 = false ∨ x.plough.state = 1 → Served (setTo put) t h 0x2B 0 [])
            ∧ (ctl.getLsbD 0 = true → x.plough.state ≠ 1 →
                (bits arg.toNat 26 0 + lines ≤ 75497472 → bits ctl.toNat 26 24 < 6 → bits ctl.toNat 19 18 ≠ 3 →
                  Served (setTo { put with active := (put.ctl, put.arg), state := 1, fail := false, firstFail := 0,
                                           mismatch := 0, corrected := 0 }) t h 0x2B 0 [])
                ∧ (¬ (bits arg.toNat 26 0 + lines ≤ 75497472 ∧ bits ctl.toNat 26 24 < 6 ∧ bits ctl.toNat 19 18 ≠ 3) →
                  Served (setTo { put with state := 3, fail := true, firstFail := 0, mismatch := 0, corrected := 0 }) t h
                    0x2B 0 []))))
    ∧ (∀ (ch : Fin 256) arg v, s.channels[ch].inService = false → s.channels[ch].granting = false →
        ∃ t, exec (.registerWrite ch arg v) s = .next t
          ∧ Noted { s with channels := s.channels.set ch { s.channels[ch] with plough :=
              if arg then { s.channels[ch].plough with
                            ctl := s.channels[ch].plough.ctl &&& 0x07FFFFFFFFFC0000, arg := v &&& 0xFFFFFFFF07FFFFFF }
              else { s.channels[ch].plough with
                     ctl := v &&& 0x07FFFFFFFFFC0000, arg := s.channels[ch].plough.arg &&& 0xFFFFFFFF07FFFFFF } } } t)
    ∧ (∀ (ch : Fin 256), let g := s.channels[ch].plough
        g.state = 1 → bits g.active.1.toNat 19 18 = 0 → bits g.active.1.toNat 23 22 ≤ 1 →
        ∃ t, exec (.ploughDone ch []) s = .next t
          ∧ Noted { s with channels := s.channels.set ch { s.channels[ch] with plough :=
              { g with state := 2, fail := false, firstFail := 0, mismatch := 0, corrected := 0,
                       written := g.active :: g.written } } } t)
    ∧ (∀ line (ch : Fin 256) x, lineOf s (64 * line) = some (ch.val, x) → inService s ch = true →
        (line ∉ s.hbmBad → ∃ t, exec (.patrolRead line 0) s = .next t ∧ t = s)
        ∧ (line ∉ s.hbmBad → ∃ t, exec (.patrolRead line 1) s = .next t ∧ SameMemory s t ∧ t.plans = s.plans
            ∧ t.channels = s.channels.set ch { s.channels[ch] with corrected := min 0xFFFF (s.channels[ch].corrected + 1) }
            ∧ t.counting.corrected[0] = s.counting.corrected[0] + 1)
        ∧ (∃ t, exec (.patrolRead line 2) s = .next t ∧ SameMemory s t ∧ t.plans = s.plans ∧ line ∈ t.hbmBad
            ∧ t.channels = s.channels.set ch { s.channels[ch] with
                uncorrected := min 255 (s.channels[ch].uncorrected + 1) }
            ∧ ∃ r ∈ t.journal.records, r.type = 0x0802 ∧ r.bell = s.bell)
        ∧ (line ∉ s.hbmBad → ∀ o ∈ ([3, 4] : List (Fin 5)), ∃ t, exec (.patrolRead line o) s = .next t ∧ t.plans = s.plans
            ∧ t.cores = s.cores ∧ t.bins = s.bins ∧ (∀ a, a / 64 ≠ line → memGet 0 t.hbm a = memGet 0 s.hbm a)
            ∧ t.counting.corrected[0] = s.counting.corrected[0] + (if o = 3 then 1 else 0)))
    ∧ (∀ unit off, (unit < 576 → (∀ c : CoreId, c.val = unit → off / 8 ∉ s.cores[c].sramBad) →
          ∃ t, exec (.sramPatrol 0 unit off false) s = .next t ∧ SameMemory s t ∧ t.plans = s.plans
            ∧ t.counting.corrected[1] = s.counting.corrected[1] + 1)
        ∧ (unit < 32 → ∃ t, exec (.sramPatrol 1 unit off false) s = .next t ∧ SameMemory s t ∧ t.plans = s.plans
            ∧ t.recks = s.recks ∧ t.counting.corrected[2] = s.counting.corrected[2] + 1)
        ∧ (∀ b : Fin 512, b.val = unit → off / 8 ∉ s.bins[b].bad →
            ∃ t, exec (.sramPatrol 2 unit off false) s = .next t ∧ SameMemory s t ∧ t.plans = s.plans ∧ t.bins = s.bins
              ∧ t.counting.corrected[3] = s.counting.corrected[3] + 1)
        ∧ (∀ c : CoreId, c.val = unit → ∃ t, exec (.sramPatrol 0 unit off true) s = .next t ∧ SameMemory s t
            ∧ t.plans = s.plans ∧ off / 8 ∈ t.cores[c].sramBad ∧ t.cores[c].run = s.cores[c].run
            ∧ t.coreMap = s.coreMap ∧ ∃ r ∈ t.journal.records, r.type = 0x0804 ∧ r.bell = s.bell))
    ∧ (∀ (w : Fin 4), s.autostart.stage ≤ 2 →
        (w.val ∉ s.reforming ∨ mapOutDue s w = true → ∃ t, exec (.mapOutFillEnd w) s = .next t ∧ t = s)
        ∧ (w.val ∈ s.reforming → mapOutDue s w = false → ∃ t, exec (.mapOutFillEnd w) s = .next t ∧ t.plans = s.plans
            ∧ t.cores = s.cores ∧ t.bins = s.bins ∧ t.reforming = s.reforming.erase w.val
            ∧ (∀ a, memGet 0 t.hbm a = if a / windowSpan = w.val then 0 else memGet 0 s.hbm a)
            ∧ ∀ ch : Fin 256, t.channels[ch].inService = (s.channels[ch].inService
                && (s.channels[ch].granting || windowOfChannel s ch != w.val))))
    ∧ (∀ (i : Fin 16) p, s.autostart.stage ≤ 2 → s.plans[i] = some p → ∃ t, exec (.zeroFillEnd i) s = .next t
        ∧ Noted { s with plans := s.plans.set i (some { p with filled := true }) } t)

/-- 05 R132; 09 R213, R217, R218; 20 R435-R437, R443: a core that is fenced leaves the core mapping, its health entry is pending, and its
logical slot passes to the lowest spare of its die, at once where no plan holds it, and after the copy where one does,
whose step is voted an early replay; a vote that it has cast stands for the commit; a spare leaves plain mode when it is tested or taken, and a failed one is
fenced; a stalled router or package stops the module. -/
def Obligations.FencesAndSpares : Prop :=
  ∀ (s : State), Calm s → serving s = true →
    (∀ (c : CoreId) (l : Fin 512) sp, s.coreMap[c] = .mapped l → spareOn s (dieOf c) = some sp →
      ∀ i ∈ [Instr.coreFence c 1, .coreFence c 2, .handshakeStall c],
        (s.cores[c].plan = none → ∃ t, exec i s = .next t ∧ SameMemory s t ∧ t.plans = s.plans
          ∧ t.coreMap = (s.coreMap.set c .fenced).set sp (.mapped l) ∧ t.subs = s.subs
          ∧ t.health.pending = s.health.pending ++ [healthEntry s.mod.startCount 1 1 c]
          ∧ ∃ r ∈ t.journal.records, r.type = 0x0801 ∧ r.bell = s.bell)
        ∧ (∀ (n : Fin 16) p, s.cores[c].plan = some n → s.plans[n] = some p → s.cores[c].run = .running → p.stepOpen = true →
            p.attempt = 0 → p.voteSent = false → p.earlySent = false → p.members ≤ 1 → p.twinStop = none →
            p.teardownCause = none → (∀ e ∈ p.img.cartOwner, e.2 ≠ s.cores[c].planCore) →
            ∃ t, exec i s = .next t ∧ SameMemory s t ∧ t.coreMap = s.coreMap.set c .fenced
              ∧ t.subs = s.subs ++ [⟨c, sp, l, n⟩] ∧ t.cores[c].run = .stopped
              ∧ t.cores[sp] = s.cores[sp].leavePlain
              ∧ (∀ d : CoreId, d ≠ c → d ≠ sp → t.cores[d] = s.cores[d])
              ∧ ∃ q, t.plans = s.plans.set n (some q) ∧ q.voteSent = true ∧ q.step = p.step
                ∧ q.ownResult = some (⟨p.step, p.cls, 0, true, true, 0, 0⟩, s.bell + 50000)))
    ∧ (∀ (c : CoreId), (s.coreMap[c] = .fenced ∨ s.coreMap[c] = .failed) →
        ∀ i ∈ [Instr.coreFence c 1, .coreFence c 2, .handshakeStall c], ∃ t, exec i s = .next t ∧ t = s)
    ∧ (∀ (c : CoreId), s.cores[c].sramCorrected.2 < 4096 → ∃ t, exec (.coreFence c 4) s = .next t ∧ t = s)
    ∧ (∀ (c : CoreId), ∃ t, exec (.spareSelfTest c true) s = .next t
        ∧ (s.coreMap[c] = .spare → (∀ u ∈ s.subs, u.spare ≠ c) →
            t = { s with cores := s.cores.set c { s.cores[c] with plain := false, plainBank := 0 } })
        ∧ (s.coreMap[c] ≠ .spare ∨ (∃ u ∈ s.subs, u.spare = c) → t = s))
    ∧ (∀ (c : CoreId), s.coreMap[c] = .spare → (∀ u ∈ s.subs, u.spare ≠ c) → supports s s.logicalCount = true →
        s.logicalCount / 4 < (usableOn s (dieOf c)).length → s.cores[c].plan = none →
        ∃ t, exec (.spareSelfTest c false) s = .next t ∧ SameMemory s t ∧ t.plans = s.plans
          ∧ t.coreMap = s.coreMap.set c .fenced
          ∧ t.health.pending = s.health.pending ++ [healthEntry s.mod.startCount 1 1 c])
    ∧ (∀ (c sp : CoreId) l (i : Fin 16) p, c ≠ sp → s.subs = [⟨c, sp, l, i⟩] → s.plans[i] = some p → p.teardownCause = none →
        s.cores[c].sramBad = [] →
        ∃ t, exec (.substitutionCopyEnd c []) s = .next t ∧ t.subs = [] ∧ t.coreMap = s.coreMap.set sp (.mapped l)
          ∧ t.plans = s.plans ∧ t.hbm = s.hbm ∧ t.bins = s.bins
          ∧ (∀ a, memGet 0 t.cores[sp].sram a = memGet 0 s.cores[c].sram a)
          ∧ t.cores[sp].plan = s.cores[c].plan ∧ t.cores[sp].planCore = s.cores[c].planCore
          ∧ t.cores[sp].ckpt = s.cores[c].ckpt ∧ t.cores[sp].bundle = s.cores[c].ckpt.bundle
          ∧ t.cores[sp].regs.s = s.cores[c].ckpt.s ∧ t.cores[sp].regs.a = s.cores[c].ckpt.a
          ∧ (s.cores[c].castVote = true → t.cores[sp].run = s.cores[c].run ∧ t.cores[sp].candidate = s.cores[c].candidate
              ∧ t.cores[sp].flagsStep = s.cores[c].flagsStep)
          ∧ t.cores[c].plan = none ∧ (∀ d : CoreId, d ≠ c → d ≠ sp → t.cores[d] = s.cores[d])
          ∧ ∃ r ∈ t.journal.records, r.type = 0x0405 ∧ r.bell = s.bell)
    ∧ (s.mod.startStep = 10 → ∀ i ∈ [Instr.routerStall, .packageFault], ∃ t, exec i s = .next t
        ∧ t.mod = { s.mod with state := .stopped, failCode := 0x000C } ∧ t.draining = none ∧ SameMemory s t
        ∧ t.plans = s.plans ∧ t.cores = s.cores ∧ serving t = false
        ∧ (s.host.up = false → t.out = s.out)
        ∧ (s.host.up = true → t.out.length = s.out.length + s.host.sessions.length
            ∧ ∀ o ∈ t.out.drop s.out.length, ∃ k ∈ s.host.sessions, ∃ w, o = Out.host k.id 0x81 0 w []
              ∧ w / 2 ^ 24 % 8 = 5))

/-- 10 R237; 11 R253, R268; 16 R371; 20 R441: at the end of a second, the corrected errors, refusals and drops of it are
one record each, where there were any, and counting starts again; the health entries that wait enter the record with a
generation one higher. -/
def Obligations.Summaries : Prop :=
  ∀ (s : State), Calm s → serving s = true →
    (let start := s.bell / 1000000000 * 1000000000
     (s.bell < s.counting.correctedStart + 1000000000 → ∃ t, exec .correctedSummary s = .next t ∧ t = s)
     ∧ (s.counting.correctedStart + 1000000000 ≤ s.bell → ∃ t, exec .correctedSummary s = .next t
        ∧ ((∀ n : Fin 7, s.counting.corrected[n] = 0) → Noted { s with
              counting := { s.counting with corrected := .replicate 7 0, correctedStart := start } } t)
        ∧ ((∃ n : Fin 7, s.counting.corrected[n] ≠ 0) →
            let j := journalRaw s 0x0807 0 0 0xFF (leBytes 8 s.counting.correctedStart
              ++ s.counting.corrected.toList.flatMap (leBytes 4))
            Noted { j with counting := { j.counting with corrected := .replicate 7 0, correctedStart := start } } t))
     ∧ (s.bell < s.adm.secondStart + 1000000000 → ∃ t, exec .refusalSummary s = .next t ∧ t = s)
     ∧ (s.adm.secondStart + 1000000000 ≤ s.bell → ∃ t, exec .refusalSummary s = .next t
        ∧ (s.adm.byCode = [] → Noted { s with
              adm := { s.adm with byCode := [], byRing := [], secondStart := start } } t)
        ∧ (∀ code n ring m, s.adm.byCode = [(code, n)] → s.adm.byRing = [(ring, m)] →
            Noted { journalRaw s 0x0303 0 0 0xFF (leBytes 8 s.adm.secondStart ++ (leBytes 2 code ++ leBytes 4 n ++ leBytes 66 0)
                      ++ (leBytes 2 ring ++ leBytes 4 m ++ leBytes 54 0)) with
                    adm := { s.adm with byCode := [], byRing := [], secondStart := start } } t))
     ∧ (s.bell < s.endpoint.dropStart + 1000000000 → ∃ t, exec .dropSummary s = .next t ∧ t = s)
     ∧ (s.endpoint.dropStart + 1000000000 ≤ s.bell → ∃ t, exec .dropSummary s = .next t
        ∧ (s.endpoint.drops = [] → Noted { s with endpoint := { s.endpoint with drops := [], dropStart := start } } t)
        ∧ (∀ job n, s.endpoint.drops = [(1, job, n)] →
            Noted { journalRaw s 0x0504 0 0 0xFF (leBytes 4 n ++ leBytes 8 0 ++ leBytes 2 job ++ leBytes 4 n) with
                    endpoint := { s.endpoint with drops := [], dropStart := start } } t)))
    ∧ (s.health.pending ≠ [] → 6 ≤ s.mod.startStep →
        let h : HealthRec := { s.health with
          generation := s.health.generation + 1, entries := s.health.entries ++ s.health.pending, pending := [] }
        (∃ t, exec (.healthWrite 0) s = .next t ∧ t.health = h ∧ t.flash = s.flash ∧ t.plans = s.plans
          ∧ ∃ r ∈ t.journal.records, r.type = 0x0104 ∧ r.bell = s.bell)
        ∧ (memWf 0xFF s.flash[0] = true → memWf 0xFF s.flash[1] = true →
            ∃ t, exec (.healthWrite 0xF) s = .next t ∧ t.health = h ∧ t.plans = s.plans
              ∧ (∀ dev : Fin 2, ∀ a ∈ [0x02250000, 0x02270000], ∀ n x, (healthBytes h)[n]? = some x →
                  (healthBytes h).length ≤ 0x20000 → memGet 0xFF t.flash[dev] (a + n) = x)
              ∧ ∃ r ∈ t.journal.records, r.type = 0x0103 ∧ r.bell = s.bell))
    ∧ (s.health.pending = [] → ∀ ok, ∃ t, exec (.healthWrite ok) s = .next t ∧ t = s)

/-- 05 R132; 16 R367, R368, R370, R371, R373; 19 R424, R427: a start that meets no failure reaches step 8 with the next
START_COUNT and a core mapping of 512, 448 or 384; every other start ends with one of the codes of the *Start failure
table*; the seal makes the module READY with the starting cap and its reeve role and asks both reeves to join. -/
def Obligations.StartsAndSeals : Prop :=
  ∀ (s : State),
    let started (t : State) : Prop :=
      (t.mod.state = .starting ∧ t.mod.startStep = 8 ∧ t.mod.failCode = 0
          ∧ (t.logicalCount = 512 ∨ t.logicalCount = 448 ∨ t.logicalCount = 384)
          ∧ ∃ h d, selectHealth s = some (h, d) ∧ t.mod.startCount = h.startCount + 1)
        ∨ (t.mod.state = .stopped ∧ t.mod.failCode ∈ [1, 2, 3, 6])
        ∨ (t.mod.state = .halted ∧ t.mod.failCode ∈ [4, 5])
    (∀ f, (s.mod.state = .off ∨ s.mod.state = .starting ∧ s.mod.startStep ≤ 1) → s.mod.failCode = 0 →
      s.power.fuseOpen = false → s.power.dark = false →
      ∃ t, exec (.inputValid f) s = .next t ∧ t.power.inputOk = true
        ∧ (f.powerOk = false → t.mod.state = .starting ∧ t.mod.startStep = 2 ∧ t.mod.failCode = 7 ∧ t.bellRunning = true)
        ∧ (f.powerOk = true → f.referenceOk = false → t.mod.state = .starting ∧ t.mod.startStep = 3 ∧ t.mod.failCode = 8
            ∧ t.bellRunning = s.bellRunning)
        ∧ (f.powerOk = true → f.referenceOk = true → started t ∧ t.bellRunning = true ∧ t.bell = 0
            ∧ (selectHealth s = none → t.mod.state = .stopped ∧ t.mod.failCode ∈ [1, 2])
            ∧ (f.healthCopies = 0 → t.mod.state = .stopped ∧ t.mod.failCode ∈ [1, 2, 3])))
    ∧ (∀ f, s.mod.state = .starting → s.mod.failCode = 8 →
        ∃ t, exec (.referenceRestored f) s = .next t ∧ started t ∧ t.bellRunning = true ∧ t.bell = 0)
    ∧ (Calm s → s.mod.state = .starting → s.mod.startStep = 8 → s.host.up = false → cfgAutostart s = false →
        ∃ t, exec .seal s = .next t ∧ SameMemory s t ∧ t.mod = { s.mod with state := .ready, startStep := 10 }
          ∧ t.adm.capW = capStart s ∧ t.cfg = s.cfg ∧ t.plans = s.plans
          ∧ t.domain = ⟨false, false, cfgPrimary s, cfgStandby s⟩
          ∧ t.reeve.role = (if cfgPlace s = cfgPrimary s then 1 else if cfgPlace s = cfgStandby s then 2 else 0)
          ∧ (∀ c : CoreId, t.cores[c] = { s.cores[c] with plain := false, plainBank := 0 })
          ∧ ∃ quote, Told s t (if cfgStandby s = cfgPrimary s then [cfgPrimary s] else [cfgPrimary s, cfgStandby s]) 0x01 0 0
              (leBytes 4 (cfgPlace s) ++ leBytes 1 s.mod.grade.toNat ++ leBytes 2 s.logicalCount ++ quote))
    ∧ (s.mod.state ≠ .starting → ∃ t, exec .seal s = .next t ∧ t.mod.state = s.mod.state ∧ t.adm = s.adm ∧ t.out = s.out)

/-- 08 R181; 10 R234-R236; 19 R411-R414, R417-R419, R421, R422, R427: what a lost, surging or reversed input, an open fuse
and a shorted control rail take; dips are ridden through; the power manager moves a core rail by at most 10 mV a reading
and down under cap pressure; hot dies and stacks refuse work, stop the module after ten readings, and set the refresh
code; a shorted main rail or a lost reference stops the module. -/
def Obligations.PowerAndHeat : Prop :=
  ∀ (s : State),
    let dark (t : State) : Prop :=
      t.mod = { ModInfo.reset with grade := s.mod.grade, stepping := s.mod.stepping } ∧ t.power.inputOk = false
        ∧ t.bellRunning = false ∧ t.flash = s.flash ∧ t.fuses = { s.fuses with claimPermit := false } ∧ t.hbm = []
        ∧ t.cores = State.reset.cores ∧ t.plans = State.reset.plans ∧ t.pending = s.pending
    (∀ ms, ∃ t, exec (.inputLoss ms) s = .next t ∧ dark t ∧ t.power.dark = false ∧ t.out = s.out
        ∧ t.power.fuseOpen = (s.power.fuseOpen && decide (ms < 1000)))
    ∧ (∃ t, exec .inputReversed s = .next t ∧ dark t ∧ t.power.reversed = true ∧ t.out = s.out)
    ∧ (s.power.inputOk = true →
        (∀ us, ∃ t, exec (.inputDip us) s = .next t
          ∧ (us ≤ 500 → t = { s with power := { s.power with flags := s.power.flags ||| 4 } }) ∧ (500 < us → t = s))
        ∧ (∀ mv us, ∃ t, exec (.inputSurge mv us) s = .next t
            ∧ (72000 < mv ∨ 60000 < mv ∧ 10000 < us → dark t ∧ t.power.fuseOpen = true ∧ t.out = s.out ++ [.fuse])
            ∧ (¬ (72000 < mv ∨ 60000 < mv ∧ 10000 < us) → t = s))
        ∧ (∀ ma, ∃ t, exec (.inputOvercurrent ma) s = .next t
            ∧ (110000 < ma → dark t ∧ t.power.fuseOpen = true ∧ t.out = s.out ++ [.fuse]) ∧ (ma ≤ 110000 → t = s))
        ∧ (∀ (r : Fin 16) phase amps, 13 ≤ r.val → ∃ t, exec (.railShort r phase amps) s = .next t ∧ dark t
            ∧ t.power.dark = true)
        ∧ (∀ p : PowerReading, 4300 < p.inputWNow.toNat → 10 ≤ s.power.surgeTicks →
            ∃ t, exec (.powerManagerTick p) s = .next t ∧ dark t ∧ t.power.fuseOpen = true)
        ∧ (∀ (p : PowerReading), p.inputW5ms.toNat ≤ 3600 → p.inputWNow.toNat ≤ 4300 → Calm s → serving s = true →
            s.mod.startStep = 10 →
            ∃ t, exec (.powerManagerTick p) s = .next t ∧ SameMemory s t ∧ t.plans = s.plans ∧ t.power.surgeTicks = 0
              ∧ (∀ r : Fin 16, 4 ≤ r.val → t.power.rails[r] = s.power.rails[r])
              ∧ (∀ (r : Fin 16) (h : r.val < 4), let v := s.power.rails[r].mv
                  let f := (p.vf[r.val].toNat + 9) / 10 * 10
                  let v' := t.power.rails[r].mv
                  (v = 0 → v' = 0)
                  ∧ (550 ≤ v → v ≤ 850 → 550 ≤ v' ∧ v' ≤ 850 ∧ v' ≤ v + 10 ∧ v ≤ v' + 10)
                  ∧ (s.adm.capW < p.inputW1ms.toNat → 550 ≤ f → f < v → v ≤ 850 → v' = max (v - 10) f)
                  ∧ (s.adm.capW < p.inputW1ms.toNat → v = f → 550 ≤ f → f ≤ 850 → v' = v)))
        ∧ (∀ (r : Fin 16), s.power.rails[r].mv ≠ 0 → ∃ t, exec (.senseOpen r) s = .next t
            ∧ t = { s with power := { s.power with
                flags := s.power.flags ||| 32,
                rails := s.power.rails.set r ⟨if s.power.rails[r].onLocalSense then s.power.rails[r].mv
                  else s.power.rails[r].mv + s.sensors.railA[r].toNat * Config.pathMicroOhm r / 100000, true⟩ } })
        ∧ (Calm s → serving s = true → s.mod.startStep = 10 →
            (∀ (r : Fin 16) phase amps, r.val < 13 → s.power.rails[r].mv ≠ 0 →
              ∃ t, exec (.railShort r phase amps) s = .next t
                ∧ t.mod = { s.mod with state := .stopped, failCode := 0x0009 }
                ∧ (∀ q : Fin 16, q.val < 13 → t.power.rails[q].mv = 0)
                ∧ (∀ q : Fin 16, 13 ≤ q.val → t.power.rails[q] = s.power.rails[q])
                ∧ t.power.flags = s.power.flags ||| 16 ∧ SameMemory s t ∧ t.plans = s.plans)
            ∧ (∃ t, exec .referenceMissing s = .next t ∧ t.mod = { s.mod with state := .stopped, failCode := 0x000B }
                ∧ t.bellRunning = false ∧ t.power.flags = s.power.flags ||| 64 ∧ SameMemory s t ∧ t.plans = s.plans)
            ∧ (∀ (d : Fin 64) (x : BitVec 16),
                (16 * 115 < x.toInt → 9 ≤ s.power.dieStop[d] → ∃ t, exec (.thermalReading d x) s = .next t
                  ∧ t.mod = { s.mod with state := .stopped, failCode := 0x000A }
                  ∧ ∀ q : Fin 16, q.val < 13 → t.power.rails[q].mv = 0)
                ∧ (16 * 105 < x.toInt → x.toInt ≤ 16 * 115 → ∃ t, exec (.thermalReading d x) s = .next t
                    ∧ t.sensors = { s.sensors with die := s.sensors.die.set d x } ∧ refusingThermal t = true
                    ∧ t.power = { s.power with flags := s.power.flags ||| 1, dieStop := s.power.dieStop.set d 0 }
                    ∧ SameMemory s t ∧ t.plans = s.plans)
                ∧ (x.toInt ≤ 16 * 102 → s.adm.hotDies = [(d.val, 9)] → s.adm.railThermal = false → s.adm.stackHot = false →
                    ∃ t, exec (.thermalReading d x) s = .next t ∧ refusingThermal t = false ∧ SameMemory s t))
            ∧ (∀ (k : Fin 16) (x : BitVec 16),
                (x.toInt ≤ 16 * 110 → ∃ t, exec (.stackTempRead k x) s = .next t ∧ SameMemory s t ∧ t.plans = s.plans
                  ∧ t.sensors.stack = s.sensors.stack.set k x ∧ t.power.stackStop[k] = 0
                  ∧ ((cfgTempCeil s : Int) * 16 < x.toInt → refusingThermal t = true)
                  ∧ ∀ ch : Fin 256, (ch.val / 16 ≠ k.val → t.channels[ch] = s.channels[ch])
                      ∧ (ch.val / 16 = k.val → 16 * 95 ≤ x.toInt → t.channels[ch].refresh = 2)
                      ∧ (ch.val / 16 = k.val → 16 * 85 ≤ x.toInt → x.toInt < 16 * 95 →
                          (∀ e : Fin 256, e.val / 16 = k.val → s.channels[e].refresh = 0) → t.channels[ch].refresh = 1)
                      ∧ (ch.val / 16 = k.val → x.toInt < 16 * 85 →
                          (∀ e : Fin 256, e.val / 16 = k.val → s.channels[e].refresh = 0) → t.channels[ch].refresh = 0))
                ∧ (16 * 110 < x.toInt → 9 ≤ s.power.stackStop[k] → ∃ t, exec (.stackTempRead k x) s = .next t
                    ∧ t.mod = { s.mod with state := .stopped, failCode := 0x000A }
                    ∧ ∀ q : Fin 16, q.val < 13 → t.power.rails[q].mv = 0))))

/-- 16 R374, R375; 15 R356; 19 R428, R429: each test instruction selects its register: IDCODE the 32 bits of the stepping,
READ_START ST_START while it is open, the boundary instructions the boundary register (its length and what it holds are
free values, notes/assumptions/14.md), every other one the one-bit bypass register; a vendor debug instruction, once debug is
open, is refused by name; a module without power has no test access. -/
def Obligations.TestAccess : Prop :=
  ∀ (s : State),
    let sel (ir : BitVec 8) (tdo : Nat × Nat) : State := { s with tap := { s.tap with ir := ir, tdo := tdo } }
    (s.power.inputOk = true →
      (∃ t, exec .idcode s = .next t ∧ t = sel 0x01 (32, 0x0641656B + s.mod.stepping.toNat * 2 ^ 28))
      ∧ (∀ e ∈ ([(Instr.clamp, 0x03), (.highz, 0x04), (.bypass, 0xFF)] : List (Instr × BitVec 8)),
          ∃ t, exec e.1 s = .next t ∧ t = sel e.2 (1, 0))
      ∧ (∀ e ∈ ([(Instr.extest, 0x00), (.samplePreload, 0x02), (.extestPulse, 0x05), (.extestTrain, 0x06)] :
            List (Instr × BitVec 8)),
          ∃ t n v, exec e.1 s = .next t ∧ v < 2 ^ n ∧ t = { sel e.2 (n, v) with free := s.free + 2 })
      ∧ (∃ t, exec .readStart s = .next t
          ∧ (s.tap.debugOpen = false → 3 ≤ s.mod.startStep → s.mod.startStep < 10 → t = sel 0x10 (64, stStart s))
          ∧ (s.tap.debugOpen = false → (s.mod.startStep < 3 ∨ 10 ≤ s.mod.startStep) → t = sel 0x10 (1, 0)))
      ∧ (∀ op, s.tap.debugOpen = false → ∃ t, exec (.vendorDebug op) s = .next t ∧ t = sel op (1, 0))
      ∧ (∀ op : BitVec 8, s.tap.debugOpen = true → 0x20 ≤ op.toNat → op.toNat ≤ 0xFE →
          exec (.vendorDebug op) s = .refused .vendorDebug))
    ∧ (s.power.inputOk = false →
        ∀ i ∈ [Instr.idcode, .clamp, .highz, .bypass, .extest, .samplePreload, .extestPulse, .extestTrain, .readStart],
        ∃ t, exec i s = .next t ∧ t.tap = s.tap)

/-! ### The whole block -/

/-- A step takes the command at the front of the queue and runs it on the state with the queue's rest. Every command
completes in every state, but for a vendor debug instruction (R428) and an ill-formed slot instruction (03 R57). On an empty queue the bell ticks once where it runs, and one tick in 2,000 at most is steered
toward the time source (11 R267; the model's choices, notes/assumptions/2.md and 28.md). No word spells a command, since the table
gives no bits (notes/assumptions/16.md). -/
def Obligations.StepRunsCommands : Prop :=
  ∀ (s : State),
    (∀ i rest, s.pending = i :: rest → step s = exec i { s with pending := rest })
    ∧ (∀ i, step (s.withCommand i) = exec i s)
    ∧ (∀ i, (slotOf i = none ∧ ∀ op, i ≠ .vendorDebug op)
          ∨ ((slotOf i).isSome = true ∧ i.wellFormed = true) →
        ∃ t, exec i s = .next t)
    ∧ (s.pending = [] → s.bellRunning = true →
        (s.timeError = 0 ∨ timeSource s = cfgPlace s ∨ s.steerTicks + 1 < 2000 →
          step s = .next { s with bell := s.bell + 1, steerTicks := s.steerTicks + 1 })
        ∧ (timeSource s ≠ cfgPlace s → 2000 ≤ s.steerTicks + 1 →
            (0 < s.timeError → step s = .next { s with bell := s.bell + 2, steerTicks := 0, timeError := s.timeError - 1 })
            ∧ (s.timeError < 0 → step s = .next { s with steerTicks := 0, timeError := s.timeError + 1 })))
    ∧ (s.pending = [] → s.bellRunning = false → step s = .next s)
    ∧ (∀ nbits w, decodeTableWord nbits w = none ∧ s.withFetchWord nbits w = s)

/-- 15 R351; 16 R367; 18 R397, R405; 19 R411: before its input is valid the module is off, its bell stands, no command
waits, nothing is loaded, no session is open; every measurement register is zero; every counter is zero, not enabled, at
its unit's first event, and the bandwidth window is 1,000,000 bells. Where the specification gives no reset value the
value is the model's (notes/assumptions/1.md), and no clause here rests on one; the invariant holds. -/
def Obligations.ResetState : Prop :=
  let s := State.reset
  s.pending = [] ∧ s.mod.state = .off ∧ s.power.inputOk = false ∧ s.bellRunning = false ∧ s.host.sessions = []
  ∧ (∀ i : Fin 16, s.plans[i] = none) ∧ (∀ i : Fin 16, s.meas[i] = List.replicate 64 0)
  ∧ (∀ (c : CoreId) (n : Fin 8), s.cores[c].counters[n] = ⟨0x000, false, false, 0⟩)
  ∧ (∀ (p : Fin 32) (n : Fin 4), s.ports[p].counters[n] = ⟨0x300, false, false, 0⟩)
  ∧ (∀ (c : Fin 256) (n : Fin 4), s.counting.channels[c][n] = ⟨0x200, false, false, 0⟩)
  ∧ (∀ (m : Fin 2) (n : Fin 8), s.counting.mills[m][n] = ⟨0x380, false, false, 0⟩)
  ∧ (∀ n : Fin 16, s.counting.control[n] = ⟨0x400, false, false, 0⟩)
  ∧ s.counting.bwWindow = 1000000 ∧ Inv s

/-- Every step from a state in which every memory is in canonical form, and no open bundle is numbered beyond its core's
work, leads to such a state. -/
def Obligations.InvariantKept : Prop := ∀ (s t : State), Inv s → step s = .next t → Inv t

/-- 03 R55, R57, R67, R70; 04 R93, R97; 05 R112, R115: decoding the word of a well-formed slot instruction gives the
instruction back, with every operand at every value that the encoding admits; no word decodes to an ill-formed one, and
an ill-formed one, which no loaded program holds, is refused by name, a V-slot instruction where its core is not in plain
mode, whose effective COUNT may be legal where COUNT is not (05 R131). -/
def Obligations.EncodingRoundTrip : Prop :=
  (∀ (i : Instr) (w : BitVec 64) (sl : Slot), i.wellFormed = true → encode i = some w → slotOf i = some sl →
    ∃ c : CoreId, decodeSlot sl c w = some i)
  ∧ (∀ (i : Instr) (w : BitVec 64) (sl : Slot) (c : CoreId), decodeSlot sl c w = some i → i.wellFormed = true)
  ∧ (∀ (i : Instr) (s : State), i.wellFormed = false → (slotOf i = some .v → ∀ c : CoreId, plainMode s c = false) →
      exec i s = .refused .illFormed)
end

