-- ==== Sys2Proof/Laws/Memory.lean ====
section
/-! SUPPORT. Memory as canonical lists of cells: every operation keeps the form, a read after a write gives what was
written, and a write leaves every other byte alone. -/

namespace Sys2Proof.Machine
open Sys2Proof

/-- Every listed address is above a bound. -/
def Above (b : Nat) (m : Mem) : Prop := ∀ e ∈ m, b < e.1

theorem memWf_cons {d : Byte} {a : Nat} {w : Byte} {t : Mem} :
    memWf d ((a, w) :: t) = true ↔ w ≠ d ∧ Above a t ∧ memWf d t = true := by
  induction t generalizing a w with
  | nil => simp [memWf, Above]
  | cons e t ih =>
    obtain ⟨b, v⟩ := e
    simp only [memWf, Bool.and_eq_true, bne_iff_ne, decide_eq_true_eq, ih, and_assoc]
    constructor
    · rintro ⟨h1, h2, h3, h4, h5⟩
      refine ⟨h1, ?_, h3, h4, h5⟩
      intro e he
      rcases List.mem_cons.mp he with rfl | he
      · exact h2
      · exact Nat.lt_trans h2 (h4 e he)
    · rintro ⟨h1, h2, h3, h4, h5⟩
      exact ⟨h1, h2 (b, v) (List.mem_cons_self ..), h3, h4, h5⟩

theorem memGet_above {d : Byte} {m : Mem} {a : Nat} (h : Above a m) : memGet d m a = d := by
  cases m with
  | nil => rfl
  | cons e t =>
    obtain ⟨b, w⟩ := e
    have : a < b := h (b, w) (List.mem_cons_self ..)
    simp [memGet, this]

theorem memSet_above {d : Byte} {m : Mem} {a b : Nat} {v : Byte} (h : Above b m) (hb : b < a) : Above b (memSet d m a v) := by
  induction m with
  | nil =>
    simp only [memSet]; split
    · exact h
    · intro e he; simp only [List.mem_singleton] at he; subst he; exact hb
  | cons e t ih =>
    obtain ⟨x, w⟩ := e
    have ht : Above b t := fun e he => h e (List.mem_cons_of_mem _ he)
    have hx : b < x := h (x, w) (List.mem_cons_self ..)
    simp only [memSet]
    split
    · split
      · exact h
      · intro e he; rcases List.mem_cons.mp he with rfl | he
        · exact hb
        · exact h e he
    · split
      · split
        · exact ht
        · intro e he; rcases List.mem_cons.mp he with rfl | he
          · exact hb
          · exact ht e he
      · intro e he; rcases List.mem_cons.mp he with rfl | he
        · exact hx
        · exact ih ht e he

/-- Storing a byte keeps the canonical form. -/
theorem memSet_wf {d : Byte} {m : Mem} (h : memWf d m = true) (a : Nat) (v : Byte) : memWf d (memSet d m a v) = true := by
  induction m with
  | nil => simp only [memSet]; split <;> simp_all [memWf]
  | cons e t ih =>
    obtain ⟨x, w⟩ := e
    obtain ⟨h1, h2, h3⟩ := memWf_cons.mp h
    simp only [memSet]
    split
    · rename_i hlt
      split
      · exact h
      · refine memWf_cons.mpr ⟨by assumption, ?_, h⟩
        intro e he; rcases List.mem_cons.mp he with rfl | he
        · exact hlt
        · exact Nat.lt_trans hlt (h2 e he)
    · split
      · rename_i heq
        split
        · exact h3
        · exact memWf_cons.mpr ⟨by assumption, heq ▸ h2, h3⟩
      · exact memWf_cons.mpr ⟨h1, memSet_above h2 (by omega), ih h3⟩

/-- A read after a store: the byte stored at its address, and every other byte as before. -/
theorem memGet_memSet {d : Byte} {m : Mem} (h : memWf d m = true) (a b : Nat) (v : Byte) :
    memGet d (memSet d m a v) b = if b = a then v else memGet d m b := by
  induction m with
  | nil =>
    simp only [memSet]
    split
    · simp_all [memGet]
    · simp only [memGet]; split
      · rw [if_neg (by omega)]
      · split <;> simp_all
  | cons e t ih =>
    obtain ⟨x, w⟩ := e
    obtain ⟨h1, h2, h3⟩ := memWf_cons.mp h
    simp only [memSet]
    split
    · rename_i hlt
      split
      · rename_i hv
        subst hv
        split
        · rename_i hb; subst hb; simp [memGet, hlt]
        · rfl
      · simp only [memGet]
        split
        · rw [if_neg (by omega), if_pos (by omega)]
        · rfl
    · split
      · rename_i heq
        subst heq
        split
        · rename_i hv
          subst hv
          by_cases hb : b = a
          · subst hb; rw [if_pos rfl]; exact memGet_above h2
          · rw [if_neg hb]; simp only [memGet, hb, if_false]
            split
            · rename_i hlt
              exact memGet_above (fun e he => Nat.lt_trans hlt (h2 e he))
            · rfl
        · by_cases hb : b = a
          · subst hb; simp [memGet]
          · rw [if_neg hb]; simp only [memGet, hb, if_false]
      · rename_i hne hneq
        simp only [memGet, ih h3]
        split
        · rw [if_neg (by omega)]
        · split
          · rw [if_neg (by omega)]
          · rfl

theorem memWrite_wf {d : Byte} : ∀ (bs : Bytes) {m : Mem} (a : Nat), memWf d m = true → memWf d (memWrite d m a bs) = true
  | [], _, _, h => h
  | _ :: bs, _, _, h => memWrite_wf bs _ (memSet_wf h _ _)

/-- A read after a write of several bytes. -/
theorem memGet_memWrite {d : Byte} : ∀ (bs : Bytes) {m : Mem} (a b : Nat), memWf d m = true →
    memGet d (memWrite d m a bs) b = if a ≤ b ∧ b < a + bs.length then bs.getD (b - a) 0 else memGet d m b
  | [], _, a, b, _ => by simp [memWrite]
  | v :: bs, m, a, b, h => by
    rw [memWrite, memGet_memWrite bs _ _ (memSet_wf h _ _), memGet_memSet h]
    by_cases h1 : b = a
    · subst h1; simp
    · by_cases h2 : a + 1 ≤ b ∧ b < a + 1 + bs.length
      · rw [if_pos h2, if_pos (by simp only [List.length_cons]; omega)]
        obtain ⟨k, rfl⟩ : ∃ k, b = a + 1 + k := ⟨b - (a + 1), by omega⟩
        have e1 : a + 1 + k - (a + 1) = k := by omega
        have e2 : a + 1 + k - a = k + 1 := by omega
        rw [e1, e2]; rfl
      · rw [if_neg h2, if_neg h1, if_neg (by simp only [List.length_cons]; omega)]

theorem memRead_length (d : Byte) (m : Mem) : ∀ (n a : Nat), (memRead d m a n).length = n
  | 0, _ => rfl
  | n + 1, a => by simp [memRead, memRead_length d m n]

theorem memRead_getElem? (d : Byte) (m : Mem) : ∀ (n a k : Nat), k < n → (memRead d m a n)[k]? = some (memGet d m (a + k))
  | 0, _, _, h => by omega
  | n + 1, a, 0, _ => by simp [memRead]
  | n + 1, a, k + 1, h => by
    simp only [memRead, List.getElem?_cons_succ]
    rw [memRead_getElem? d m n (a + 1) k (by omega), show a + 1 + k = a + (k + 1) by omega]

theorem memClear_wf {d : Byte} {m : Mem} (h : memWf d m = true) (lo hi : Nat) : memWf d (memClear m lo hi) = true := by
  induction m with
  | nil => rfl
  | cons e t ih =>
    obtain ⟨x, w⟩ := e
    obtain ⟨h1, h2, h3⟩ := memWf_cons.mp h
    simp only [memClear, List.filter_cons]
    split
    · exact memWf_cons.mpr ⟨h1, fun e he => h2 e (List.mem_of_mem_filter he), ih h3⟩
    · exact ih h3

/-- A cleared range reads as unlisted; the rest reads as before. -/
theorem memGet_memClear {d : Byte} {m : Mem} (h : memWf d m = true) (lo hi a : Nat) :
    memGet d (memClear m lo hi) a = if lo ≤ a ∧ a < hi then d else memGet d m a := by
  induction m with
  | nil => simp [memClear, memGet]
  | cons e t ih =>
    obtain ⟨x, w⟩ := e
    obtain ⟨h1, h2, h3⟩ := memWf_cons.mp h
    have ih := ih h3
    simp only [memClear, List.filter_cons] at ih ⊢
    by_cases hx : lo ≤ x ∧ x < hi
    · have : (!(decide (lo ≤ x) && decide (x < hi))) = false := by simp [hx]
      rw [this, if_neg (by simp), ih]
      by_cases ha : lo ≤ a ∧ a < hi
      · simp [ha]
      · simp only [ha, if_false, memGet]
        split
        · rename_i hlt; exact memGet_above (fun e he => Nat.lt_trans hlt (h2 e he))
        · split
          · rename_i he; subst he; exact absurd hx ha
          · rfl
    · have : (!(decide (lo ≤ x) && decide (x < hi))) = true := by
        simp only [Bool.not_eq_true', Bool.and_eq_false_iff, decide_eq_false_iff_not]; omega
      rw [this, if_pos rfl]
      simp only [memGet, ih]
      split
      · split <;> rfl
      · split
        · rename_i he; subst he; rw [if_neg hx]
        · rfl

/-- Memories in canonical form that read alike are equal. -/
theorem memWf_ext {d : Byte} : ∀ {m n : Mem}, memWf d m = true → memWf d n = true → (∀ a, memGet d m a = memGet d n a) → m = n
  | [], [], _, _, _ => rfl
  | [], (a, w) :: t, _, hn, h => by
    have := h a
    simp [memGet] at this
    exact absurd this.symm (memWf_cons.mp hn).1
  | (a, w) :: t, [], hm, _, h => by
    have := h a
    simp [memGet] at this
    exact absurd this (memWf_cons.mp hm).1
  | (a, w) :: t, (b, v) :: u, hm, hn, h => by
    obtain ⟨m1, m2, m3⟩ := memWf_cons.mp hm
    obtain ⟨n1, n2, n3⟩ := memWf_cons.mp hn
    have ha := h a
    have hb := h b
    simp only [memGet, Nat.lt_irrefl, if_false, if_true] at ha hb
    have hab : a = b := by
      rcases Nat.lt_trichotomy a b with hlt | heq | hgt
      · rw [if_pos hlt] at ha; exact absurd ha m1
      · exact heq
      · rw [if_pos hgt] at hb; exact absurd hb.symm n1
    subst hab
    simp at ha
    subst ha
    congr 1
    refine memWf_ext m3 n3 (fun x => ?_)
    have hx := h x
    simp only [memGet] at hx
    by_cases h1 : x < a
    · rw [memGet_above (fun e he => Nat.lt_trans h1 (m2 e he)), memGet_above (fun e he => Nat.lt_trans h1 (n2 e he))]
    · by_cases h2 : x = a
      · subst h2; rw [memGet_above m2, memGet_above n2]
      · simpa [h1, h2] using hx

theorem memOf_wf_from : ∀ (bs : Bytes) (k : Nat),
    Above k ((((bs.zipIdx (k + 1)).filter (fun e => e.1 != 0)).map (fun e => (e.2, e.1)) : Mem))
      ∧ memWf 0 (((bs.zipIdx k).filter (fun e => e.1 != 0)).map (fun e => (e.2, e.1))) = true
  | [], _ => ⟨by intro e he; simp at he, rfl⟩
  | b :: bs, k => by
    have h1 := memOf_wf_from bs (k + 1)
    have habove : ∀ (l : Bytes) (j i : Nat), j < i →
        Above j ((((l.zipIdx i).filter (fun e => e.1 != 0)).map (fun e => (e.2, e.1)) : Mem)) := by
      intro l
      induction l with
      | nil => intro j i _ e he; simp at he
      | cons x t ih =>
        intro j i hji e he
        simp only [List.zipIdx_cons, List.filter_cons] at he
        split at he
        · rw [List.map_cons] at he
          rcases List.mem_cons.mp he with rfl | he
          · exact hji
          · exact ih j (i + 1) (by omega) e he
        · exact ih j (i + 1) (by omega) e he
    refine ⟨habove (b :: bs) k (k + 1) (by omega), ?_⟩
    simp only [List.zipIdx_cons, List.filter_cons]
    split
    · rename_i hb
      exact memWf_cons.mpr ⟨by simpa using hb, habove bs k (k + 1) (by omega), h1.2⟩
    · exact h1.2

/-- The memory of a byte list is in canonical form. -/
theorem memOf_wf (bs : Bytes) : memWf 0 (memOf bs) = true := (memOf_wf_from bs 0).2

end Sys2Proof.Machine
end

