-- ==== Sys2Proof/Laws/State.lean ====
section
/-! SUPPORT. What each update of the state, of a core and of its registers leaves alone and what it writes: one lemma for
each field, so that no proof unfolds a record update. -/

namespace Sys2Proof.Machine
open Sys2Proof

@[simp] theorem State.modCore_pending (s : State) (c : CoreId) (f : Core → Core) : (s.modCore c f).pending = s.pending := rfl
@[simp] theorem State.modCore_bell (s : State) (c : CoreId) (f : Core → Core) : (s.modCore c f).bell = s.bell := rfl
@[simp] theorem State.modCore_bellRunning (s : State) (c : CoreId) (f : Core → Core) : (s.modCore c f).bellRunning = s.bellRunning := rfl
@[simp] theorem State.modCore_free (s : State) (c : CoreId) (f : Core → Core) : (s.modCore c f).free = s.free := rfl
@[simp] theorem State.modCore_coreMap (s : State) (c : CoreId) (f : Core → Core) : (s.modCore c f).coreMap = s.coreMap := rfl
@[simp] theorem State.modCore_logicalCount (s : State) (c : CoreId) (f : Core → Core) : (s.modCore c f).logicalCount = s.logicalCount := rfl
@[simp] theorem State.modCore_hbm (s : State) (c : CoreId) (f : Core → Core) : (s.modCore c f).hbm = s.hbm := rfl
@[simp] theorem State.modCore_hbmBad (s : State) (c : CoreId) (f : Core → Core) : (s.modCore c f).hbmBad = s.hbmBad := rfl
@[simp] theorem State.modCore_channels (s : State) (c : CoreId) (f : Core → Core) : (s.modCore c f).channels = s.channels := rfl
@[simp] theorem State.modCore_bins (s : State) (c : CoreId) (f : Core → Core) : (s.modCore c f).bins = s.bins := rfl
@[simp] theorem State.modCore_carts (s : State) (c : CoreId) (f : Core → Core) : (s.modCore c f).carts = s.carts := rfl
@[simp] theorem State.modCore_recks (s : State) (c : CoreId) (f : Core → Core) : (s.modCore c f).recks = s.recks := rfl
@[simp] theorem State.modCore_mills (s : State) (c : CoreId) (f : Core → Core) : (s.modCore c f).mills = s.mills := rfl
@[simp] theorem State.modCore_colls (s : State) (c : CoreId) (f : Core → Core) : (s.modCore c f).colls = s.colls := rfl
@[simp] theorem State.modCore_granary (s : State) (c : CoreId) (f : Core → Core) : (s.modCore c f).granary = s.granary := rfl
@[simp] theorem State.modCore_plans (s : State) (c : CoreId) (f : Core → Core) : (s.modCore c f).plans = s.plans := rfl
@[simp] theorem State.modCore_seqSlots (s : State) (c : CoreId) (f : Core → Core) : (s.modCore c f).seqSlots = s.seqSlots := rfl
@[simp] theorem State.modCore_journal (s : State) (c : CoreId) (f : Core → Core) : (s.modCore c f).journal = s.journal := rfl
@[simp] theorem State.modCore_out (s : State) (c : CoreId) (f : Core → Core) : (s.modCore c f).out = s.out := rfl
@[simp] theorem State.modCore_mod (s : State) (c : CoreId) (f : Core → Core) : (s.modCore c f).mod = s.mod := rfl
@[simp] theorem State.modCore_domain (s : State) (c : CoreId) (f : Core → Core) : (s.modCore c f).domain = s.domain := rfl
@[simp] theorem State.modCore_cfg (s : State) (c : CoreId) (f : Core → Core) : (s.modCore c f).cfg = s.cfg := rfl
@[simp] theorem State.modCore_health (s : State) (c : CoreId) (f : Core → Core) : (s.modCore c f).health = s.health := rfl
@[simp] theorem State.modCore_reforming (s : State) (c : CoreId) (f : Core → Core) : (s.modCore c f).reforming = s.reforming := rfl
@[simp] theorem State.modCore_frozen (s : State) (c : CoreId) (f : Core → Core) : (s.modCore c f).frozen = s.frozen := rfl
@[simp] theorem State.modCore_subs (s : State) (c : CoreId) (f : Core → Core) : (s.modCore c f).subs = s.subs := rfl
@[simp] theorem State.modCore_host (s : State) (c : CoreId) (f : Core → Core) : (s.modCore c f).host = s.host := rfl
@[simp] theorem State.modCore_adm (s : State) (c : CoreId) (f : Core → Core) : (s.modCore c f).adm = s.adm := rfl
@[simp] theorem State.modCore_ports (s : State) (c : CoreId) (f : Core → Core) : (s.modCore c f).ports = s.ports := rfl
@[simp] theorem State.modCore_routes (s : State) (c : CoreId) (f : Core → Core) : (s.modCore c f).routes = s.routes := rfl
@[simp] theorem State.modCore_regions (s : State) (c : CoreId) (f : Core → Core) : (s.modCore c f).regions = s.regions := rfl
@[simp] theorem State.modCore_endpoint (s : State) (c : CoreId) (f : Core → Core) : (s.modCore c f).endpoint = s.endpoint := rfl
@[simp] theorem State.modCore_timeError (s : State) (c : CoreId) (f : Core → Core) : (s.modCore c f).timeError = s.timeError := rfl
@[simp] theorem State.modCore_steerTicks (s : State) (c : CoreId) (f : Core → Core) : (s.modCore c f).steerTicks = s.steerTicks := rfl
@[simp] theorem State.modCore_controlSeq (s : State) (c : CoreId) (f : Core → Core) : (s.modCore c f).controlSeq = s.controlSeq := rfl
@[simp] theorem State.modCore_acted (s : State) (c : CoreId) (f : Core → Core) : (s.modCore c f).acted = s.acted := rfl
@[simp] theorem State.modCore_reeve (s : State) (c : CoreId) (f : Core → Core) : (s.modCore c f).reeve = s.reeve := rfl
@[simp] theorem State.modCore_meas (s : State) (c : CoreId) (f : Core → Core) : (s.modCore c f).meas = s.meas := rfl
@[simp] theorem State.modCore_fuses (s : State) (c : CoreId) (f : Core → Core) : (s.modCore c f).fuses = s.fuses := rfl
@[simp] theorem State.modCore_allowed (s : State) (c : CoreId) (f : Core → Core) : (s.modCore c f).allowed = s.allowed := rfl
@[simp] theorem State.modCore_flash (s : State) (c : CoreId) (f : Core → Core) : (s.modCore c f).flash = s.flash := rfl
@[simp] theorem State.modCore_power (s : State) (c : CoreId) (f : Core → Core) : (s.modCore c f).power = s.power := rfl
@[simp] theorem State.modCore_sensors (s : State) (c : CoreId) (f : Core → Core) : (s.modCore c f).sensors = s.sensors := rfl
@[simp] theorem State.modCore_draining (s : State) (c : CoreId) (f : Core → Core) : (s.modCore c f).draining = s.draining := rfl
@[simp] theorem State.modCore_autostart (s : State) (c : CoreId) (f : Core → Core) : (s.modCore c f).autostart = s.autostart := rfl
@[simp] theorem State.modCore_mgmt (s : State) (c : CoreId) (f : Core → Core) : (s.modCore c f).mgmt = s.mgmt := rfl
@[simp] theorem State.modCore_counting (s : State) (c : CoreId) (f : Core → Core) : (s.modCore c f).counting = s.counting := rfl
@[simp] theorem State.modCore_tap (s : State) (c : CoreId) (f : Core → Core) : (s.modCore c f).tap = s.tap := rfl
@[simp] theorem State.modCore_cores (s : State) (c : CoreId) (f : Core → Core) : (s.modCore c f).cores = s.cores.set c (f s.cores[c]) := rfl

@[simp] theorem State.modPlan_pending (s : State) (i : Fin 16) (f : Plan → Plan) : (s.modPlan i f).pending = s.pending := rfl
@[simp] theorem State.modPlan_bell (s : State) (i : Fin 16) (f : Plan → Plan) : (s.modPlan i f).bell = s.bell := rfl
@[simp] theorem State.modPlan_bellRunning (s : State) (i : Fin 16) (f : Plan → Plan) : (s.modPlan i f).bellRunning = s.bellRunning := rfl
@[simp] theorem State.modPlan_free (s : State) (i : Fin 16) (f : Plan → Plan) : (s.modPlan i f).free = s.free := rfl
@[simp] theorem State.modPlan_cores (s : State) (i : Fin 16) (f : Plan → Plan) : (s.modPlan i f).cores = s.cores := rfl
@[simp] theorem State.modPlan_coreMap (s : State) (i : Fin 16) (f : Plan → Plan) : (s.modPlan i f).coreMap = s.coreMap := rfl
@[simp] theorem State.modPlan_logicalCount (s : State) (i : Fin 16) (f : Plan → Plan) : (s.modPlan i f).logicalCount = s.logicalCount := rfl
@[simp] theorem State.modPlan_hbm (s : State) (i : Fin 16) (f : Plan → Plan) : (s.modPlan i f).hbm = s.hbm := rfl
@[simp] theorem State.modPlan_hbmBad (s : State) (i : Fin 16) (f : Plan → Plan) : (s.modPlan i f).hbmBad = s.hbmBad := rfl
@[simp] theorem State.modPlan_channels (s : State) (i : Fin 16) (f : Plan → Plan) : (s.modPlan i f).channels = s.channels := rfl
@[simp] theorem State.modPlan_bins (s : State) (i : Fin 16) (f : Plan → Plan) : (s.modPlan i f).bins = s.bins := rfl
@[simp] theorem State.modPlan_carts (s : State) (i : Fin 16) (f : Plan → Plan) : (s.modPlan i f).carts = s.carts := rfl
@[simp] theorem State.modPlan_recks (s : State) (i : Fin 16) (f : Plan → Plan) : (s.modPlan i f).recks = s.recks := rfl
@[simp] theorem State.modPlan_mills (s : State) (i : Fin 16) (f : Plan → Plan) : (s.modPlan i f).mills = s.mills := rfl
@[simp] theorem State.modPlan_colls (s : State) (i : Fin 16) (f : Plan → Plan) : (s.modPlan i f).colls = s.colls := rfl
@[simp] theorem State.modPlan_granary (s : State) (i : Fin 16) (f : Plan → Plan) : (s.modPlan i f).granary = s.granary := rfl
@[simp] theorem State.modPlan_seqSlots (s : State) (i : Fin 16) (f : Plan → Plan) : (s.modPlan i f).seqSlots = s.seqSlots := rfl
@[simp] theorem State.modPlan_journal (s : State) (i : Fin 16) (f : Plan → Plan) : (s.modPlan i f).journal = s.journal := rfl
@[simp] theorem State.modPlan_out (s : State) (i : Fin 16) (f : Plan → Plan) : (s.modPlan i f).out = s.out := rfl
@[simp] theorem State.modPlan_mod (s : State) (i : Fin 16) (f : Plan → Plan) : (s.modPlan i f).mod = s.mod := rfl
@[simp] theorem State.modPlan_domain (s : State) (i : Fin 16) (f : Plan → Plan) : (s.modPlan i f).domain = s.domain := rfl
@[simp] theorem State.modPlan_cfg (s : State) (i : Fin 16) (f : Plan → Plan) : (s.modPlan i f).cfg = s.cfg := rfl
@[simp] theorem State.modPlan_health (s : State) (i : Fin 16) (f : Plan → Plan) : (s.modPlan i f).health = s.health := rfl
@[simp] theorem State.modPlan_reforming (s : State) (i : Fin 16) (f : Plan → Plan) : (s.modPlan i f).reforming = s.reforming := rfl
@[simp] theorem State.modPlan_frozen (s : State) (i : Fin 16) (f : Plan → Plan) : (s.modPlan i f).frozen = s.frozen := rfl
@[simp] theorem State.modPlan_subs (s : State) (i : Fin 16) (f : Plan → Plan) : (s.modPlan i f).subs = s.subs := rfl
@[simp] theorem State.modPlan_host (s : State) (i : Fin 16) (f : Plan → Plan) : (s.modPlan i f).host = s.host := rfl
@[simp] theorem State.modPlan_adm (s : State) (i : Fin 16) (f : Plan → Plan) : (s.modPlan i f).adm = s.adm := rfl
@[simp] theorem State.modPlan_ports (s : State) (i : Fin 16) (f : Plan → Plan) : (s.modPlan i f).ports = s.ports := rfl
@[simp] theorem State.modPlan_routes (s : State) (i : Fin 16) (f : Plan → Plan) : (s.modPlan i f).routes = s.routes := rfl
@[simp] theorem State.modPlan_regions (s : State) (i : Fin 16) (f : Plan → Plan) : (s.modPlan i f).regions = s.regions := rfl
@[simp] theorem State.modPlan_endpoint (s : State) (i : Fin 16) (f : Plan → Plan) : (s.modPlan i f).endpoint = s.endpoint := rfl
@[simp] theorem State.modPlan_timeError (s : State) (i : Fin 16) (f : Plan → Plan) : (s.modPlan i f).timeError = s.timeError := rfl
@[simp] theorem State.modPlan_steerTicks (s : State) (i : Fin 16) (f : Plan → Plan) : (s.modPlan i f).steerTicks = s.steerTicks := rfl
@[simp] theorem State.modPlan_controlSeq (s : State) (i : Fin 16) (f : Plan → Plan) : (s.modPlan i f).controlSeq = s.controlSeq := rfl
@[simp] theorem State.modPlan_acted (s : State) (i : Fin 16) (f : Plan → Plan) : (s.modPlan i f).acted = s.acted := rfl
@[simp] theorem State.modPlan_reeve (s : State) (i : Fin 16) (f : Plan → Plan) : (s.modPlan i f).reeve = s.reeve := rfl
@[simp] theorem State.modPlan_meas (s : State) (i : Fin 16) (f : Plan → Plan) : (s.modPlan i f).meas = s.meas := rfl
@[simp] theorem State.modPlan_fuses (s : State) (i : Fin 16) (f : Plan → Plan) : (s.modPlan i f).fuses = s.fuses := rfl
@[simp] theorem State.modPlan_allowed (s : State) (i : Fin 16) (f : Plan → Plan) : (s.modPlan i f).allowed = s.allowed := rfl
@[simp] theorem State.modPlan_flash (s : State) (i : Fin 16) (f : Plan → Plan) : (s.modPlan i f).flash = s.flash := rfl
@[simp] theorem State.modPlan_power (s : State) (i : Fin 16) (f : Plan → Plan) : (s.modPlan i f).power = s.power := rfl
@[simp] theorem State.modPlan_sensors (s : State) (i : Fin 16) (f : Plan → Plan) : (s.modPlan i f).sensors = s.sensors := rfl
@[simp] theorem State.modPlan_draining (s : State) (i : Fin 16) (f : Plan → Plan) : (s.modPlan i f).draining = s.draining := rfl
@[simp] theorem State.modPlan_autostart (s : State) (i : Fin 16) (f : Plan → Plan) : (s.modPlan i f).autostart = s.autostart := rfl
@[simp] theorem State.modPlan_mgmt (s : State) (i : Fin 16) (f : Plan → Plan) : (s.modPlan i f).mgmt = s.mgmt := rfl
@[simp] theorem State.modPlan_counting (s : State) (i : Fin 16) (f : Plan → Plan) : (s.modPlan i f).counting = s.counting := rfl
@[simp] theorem State.modPlan_tap (s : State) (i : Fin 16) (f : Plan → Plan) : (s.modPlan i f).tap = s.tap := rfl
@[simp] theorem State.modPlan_plans (s : State) (i : Fin 16) (f : Plan → Plan) : (s.modPlan i f).plans = s.plans.set i (s.plans[i].map f) := rfl

@[simp] theorem State.modPlanCores_pending (s : State) (i : Fin 16) (f : Core → Core) : (s.modPlanCores i f).pending = s.pending := rfl
@[simp] theorem State.modPlanCores_bell (s : State) (i : Fin 16) (f : Core → Core) : (s.modPlanCores i f).bell = s.bell := rfl
@[simp] theorem State.modPlanCores_bellRunning (s : State) (i : Fin 16) (f : Core → Core) : (s.modPlanCores i f).bellRunning = s.bellRunning := rfl
@[simp] theorem State.modPlanCores_free (s : State) (i : Fin 16) (f : Core → Core) : (s.modPlanCores i f).free = s.free := rfl
@[simp] theorem State.modPlanCores_coreMap (s : State) (i : Fin 16) (f : Core → Core) : (s.modPlanCores i f).coreMap = s.coreMap := rfl
@[simp] theorem State.modPlanCores_logicalCount (s : State) (i : Fin 16) (f : Core → Core) : (s.modPlanCores i f).logicalCount = s.logicalCount := rfl
@[simp] theorem State.modPlanCores_hbm (s : State) (i : Fin 16) (f : Core → Core) : (s.modPlanCores i f).hbm = s.hbm := rfl
@[simp] theorem State.modPlanCores_hbmBad (s : State) (i : Fin 16) (f : Core → Core) : (s.modPlanCores i f).hbmBad = s.hbmBad := rfl
@[simp] theorem State.modPlanCores_channels (s : State) (i : Fin 16) (f : Core → Core) : (s.modPlanCores i f).channels = s.channels := rfl
@[simp] theorem State.modPlanCores_bins (s : State) (i : Fin 16) (f : Core → Core) : (s.modPlanCores i f).bins = s.bins := rfl
@[simp] theorem State.modPlanCores_carts (s : State) (i : Fin 16) (f : Core → Core) : (s.modPlanCores i f).carts = s.carts := rfl
@[simp] theorem State.modPlanCores_recks (s : State) (i : Fin 16) (f : Core → Core) : (s.modPlanCores i f).recks = s.recks := rfl
@[simp] theorem State.modPlanCores_mills (s : State) (i : Fin 16) (f : Core → Core) : (s.modPlanCores i f).mills = s.mills := rfl
@[simp] theorem State.modPlanCores_colls (s : State) (i : Fin 16) (f : Core → Core) : (s.modPlanCores i f).colls = s.colls := rfl
@[simp] theorem State.modPlanCores_granary (s : State) (i : Fin 16) (f : Core → Core) : (s.modPlanCores i f).granary = s.granary := rfl
@[simp] theorem State.modPlanCores_plans (s : State) (i : Fin 16) (f : Core → Core) : (s.modPlanCores i f).plans = s.plans := rfl
@[simp] theorem State.modPlanCores_seqSlots (s : State) (i : Fin 16) (f : Core → Core) : (s.modPlanCores i f).seqSlots = s.seqSlots := rfl
@[simp] theorem State.modPlanCores_journal (s : State) (i : Fin 16) (f : Core → Core) : (s.modPlanCores i f).journal = s.journal := rfl
@[simp] theorem State.modPlanCores_out (s : State) (i : Fin 16) (f : Core → Core) : (s.modPlanCores i f).out = s.out := rfl
@[simp] theorem State.modPlanCores_mod (s : State) (i : Fin 16) (f : Core → Core) : (s.modPlanCores i f).mod = s.mod := rfl
@[simp] theorem State.modPlanCores_domain (s : State) (i : Fin 16) (f : Core → Core) : (s.modPlanCores i f).domain = s.domain := rfl
@[simp] theorem State.modPlanCores_cfg (s : State) (i : Fin 16) (f : Core → Core) : (s.modPlanCores i f).cfg = s.cfg := rfl
@[simp] theorem State.modPlanCores_health (s : State) (i : Fin 16) (f : Core → Core) : (s.modPlanCores i f).health = s.health := rfl
@[simp] theorem State.modPlanCores_reforming (s : State) (i : Fin 16) (f : Core → Core) : (s.modPlanCores i f).reforming = s.reforming := rfl
@[simp] theorem State.modPlanCores_frozen (s : State) (i : Fin 16) (f : Core → Core) : (s.modPlanCores i f).frozen = s.frozen := rfl
@[simp] theorem State.modPlanCores_subs (s : State) (i : Fin 16) (f : Core → Core) : (s.modPlanCores i f).subs = s.subs := rfl
@[simp] theorem State.modPlanCores_host (s : State) (i : Fin 16) (f : Core → Core) : (s.modPlanCores i f).host = s.host := rfl
@[simp] theorem State.modPlanCores_adm (s : State) (i : Fin 16) (f : Core → Core) : (s.modPlanCores i f).adm = s.adm := rfl
@[simp] theorem State.modPlanCores_ports (s : State) (i : Fin 16) (f : Core → Core) : (s.modPlanCores i f).ports = s.ports := rfl
@[simp] theorem State.modPlanCores_routes (s : State) (i : Fin 16) (f : Core → Core) : (s.modPlanCores i f).routes = s.routes := rfl
@[simp] theorem State.modPlanCores_regions (s : State) (i : Fin 16) (f : Core → Core) : (s.modPlanCores i f).regions = s.regions := rfl
@[simp] theorem State.modPlanCores_endpoint (s : State) (i : Fin 16) (f : Core → Core) : (s.modPlanCores i f).endpoint = s.endpoint := rfl
@[simp] theorem State.modPlanCores_timeError (s : State) (i : Fin 16) (f : Core → Core) : (s.modPlanCores i f).timeError = s.timeError := rfl
@[simp] theorem State.modPlanCores_steerTicks (s : State) (i : Fin 16) (f : Core → Core) : (s.modPlanCores i f).steerTicks = s.steerTicks := rfl
@[simp] theorem State.modPlanCores_controlSeq (s : State) (i : Fin 16) (f : Core → Core) : (s.modPlanCores i f).controlSeq = s.controlSeq := rfl
@[simp] theorem State.modPlanCores_acted (s : State) (i : Fin 16) (f : Core → Core) : (s.modPlanCores i f).acted = s.acted := rfl
@[simp] theorem State.modPlanCores_reeve (s : State) (i : Fin 16) (f : Core → Core) : (s.modPlanCores i f).reeve = s.reeve := rfl
@[simp] theorem State.modPlanCores_meas (s : State) (i : Fin 16) (f : Core → Core) : (s.modPlanCores i f).meas = s.meas := rfl
@[simp] theorem State.modPlanCores_fuses (s : State) (i : Fin 16) (f : Core → Core) : (s.modPlanCores i f).fuses = s.fuses := rfl
@[simp] theorem State.modPlanCores_allowed (s : State) (i : Fin 16) (f : Core → Core) : (s.modPlanCores i f).allowed = s.allowed := rfl
@[simp] theorem State.modPlanCores_flash (s : State) (i : Fin 16) (f : Core → Core) : (s.modPlanCores i f).flash = s.flash := rfl
@[simp] theorem State.modPlanCores_power (s : State) (i : Fin 16) (f : Core → Core) : (s.modPlanCores i f).power = s.power := rfl
@[simp] theorem State.modPlanCores_sensors (s : State) (i : Fin 16) (f : Core → Core) : (s.modPlanCores i f).sensors = s.sensors := rfl
@[simp] theorem State.modPlanCores_draining (s : State) (i : Fin 16) (f : Core → Core) : (s.modPlanCores i f).draining = s.draining := rfl
@[simp] theorem State.modPlanCores_autostart (s : State) (i : Fin 16) (f : Core → Core) : (s.modPlanCores i f).autostart = s.autostart := rfl
@[simp] theorem State.modPlanCores_mgmt (s : State) (i : Fin 16) (f : Core → Core) : (s.modPlanCores i f).mgmt = s.mgmt := rfl
@[simp] theorem State.modPlanCores_counting (s : State) (i : Fin 16) (f : Core → Core) : (s.modPlanCores i f).counting = s.counting := rfl
@[simp] theorem State.modPlanCores_tap (s : State) (i : Fin 16) (f : Core → Core) : (s.modPlanCores i f).tap = s.tap := rfl
@[simp] theorem State.modPlanCores_cores (s : State) (i : Fin 16) (f : Core → Core) : (s.modPlanCores i f).cores = s.cores.map (fun k => if k.plan = some i then f k else k) := rfl

@[simp] theorem State.emit_pending (s : State) (o : Out) : (s.emit o).pending = s.pending := rfl
@[simp] theorem State.emit_bell (s : State) (o : Out) : (s.emit o).bell = s.bell := rfl
@[simp] theorem State.emit_bellRunning (s : State) (o : Out) : (s.emit o).bellRunning = s.bellRunning := rfl
@[simp] theorem State.emit_free (s : State) (o : Out) : (s.emit o).free = s.free := rfl
@[simp] theorem State.emit_cores (s : State) (o : Out) : (s.emit o).cores = s.cores := rfl
@[simp] theorem State.emit_coreMap (s : State) (o : Out) : (s.emit o).coreMap = s.coreMap := rfl
@[simp] theorem State.emit_logicalCount (s : State) (o : Out) : (s.emit o).logicalCount = s.logicalCount := rfl
@[simp] theorem State.emit_hbm (s : State) (o : Out) : (s.emit o).hbm = s.hbm := rfl
@[simp] theorem State.emit_hbmBad (s : State) (o : Out) : (s.emit o).hbmBad = s.hbmBad := rfl
@[simp] theorem State.emit_channels (s : State) (o : Out) : (s.emit o).channels = s.channels := rfl
@[simp] theorem State.emit_bins (s : State) (o : Out) : (s.emit o).bins = s.bins := rfl
@[simp] theorem State.emit_carts (s : State) (o : Out) : (s.emit o).carts = s.carts := rfl
@[simp] theorem State.emit_recks (s : State) (o : Out) : (s.emit o).recks = s.recks := rfl
@[simp] theorem State.emit_mills (s : State) (o : Out) : (s.emit o).mills = s.mills := rfl
@[simp] theorem State.emit_colls (s : State) (o : Out) : (s.emit o).colls = s.colls := rfl
@[simp] theorem State.emit_granary (s : State) (o : Out) : (s.emit o).granary = s.granary := rfl
@[simp] theorem State.emit_plans (s : State) (o : Out) : (s.emit o).plans = s.plans := rfl
@[simp] theorem State.emit_seqSlots (s : State) (o : Out) : (s.emit o).seqSlots = s.seqSlots := rfl
@[simp] theorem State.emit_journal (s : State) (o : Out) : (s.emit o).journal = s.journal := rfl
@[simp] theorem State.emit_mod (s : State) (o : Out) : (s.emit o).mod = s.mod := rfl
@[simp] theorem State.emit_domain (s : State) (o : Out) : (s.emit o).domain = s.domain := rfl
@[simp] theorem State.emit_cfg (s : State) (o : Out) : (s.emit o).cfg = s.cfg := rfl
@[simp] theorem State.emit_health (s : State) (o : Out) : (s.emit o).health = s.health := rfl
@[simp] theorem State.emit_reforming (s : State) (o : Out) : (s.emit o).reforming = s.reforming := rfl
@[simp] theorem State.emit_frozen (s : State) (o : Out) : (s.emit o).frozen = s.frozen := rfl
@[simp] theorem State.emit_subs (s : State) (o : Out) : (s.emit o).subs = s.subs := rfl
@[simp] theorem State.emit_host (s : State) (o : Out) : (s.emit o).host = s.host := rfl
@[simp] theorem State.emit_adm (s : State) (o : Out) : (s.emit o).adm = s.adm := rfl
@[simp] theorem State.emit_ports (s : State) (o : Out) : (s.emit o).ports = s.ports := rfl
@[simp] theorem State.emit_routes (s : State) (o : Out) : (s.emit o).routes = s.routes := rfl
@[simp] theorem State.emit_regions (s : State) (o : Out) : (s.emit o).regions = s.regions := rfl
@[simp] theorem State.emit_endpoint (s : State) (o : Out) : (s.emit o).endpoint = s.endpoint := rfl
@[simp] theorem State.emit_timeError (s : State) (o : Out) : (s.emit o).timeError = s.timeError := rfl
@[simp] theorem State.emit_steerTicks (s : State) (o : Out) : (s.emit o).steerTicks = s.steerTicks := rfl
@[simp] theorem State.emit_controlSeq (s : State) (o : Out) : (s.emit o).controlSeq = s.controlSeq := rfl
@[simp] theorem State.emit_acted (s : State) (o : Out) : (s.emit o).acted = s.acted := rfl
@[simp] theorem State.emit_reeve (s : State) (o : Out) : (s.emit o).reeve = s.reeve := rfl
@[simp] theorem State.emit_meas (s : State) (o : Out) : (s.emit o).meas = s.meas := rfl
@[simp] theorem State.emit_fuses (s : State) (o : Out) : (s.emit o).fuses = s.fuses := rfl
@[simp] theorem State.emit_allowed (s : State) (o : Out) : (s.emit o).allowed = s.allowed := rfl
@[simp] theorem State.emit_flash (s : State) (o : Out) : (s.emit o).flash = s.flash := rfl
@[simp] theorem State.emit_power (s : State) (o : Out) : (s.emit o).power = s.power := rfl
@[simp] theorem State.emit_sensors (s : State) (o : Out) : (s.emit o).sensors = s.sensors := rfl
@[simp] theorem State.emit_draining (s : State) (o : Out) : (s.emit o).draining = s.draining := rfl
@[simp] theorem State.emit_autostart (s : State) (o : Out) : (s.emit o).autostart = s.autostart := rfl
@[simp] theorem State.emit_mgmt (s : State) (o : Out) : (s.emit o).mgmt = s.mgmt := rfl
@[simp] theorem State.emit_counting (s : State) (o : Out) : (s.emit o).counting = s.counting := rfl
@[simp] theorem State.emit_tap (s : State) (o : Out) : (s.emit o).tap = s.tap := rfl
@[simp] theorem State.emit_out (s : State) (o : Out) : (s.emit o).out = s.out ++ [o] := rfl

@[simp] theorem State.modPort_pending (s : State) (p : Fin 32) (f : Port → Port) : (s.modPort p f).pending = s.pending := rfl
@[simp] theorem State.modPort_bell (s : State) (p : Fin 32) (f : Port → Port) : (s.modPort p f).bell = s.bell := rfl
@[simp] theorem State.modPort_bellRunning (s : State) (p : Fin 32) (f : Port → Port) : (s.modPort p f).bellRunning = s.bellRunning := rfl
@[simp] theorem State.modPort_free (s : State) (p : Fin 32) (f : Port → Port) : (s.modPort p f).free = s.free := rfl
@[simp] theorem State.modPort_cores (s : State) (p : Fin 32) (f : Port → Port) : (s.modPort p f).cores = s.cores := rfl
@[simp] theorem State.modPort_coreMap (s : State) (p : Fin 32) (f : Port → Port) : (s.modPort p f).coreMap = s.coreMap := rfl
@[simp] theorem State.modPort_logicalCount (s : State) (p : Fin 32) (f : Port → Port) : (s.modPort p f).logicalCount = s.logicalCount := rfl
@[simp] theorem State.modPort_hbm (s : State) (p : Fin 32) (f : Port → Port) : (s.modPort p f).hbm = s.hbm := rfl
@[simp] theorem State.modPort_hbmBad (s : State) (p : Fin 32) (f : Port → Port) : (s.modPort p f).hbmBad = s.hbmBad := rfl
@[simp] theorem State.modPort_channels (s : State) (p : Fin 32) (f : Port → Port) : (s.modPort p f).channels = s.channels := rfl
@[simp] theorem State.modPort_bins (s : State) (p : Fin 32) (f : Port → Port) : (s.modPort p f).bins = s.bins := rfl
@[simp] theorem State.modPort_carts (s : State) (p : Fin 32) (f : Port → Port) : (s.modPort p f).carts = s.carts := rfl
@[simp] theorem State.modPort_recks (s : State) (p : Fin 32) (f : Port → Port) : (s.modPort p f).recks = s.recks := rfl
@[simp] theorem State.modPort_mills (s : State) (p : Fin 32) (f : Port → Port) : (s.modPort p f).mills = s.mills := rfl
@[simp] theorem State.modPort_colls (s : State) (p : Fin 32) (f : Port → Port) : (s.modPort p f).colls = s.colls := rfl
@[simp] theorem State.modPort_granary (s : State) (p : Fin 32) (f : Port → Port) : (s.modPort p f).granary = s.granary := rfl
@[simp] theorem State.modPort_plans (s : State) (p : Fin 32) (f : Port → Port) : (s.modPort p f).plans = s.plans := rfl
@[simp] theorem State.modPort_seqSlots (s : State) (p : Fin 32) (f : Port → Port) : (s.modPort p f).seqSlots = s.seqSlots := rfl
@[simp] theorem State.modPort_journal (s : State) (p : Fin 32) (f : Port → Port) : (s.modPort p f).journal = s.journal := rfl
@[simp] theorem State.modPort_out (s : State) (p : Fin 32) (f : Port → Port) : (s.modPort p f).out = s.out := rfl
@[simp] theorem State.modPort_mod (s : State) (p : Fin 32) (f : Port → Port) : (s.modPort p f).mod = s.mod := rfl
@[simp] theorem State.modPort_domain (s : State) (p : Fin 32) (f : Port → Port) : (s.modPort p f).domain = s.domain := rfl
@[simp] theorem State.modPort_cfg (s : State) (p : Fin 32) (f : Port → Port) : (s.modPort p f).cfg = s.cfg := rfl
@[simp] theorem State.modPort_health (s : State) (p : Fin 32) (f : Port → Port) : (s.modPort p f).health = s.health := rfl
@[simp] theorem State.modPort_reforming (s : State) (p : Fin 32) (f : Port → Port) : (s.modPort p f).reforming = s.reforming := rfl
@[simp] theorem State.modPort_frozen (s : State) (p : Fin 32) (f : Port → Port) : (s.modPort p f).frozen = s.frozen := rfl
@[simp] theorem State.modPort_subs (s : State) (p : Fin 32) (f : Port → Port) : (s.modPort p f).subs = s.subs := rfl
@[simp] theorem State.modPort_host (s : State) (p : Fin 32) (f : Port → Port) : (s.modPort p f).host = s.host := rfl
@[simp] theorem State.modPort_adm (s : State) (p : Fin 32) (f : Port → Port) : (s.modPort p f).adm = s.adm := rfl
@[simp] theorem State.modPort_routes (s : State) (p : Fin 32) (f : Port → Port) : (s.modPort p f).routes = s.routes := rfl
@[simp] theorem State.modPort_regions (s : State) (p : Fin 32) (f : Port → Port) : (s.modPort p f).regions = s.regions := rfl
@[simp] theorem State.modPort_endpoint (s : State) (p : Fin 32) (f : Port → Port) : (s.modPort p f).endpoint = s.endpoint := rfl
@[simp] theorem State.modPort_timeError (s : State) (p : Fin 32) (f : Port → Port) : (s.modPort p f).timeError = s.timeError := rfl
@[simp] theorem State.modPort_steerTicks (s : State) (p : Fin 32) (f : Port → Port) : (s.modPort p f).steerTicks = s.steerTicks := rfl
@[simp] theorem State.modPort_controlSeq (s : State) (p : Fin 32) (f : Port → Port) : (s.modPort p f).controlSeq = s.controlSeq := rfl
@[simp] theorem State.modPort_acted (s : State) (p : Fin 32) (f : Port → Port) : (s.modPort p f).acted = s.acted := rfl
@[simp] theorem State.modPort_reeve (s : State) (p : Fin 32) (f : Port → Port) : (s.modPort p f).reeve = s.reeve := rfl
@[simp] theorem State.modPort_meas (s : State) (p : Fin 32) (f : Port → Port) : (s.modPort p f).meas = s.meas := rfl
@[simp] theorem State.modPort_fuses (s : State) (p : Fin 32) (f : Port → Port) : (s.modPort p f).fuses = s.fuses := rfl
@[simp] theorem State.modPort_allowed (s : State) (p : Fin 32) (f : Port → Port) : (s.modPort p f).allowed = s.allowed := rfl
@[simp] theorem State.modPort_flash (s : State) (p : Fin 32) (f : Port → Port) : (s.modPort p f).flash = s.flash := rfl
@[simp] theorem State.modPort_power (s : State) (p : Fin 32) (f : Port → Port) : (s.modPort p f).power = s.power := rfl
@[simp] theorem State.modPort_sensors (s : State) (p : Fin 32) (f : Port → Port) : (s.modPort p f).sensors = s.sensors := rfl
@[simp] theorem State.modPort_draining (s : State) (p : Fin 32) (f : Port → Port) : (s.modPort p f).draining = s.draining := rfl
@[simp] theorem State.modPort_autostart (s : State) (p : Fin 32) (f : Port → Port) : (s.modPort p f).autostart = s.autostart := rfl
@[simp] theorem State.modPort_mgmt (s : State) (p : Fin 32) (f : Port → Port) : (s.modPort p f).mgmt = s.mgmt := rfl
@[simp] theorem State.modPort_counting (s : State) (p : Fin 32) (f : Port → Port) : (s.modPort p f).counting = s.counting := rfl
@[simp] theorem State.modPort_tap (s : State) (p : Fin 32) (f : Port → Port) : (s.modPort p f).tap = s.tap := rfl
@[simp] theorem State.modPort_ports (s : State) (p : Fin 32) (f : Port → Port) : (s.modPort p f).ports = s.ports.set p (f s.ports[p]) := rfl

@[simp] theorem State.putColl_pending (s : State) (k : Coll) : (s.putColl k).pending = s.pending := rfl
@[simp] theorem State.putColl_bell (s : State) (k : Coll) : (s.putColl k).bell = s.bell := rfl
@[simp] theorem State.putColl_bellRunning (s : State) (k : Coll) : (s.putColl k).bellRunning = s.bellRunning := rfl
@[simp] theorem State.putColl_free (s : State) (k : Coll) : (s.putColl k).free = s.free := rfl
@[simp] theorem State.putColl_cores (s : State) (k : Coll) : (s.putColl k).cores = s.cores := rfl
@[simp] theorem State.putColl_coreMap (s : State) (k : Coll) : (s.putColl k).coreMap = s.coreMap := rfl
@[simp] theorem State.putColl_logicalCount (s : State) (k : Coll) : (s.putColl k).logicalCount = s.logicalCount := rfl
@[simp] theorem State.putColl_hbm (s : State) (k : Coll) : (s.putColl k).hbm = s.hbm := rfl
@[simp] theorem State.putColl_hbmBad (s : State) (k : Coll) : (s.putColl k).hbmBad = s.hbmBad := rfl
@[simp] theorem State.putColl_channels (s : State) (k : Coll) : (s.putColl k).channels = s.channels := rfl
@[simp] theorem State.putColl_bins (s : State) (k : Coll) : (s.putColl k).bins = s.bins := rfl
@[simp] theorem State.putColl_carts (s : State) (k : Coll) : (s.putColl k).carts = s.carts := rfl
@[simp] theorem State.putColl_recks (s : State) (k : Coll) : (s.putColl k).recks = s.recks := rfl
@[simp] theorem State.putColl_mills (s : State) (k : Coll) : (s.putColl k).mills = s.mills := rfl
@[simp] theorem State.putColl_granary (s : State) (k : Coll) : (s.putColl k).granary = s.granary := rfl
@[simp] theorem State.putColl_plans (s : State) (k : Coll) : (s.putColl k).plans = s.plans := rfl
@[simp] theorem State.putColl_seqSlots (s : State) (k : Coll) : (s.putColl k).seqSlots = s.seqSlots := rfl
@[simp] theorem State.putColl_journal (s : State) (k : Coll) : (s.putColl k).journal = s.journal := rfl
@[simp] theorem State.putColl_out (s : State) (k : Coll) : (s.putColl k).out = s.out := rfl
@[simp] theorem State.putColl_mod (s : State) (k : Coll) : (s.putColl k).mod = s.mod := rfl
@[simp] theorem State.putColl_domain (s : State) (k : Coll) : (s.putColl k).domain = s.domain := rfl
@[simp] theorem State.putColl_cfg (s : State) (k : Coll) : (s.putColl k).cfg = s.cfg := rfl
@[simp] theorem State.putColl_health (s : State) (k : Coll) : (s.putColl k).health = s.health := rfl
@[simp] theorem State.putColl_reforming (s : State) (k : Coll) : (s.putColl k).reforming = s.reforming := rfl
@[simp] theorem State.putColl_frozen (s : State) (k : Coll) : (s.putColl k).frozen = s.frozen := rfl
@[simp] theorem State.putColl_subs (s : State) (k : Coll) : (s.putColl k).subs = s.subs := rfl
@[simp] theorem State.putColl_host (s : State) (k : Coll) : (s.putColl k).host = s.host := rfl
@[simp] theorem State.putColl_adm (s : State) (k : Coll) : (s.putColl k).adm = s.adm := rfl
@[simp] theorem State.putColl_ports (s : State) (k : Coll) : (s.putColl k).ports = s.ports := rfl
@[simp] theorem State.putColl_routes (s : State) (k : Coll) : (s.putColl k).routes = s.routes := rfl
@[simp] theorem State.putColl_regions (s : State) (k : Coll) : (s.putColl k).regions = s.regions := rfl
@[simp] theorem State.putColl_endpoint (s : State) (k : Coll) : (s.putColl k).endpoint = s.endpoint := rfl
@[simp] theorem State.putColl_timeError (s : State) (k : Coll) : (s.putColl k).timeError = s.timeError := rfl
@[simp] theorem State.putColl_steerTicks (s : State) (k : Coll) : (s.putColl k).steerTicks = s.steerTicks := rfl
@[simp] theorem State.putColl_controlSeq (s : State) (k : Coll) : (s.putColl k).controlSeq = s.controlSeq := rfl
@[simp] theorem State.putColl_acted (s : State) (k : Coll) : (s.putColl k).acted = s.acted := rfl
@[simp] theorem State.putColl_reeve (s : State) (k : Coll) : (s.putColl k).reeve = s.reeve := rfl
@[simp] theorem State.putColl_meas (s : State) (k : Coll) : (s.putColl k).meas = s.meas := rfl
@[simp] theorem State.putColl_fuses (s : State) (k : Coll) : (s.putColl k).fuses = s.fuses := rfl
@[simp] theorem State.putColl_allowed (s : State) (k : Coll) : (s.putColl k).allowed = s.allowed := rfl
@[simp] theorem State.putColl_flash (s : State) (k : Coll) : (s.putColl k).flash = s.flash := rfl
@[simp] theorem State.putColl_power (s : State) (k : Coll) : (s.putColl k).power = s.power := rfl
@[simp] theorem State.putColl_sensors (s : State) (k : Coll) : (s.putColl k).sensors = s.sensors := rfl
@[simp] theorem State.putColl_draining (s : State) (k : Coll) : (s.putColl k).draining = s.draining := rfl
@[simp] theorem State.putColl_autostart (s : State) (k : Coll) : (s.putColl k).autostart = s.autostart := rfl
@[simp] theorem State.putColl_mgmt (s : State) (k : Coll) : (s.putColl k).mgmt = s.mgmt := rfl
@[simp] theorem State.putColl_counting (s : State) (k : Coll) : (s.putColl k).counting = s.counting := rfl
@[simp] theorem State.putColl_tap (s : State) (k : Coll) : (s.putColl k).tap = s.tap := rfl
@[simp] theorem State.putColl_colls (s : State) (k : Coll) : (s.putColl k).colls = s.colls.map (fun c => if sameColl c k then k else c) := rfl

@[simp] theorem State.modSession_pending (s : State) (id : Nat) (f : Session → Session) : (s.modSession id f).pending = s.pending := rfl
@[simp] theorem State.modSession_bell (s : State) (id : Nat) (f : Session → Session) : (s.modSession id f).bell = s.bell := rfl
@[simp] theorem State.modSession_bellRunning (s : State) (id : Nat) (f : Session → Session) : (s.modSession id f).bellRunning = s.bellRunning := rfl
@[simp] theorem State.modSession_free (s : State) (id : Nat) (f : Session → Session) : (s.modSession id f).free = s.free := rfl
@[simp] theorem State.modSession_cores (s : State) (id : Nat) (f : Session → Session) : (s.modSession id f).cores = s.cores := rfl
@[simp] theorem State.modSession_coreMap (s : State) (id : Nat) (f : Session → Session) : (s.modSession id f).coreMap = s.coreMap := rfl
@[simp] theorem State.modSession_logicalCount (s : State) (id : Nat) (f : Session → Session) : (s.modSession id f).logicalCount = s.logicalCount := rfl
@[simp] theorem State.modSession_hbm (s : State) (id : Nat) (f : Session → Session) : (s.modSession id f).hbm = s.hbm := rfl
@[simp] theorem State.modSession_hbmBad (s : State) (id : Nat) (f : Session → Session) : (s.modSession id f).hbmBad = s.hbmBad := rfl
@[simp] theorem State.modSession_channels (s : State) (id : Nat) (f : Session → Session) : (s.modSession id f).channels = s.channels := rfl
@[simp] theorem State.modSession_bins (s : State) (id : Nat) (f : Session → Session) : (s.modSession id f).bins = s.bins := rfl
@[simp] theorem State.modSession_carts (s : State) (id : Nat) (f : Session → Session) : (s.modSession id f).carts = s.carts := rfl
@[simp] theorem State.modSession_recks (s : State) (id : Nat) (f : Session → Session) : (s.modSession id f).recks = s.recks := rfl
@[simp] theorem State.modSession_mills (s : State) (id : Nat) (f : Session → Session) : (s.modSession id f).mills = s.mills := rfl
@[simp] theorem State.modSession_colls (s : State) (id : Nat) (f : Session → Session) : (s.modSession id f).colls = s.colls := rfl
@[simp] theorem State.modSession_granary (s : State) (id : Nat) (f : Session → Session) : (s.modSession id f).granary = s.granary := rfl
@[simp] theorem State.modSession_plans (s : State) (id : Nat) (f : Session → Session) : (s.modSession id f).plans = s.plans := rfl
@[simp] theorem State.modSession_seqSlots (s : State) (id : Nat) (f : Session → Session) : (s.modSession id f).seqSlots = s.seqSlots := rfl
@[simp] theorem State.modSession_journal (s : State) (id : Nat) (f : Session → Session) : (s.modSession id f).journal = s.journal := rfl
@[simp] theorem State.modSession_out (s : State) (id : Nat) (f : Session → Session) : (s.modSession id f).out = s.out := rfl
@[simp] theorem State.modSession_mod (s : State) (id : Nat) (f : Session → Session) : (s.modSession id f).mod = s.mod := rfl
@[simp] theorem State.modSession_domain (s : State) (id : Nat) (f : Session → Session) : (s.modSession id f).domain = s.domain := rfl
@[simp] theorem State.modSession_cfg (s : State) (id : Nat) (f : Session → Session) : (s.modSession id f).cfg = s.cfg := rfl
@[simp] theorem State.modSession_health (s : State) (id : Nat) (f : Session → Session) : (s.modSession id f).health = s.health := rfl
@[simp] theorem State.modSession_reforming (s : State) (id : Nat) (f : Session → Session) : (s.modSession id f).reforming = s.reforming := rfl
@[simp] theorem State.modSession_frozen (s : State) (id : Nat) (f : Session → Session) : (s.modSession id f).frozen = s.frozen := rfl
@[simp] theorem State.modSession_subs (s : State) (id : Nat) (f : Session → Session) : (s.modSession id f).subs = s.subs := rfl
@[simp] theorem State.modSession_adm (s : State) (id : Nat) (f : Session → Session) : (s.modSession id f).adm = s.adm := rfl
@[simp] theorem State.modSession_ports (s : State) (id : Nat) (f : Session → Session) : (s.modSession id f).ports = s.ports := rfl
@[simp] theorem State.modSession_routes (s : State) (id : Nat) (f : Session → Session) : (s.modSession id f).routes = s.routes := rfl
@[simp] theorem State.modSession_regions (s : State) (id : Nat) (f : Session → Session) : (s.modSession id f).regions = s.regions := rfl
@[simp] theorem State.modSession_endpoint (s : State) (id : Nat) (f : Session → Session) : (s.modSession id f).endpoint = s.endpoint := rfl
@[simp] theorem State.modSession_timeError (s : State) (id : Nat) (f : Session → Session) : (s.modSession id f).timeError = s.timeError := rfl
@[simp] theorem State.modSession_steerTicks (s : State) (id : Nat) (f : Session → Session) : (s.modSession id f).steerTicks = s.steerTicks := rfl
@[simp] theorem State.modSession_controlSeq (s : State) (id : Nat) (f : Session → Session) : (s.modSession id f).controlSeq = s.controlSeq := rfl
@[simp] theorem State.modSession_acted (s : State) (id : Nat) (f : Session → Session) : (s.modSession id f).acted = s.acted := rfl
@[simp] theorem State.modSession_reeve (s : State) (id : Nat) (f : Session → Session) : (s.modSession id f).reeve = s.reeve := rfl
@[simp] theorem State.modSession_meas (s : State) (id : Nat) (f : Session → Session) : (s.modSession id f).meas = s.meas := rfl
@[simp] theorem State.modSession_fuses (s : State) (id : Nat) (f : Session → Session) : (s.modSession id f).fuses = s.fuses := rfl
@[simp] theorem State.modSession_allowed (s : State) (id : Nat) (f : Session → Session) : (s.modSession id f).allowed = s.allowed := rfl
@[simp] theorem State.modSession_flash (s : State) (id : Nat) (f : Session → Session) : (s.modSession id f).flash = s.flash := rfl
@[simp] theorem State.modSession_power (s : State) (id : Nat) (f : Session → Session) : (s.modSession id f).power = s.power := rfl
@[simp] theorem State.modSession_sensors (s : State) (id : Nat) (f : Session → Session) : (s.modSession id f).sensors = s.sensors := rfl
@[simp] theorem State.modSession_draining (s : State) (id : Nat) (f : Session → Session) : (s.modSession id f).draining = s.draining := rfl
@[simp] theorem State.modSession_autostart (s : State) (id : Nat) (f : Session → Session) : (s.modSession id f).autostart = s.autostart := rfl
@[simp] theorem State.modSession_mgmt (s : State) (id : Nat) (f : Session → Session) : (s.modSession id f).mgmt = s.mgmt := rfl
@[simp] theorem State.modSession_counting (s : State) (id : Nat) (f : Session → Session) : (s.modSession id f).counting = s.counting := rfl
@[simp] theorem State.modSession_tap (s : State) (id : Nat) (f : Session → Session) : (s.modSession id f).tap = s.tap := rfl

@[simp] theorem State.withCommand_bell (s : State) (i : Instr) : (s.withCommand i).bell = s.bell := rfl
@[simp] theorem State.withCommand_bellRunning (s : State) (i : Instr) : (s.withCommand i).bellRunning = s.bellRunning := rfl
@[simp] theorem State.withCommand_free (s : State) (i : Instr) : (s.withCommand i).free = s.free := rfl
@[simp] theorem State.withCommand_cores (s : State) (i : Instr) : (s.withCommand i).cores = s.cores := rfl
@[simp] theorem State.withCommand_coreMap (s : State) (i : Instr) : (s.withCommand i).coreMap = s.coreMap := rfl
@[simp] theorem State.withCommand_logicalCount (s : State) (i : Instr) : (s.withCommand i).logicalCount = s.logicalCount := rfl
@[simp] theorem State.withCommand_hbm (s : State) (i : Instr) : (s.withCommand i).hbm = s.hbm := rfl
@[simp] theorem State.withCommand_hbmBad (s : State) (i : Instr) : (s.withCommand i).hbmBad = s.hbmBad := rfl
@[simp] theorem State.withCommand_channels (s : State) (i : Instr) : (s.withCommand i).channels = s.channels := rfl
@[simp] theorem State.withCommand_bins (s : State) (i : Instr) : (s.withCommand i).bins = s.bins := rfl
@[simp] theorem State.withCommand_carts (s : State) (i : Instr) : (s.withCommand i).carts = s.carts := rfl
@[simp] theorem State.withCommand_recks (s : State) (i : Instr) : (s.withCommand i).recks = s.recks := rfl
@[simp] theorem State.withCommand_mills (s : State) (i : Instr) : (s.withCommand i).mills = s.mills := rfl
@[simp] theorem State.withCommand_colls (s : State) (i : Instr) : (s.withCommand i).colls = s.colls := rfl
@[simp] theorem State.withCommand_granary (s : State) (i : Instr) : (s.withCommand i).granary = s.granary := rfl
@[simp] theorem State.withCommand_plans (s : State) (i : Instr) : (s.withCommand i).plans = s.plans := rfl
@[simp] theorem State.withCommand_seqSlots (s : State) (i : Instr) : (s.withCommand i).seqSlots = s.seqSlots := rfl
@[simp] theorem State.withCommand_journal (s : State) (i : Instr) : (s.withCommand i).journal = s.journal := rfl
@[simp] theorem State.withCommand_out (s : State) (i : Instr) : (s.withCommand i).out = s.out := rfl
@[simp] theorem State.withCommand_mod (s : State) (i : Instr) : (s.withCommand i).mod = s.mod := rfl
@[simp] theorem State.withCommand_domain (s : State) (i : Instr) : (s.withCommand i).domain = s.domain := rfl
@[simp] theorem State.withCommand_cfg (s : State) (i : Instr) : (s.withCommand i).cfg = s.cfg := rfl
@[simp] theorem State.withCommand_health (s : State) (i : Instr) : (s.withCommand i).health = s.health := rfl
@[simp] theorem State.withCommand_reforming (s : State) (i : Instr) : (s.withCommand i).reforming = s.reforming := rfl
@[simp] theorem State.withCommand_frozen (s : State) (i : Instr) : (s.withCommand i).frozen = s.frozen := rfl
@[simp] theorem State.withCommand_subs (s : State) (i : Instr) : (s.withCommand i).subs = s.subs := rfl
@[simp] theorem State.withCommand_host (s : State) (i : Instr) : (s.withCommand i).host = s.host := rfl
@[simp] theorem State.withCommand_adm (s : State) (i : Instr) : (s.withCommand i).adm = s.adm := rfl
@[simp] theorem State.withCommand_ports (s : State) (i : Instr) : (s.withCommand i).ports = s.ports := rfl
@[simp] theorem State.withCommand_routes (s : State) (i : Instr) : (s.withCommand i).routes = s.routes := rfl
@[simp] theorem State.withCommand_regions (s : State) (i : Instr) : (s.withCommand i).regions = s.regions := rfl
@[simp] theorem State.withCommand_endpoint (s : State) (i : Instr) : (s.withCommand i).endpoint = s.endpoint := rfl
@[simp] theorem State.withCommand_timeError (s : State) (i : Instr) : (s.withCommand i).timeError = s.timeError := rfl
@[simp] theorem State.withCommand_steerTicks (s : State) (i : Instr) : (s.withCommand i).steerTicks = s.steerTicks := rfl
@[simp] theorem State.withCommand_controlSeq (s : State) (i : Instr) : (s.withCommand i).controlSeq = s.controlSeq := rfl
@[simp] theorem State.withCommand_acted (s : State) (i : Instr) : (s.withCommand i).acted = s.acted := rfl
@[simp] theorem State.withCommand_reeve (s : State) (i : Instr) : (s.withCommand i).reeve = s.reeve := rfl
@[simp] theorem State.withCommand_meas (s : State) (i : Instr) : (s.withCommand i).meas = s.meas := rfl
@[simp] theorem State.withCommand_fuses (s : State) (i : Instr) : (s.withCommand i).fuses = s.fuses := rfl
@[simp] theorem State.withCommand_allowed (s : State) (i : Instr) : (s.withCommand i).allowed = s.allowed := rfl
@[simp] theorem State.withCommand_flash (s : State) (i : Instr) : (s.withCommand i).flash = s.flash := rfl
@[simp] theorem State.withCommand_power (s : State) (i : Instr) : (s.withCommand i).power = s.power := rfl
@[simp] theorem State.withCommand_sensors (s : State) (i : Instr) : (s.withCommand i).sensors = s.sensors := rfl
@[simp] theorem State.withCommand_draining (s : State) (i : Instr) : (s.withCommand i).draining = s.draining := rfl
@[simp] theorem State.withCommand_autostart (s : State) (i : Instr) : (s.withCommand i).autostart = s.autostart := rfl
@[simp] theorem State.withCommand_mgmt (s : State) (i : Instr) : (s.withCommand i).mgmt = s.mgmt := rfl
@[simp] theorem State.withCommand_counting (s : State) (i : Instr) : (s.withCommand i).counting = s.counting := rfl
@[simp] theorem State.withCommand_tap (s : State) (i : Instr) : (s.withCommand i).tap = s.tap := rfl
@[simp] theorem State.withCommand_pending (s : State) (i : Instr) : (s.withCommand i).pending = i :: s.pending := rfl

@[simp] theorem Core.setRegs_dc (k : Core) (f : Regs → Regs) : (k.setRegs f).dc = k.dc := rfl
@[simp] theorem Core.setRegs_fh (k : Core) (f : Regs → Regs) : (k.setRegs f).fh = k.fh := rfl
@[simp] theorem Core.setRegs_ra01 (k : Core) (f : Regs → Regs) : (k.setRegs f).ra01 = k.ra01 := rfl
@[simp] theorem Core.setRegs_ra23 (k : Core) (f : Regs → Regs) : (k.setRegs f).ra23 = k.ra23 := rfl
@[simp] theorem Core.setRegs_subFlush (k : Core) (f : Regs → Regs) : (k.setRegs f).subFlush = k.subFlush := rfl
@[simp] theorem Core.setRegs_flagsCommitted (k : Core) (f : Regs → Regs) : (k.setRegs f).flagsCommitted = k.flagsCommitted := rfl
@[simp] theorem Core.setRegs_flagsStep (k : Core) (f : Regs → Regs) : (k.setRegs f).flagsStep = k.flagsStep := rfl
@[simp] theorem Core.setRegs_route (k : Core) (f : Regs → Regs) : (k.setRegs f).route = k.route := rfl
@[simp] theorem Core.setRegs_plain (k : Core) (f : Regs → Regs) : (k.setRegs f).plain = k.plain := rfl
@[simp] theorem Core.setRegs_plainBank (k : Core) (f : Regs → Regs) : (k.setRegs f).plainBank = k.plainBank := rfl
@[simp] theorem Core.setRegs_plan (k : Core) (f : Regs → Regs) : (k.setRegs f).plan = k.plan := rfl
@[simp] theorem Core.setRegs_planCore (k : Core) (f : Regs → Regs) : (k.setRegs f).planCore = k.planCore := rfl
@[simp] theorem Core.setRegs_run (k : Core) (f : Regs → Regs) : (k.setRegs f).run = k.run := rfl
@[simp] theorem Core.setRegs_bundle (k : Core) (f : Regs → Regs) : (k.setRegs f).bundle = k.bundle := rfl
@[simp] theorem Core.setRegs_loops (k : Core) (f : Regs → Regs) : (k.setRegs f).loops = k.loops := rfl
@[simp] theorem Core.setRegs_view (k : Core) (f : Regs → Regs) : (k.setRegs f).view = k.view := rfl
@[simp] theorem Core.setRegs_slotX (k : Core) (f : Regs → Regs) : (k.setRegs f).slotX = k.slotX := rfl
@[simp] theorem Core.setRegs_slotV (k : Core) (f : Regs → Regs) : (k.setRegs f).slotV = k.slotV := rfl
@[simp] theorem Core.setRegs_slotM (k : Core) (f : Regs → Regs) : (k.setRegs f).slotM = k.slotM := rfl
@[simp] theorem Core.setRegs_flagSeen (k : Core) (f : Regs → Regs) : (k.setRegs f).flagSeen = k.flagSeen := rfl
@[simp] theorem Core.setRegs_ckpt (k : Core) (f : Regs → Regs) : (k.setRegs f).ckpt = k.ckpt := rfl
@[simp] theorem Core.setRegs_candidate (k : Core) (f : Regs → Regs) : (k.setRegs f).candidate = k.candidate := rfl
@[simp] theorem Core.setRegs_moves (k : Core) (f : Regs → Regs) : (k.setRegs f).moves = k.moves := rfl
@[simp] theorem Core.setRegs_copies (k : Core) (f : Regs → Regs) : (k.setRegs f).copies = k.copies := rfl
@[simp] theorem Core.setRegs_issued (k : Core) (f : Regs → Regs) : (k.setRegs f).issued = k.issued := rfl
@[simp] theorem Core.setRegs_far (k : Core) (f : Regs → Regs) : (k.setRegs f).far = k.far := rfl
@[simp] theorem Core.setRegs_nextSeq (k : Core) (f : Regs → Regs) : (k.setRegs f).nextSeq = k.nextSeq := rfl
@[simp] theorem Core.setRegs_nextId (k : Core) (f : Regs → Regs) : (k.setRegs f).nextId = k.nextId := rfl
@[simp] theorem Core.setRegs_openId (k : Core) (f : Regs → Regs) : (k.setRegs f).openId = k.openId := rfl
@[simp] theorem Core.setRegs_openFlags (k : Core) (f : Regs → Regs) : (k.setRegs f).openFlags = k.openFlags := rfl
@[simp] theorem Core.setRegs_closed (k : Core) (f : Regs → Regs) : (k.setRegs f).closed = k.closed := rfl
@[simp] theorem Core.setRegs_fromS (k : Core) (f : Regs → Regs) : (k.setRegs f).fromS = k.fromS := rfl
@[simp] theorem Core.setRegs_work (k : Core) (f : Regs → Regs) : (k.setRegs f).work = k.work := rfl
@[simp] theorem Core.setRegs_ahead (k : Core) (f : Regs → Regs) : (k.setRegs f).ahead = k.ahead := rfl
@[simp] theorem Core.setRegs_fault (k : Core) (f : Regs → Regs) : (k.setRegs f).fault = k.fault := rfl
@[simp] theorem Core.setRegs_replayVote (k : Core) (f : Regs → Regs) : (k.setRegs f).replayVote = k.replayVote := rfl
@[simp] theorem Core.setRegs_fired (k : Core) (f : Regs → Regs) : (k.setRegs f).fired = k.fired := rfl
@[simp] theorem Core.setRegs_ratio (k : Core) (f : Regs → Regs) : (k.setRegs f).ratio = k.ratio := rfl
@[simp] theorem Core.setRegs_ratioLost (k : Core) (f : Regs → Regs) : (k.setRegs f).ratioLost = k.ratioLost := rfl
@[simp] theorem Core.setRegs_chains (k : Core) (f : Regs → Regs) : (k.setRegs f).chains = k.chains := rfl
@[simp] theorem Core.setRegs_sram (k : Core) (f : Regs → Regs) : (k.setRegs f).sram = k.sram := rfl
@[simp] theorem Core.setRegs_sramBad (k : Core) (f : Regs → Regs) : (k.setRegs f).sramBad = k.sramBad := rfl
@[simp] theorem Core.setRegs_sramUncorrectable (k : Core) (f : Regs → Regs) : (k.setRegs f).sramUncorrectable = k.sramUncorrectable := rfl
@[simp] theorem Core.setRegs_sramCorrected (k : Core) (f : Regs → Regs) : (k.setRegs f).sramCorrected = k.sramCorrected := rfl
@[simp] theorem Core.setRegs_sramLostStep (k : Core) (f : Regs → Regs) : (k.setRegs f).sramLostStep = k.sramLostStep := rfl
@[simp] theorem Core.setRegs_counters (k : Core) (f : Regs → Regs) : (k.setRegs f).counters = k.counters := rfl
@[simp] theorem Core.setRegs_topDown (k : Core) (f : Regs → Regs) : (k.setRegs f).topDown = k.topDown := rfl
@[simp] theorem Core.setRegs_regs (k : Core) (f : Regs → Regs) : (k.setRegs f).regs = f k.regs := rfl

@[simp] theorem Core.flag_regs (k : Core) (fl : NumFlags) : (k.flag fl).regs = k.regs := rfl
@[simp] theorem Core.flag_dc (k : Core) (fl : NumFlags) : (k.flag fl).dc = k.dc := rfl
@[simp] theorem Core.flag_fh (k : Core) (fl : NumFlags) : (k.flag fl).fh = k.fh := rfl
@[simp] theorem Core.flag_ra01 (k : Core) (fl : NumFlags) : (k.flag fl).ra01 = k.ra01 := rfl
@[simp] theorem Core.flag_ra23 (k : Core) (fl : NumFlags) : (k.flag fl).ra23 = k.ra23 := rfl
@[simp] theorem Core.flag_subFlush (k : Core) (fl : NumFlags) : (k.flag fl).subFlush = k.subFlush := rfl
@[simp] theorem Core.flag_flagsCommitted (k : Core) (fl : NumFlags) : (k.flag fl).flagsCommitted = k.flagsCommitted := rfl
@[simp] theorem Core.flag_route (k : Core) (fl : NumFlags) : (k.flag fl).route = k.route := rfl
@[simp] theorem Core.flag_plain (k : Core) (fl : NumFlags) : (k.flag fl).plain = k.plain := rfl
@[simp] theorem Core.flag_plainBank (k : Core) (fl : NumFlags) : (k.flag fl).plainBank = k.plainBank := rfl
@[simp] theorem Core.flag_plan (k : Core) (fl : NumFlags) : (k.flag fl).plan = k.plan := rfl
@[simp] theorem Core.flag_planCore (k : Core) (fl : NumFlags) : (k.flag fl).planCore = k.planCore := rfl
@[simp] theorem Core.flag_run (k : Core) (fl : NumFlags) : (k.flag fl).run = k.run := rfl
@[simp] theorem Core.flag_bundle (k : Core) (fl : NumFlags) : (k.flag fl).bundle = k.bundle := rfl
@[simp] theorem Core.flag_loops (k : Core) (fl : NumFlags) : (k.flag fl).loops = k.loops := rfl
@[simp] theorem Core.flag_view (k : Core) (fl : NumFlags) : (k.flag fl).view = k.view := rfl
@[simp] theorem Core.flag_slotX (k : Core) (fl : NumFlags) : (k.flag fl).slotX = k.slotX := rfl
@[simp] theorem Core.flag_slotV (k : Core) (fl : NumFlags) : (k.flag fl).slotV = k.slotV := rfl
@[simp] theorem Core.flag_slotM (k : Core) (fl : NumFlags) : (k.flag fl).slotM = k.slotM := rfl
@[simp] theorem Core.flag_flagSeen (k : Core) (fl : NumFlags) : (k.flag fl).flagSeen = k.flagSeen := rfl
@[simp] theorem Core.flag_ckpt (k : Core) (fl : NumFlags) : (k.flag fl).ckpt = k.ckpt := rfl
@[simp] theorem Core.flag_candidate (k : Core) (fl : NumFlags) : (k.flag fl).candidate = k.candidate := rfl
@[simp] theorem Core.flag_moves (k : Core) (fl : NumFlags) : (k.flag fl).moves = k.moves := rfl
@[simp] theorem Core.flag_copies (k : Core) (fl : NumFlags) : (k.flag fl).copies = k.copies := rfl
@[simp] theorem Core.flag_issued (k : Core) (fl : NumFlags) : (k.flag fl).issued = k.issued := rfl
@[simp] theorem Core.flag_far (k : Core) (fl : NumFlags) : (k.flag fl).far = k.far := rfl
@[simp] theorem Core.flag_nextSeq (k : Core) (fl : NumFlags) : (k.flag fl).nextSeq = k.nextSeq := rfl
@[simp] theorem Core.flag_nextId (k : Core) (fl : NumFlags) : (k.flag fl).nextId = k.nextId := rfl
@[simp] theorem Core.flag_openId (k : Core) (fl : NumFlags) : (k.flag fl).openId = k.openId := rfl
@[simp] theorem Core.flag_openFlags (k : Core) (fl : NumFlags) : (k.flag fl).openFlags = k.openFlags := rfl
@[simp] theorem Core.flag_closed (k : Core) (fl : NumFlags) : (k.flag fl).closed = k.closed := rfl
@[simp] theorem Core.flag_fromS (k : Core) (fl : NumFlags) : (k.flag fl).fromS = k.fromS := rfl
@[simp] theorem Core.flag_work (k : Core) (fl : NumFlags) : (k.flag fl).work = k.work := rfl
@[simp] theorem Core.flag_ahead (k : Core) (fl : NumFlags) : (k.flag fl).ahead = k.ahead := rfl
@[simp] theorem Core.flag_fault (k : Core) (fl : NumFlags) : (k.flag fl).fault = k.fault := rfl
@[simp] theorem Core.flag_replayVote (k : Core) (fl : NumFlags) : (k.flag fl).replayVote = k.replayVote := rfl
@[simp] theorem Core.flag_fired (k : Core) (fl : NumFlags) : (k.flag fl).fired = k.fired := rfl
@[simp] theorem Core.flag_ratio (k : Core) (fl : NumFlags) : (k.flag fl).ratio = k.ratio := rfl
@[simp] theorem Core.flag_ratioLost (k : Core) (fl : NumFlags) : (k.flag fl).ratioLost = k.ratioLost := rfl
@[simp] theorem Core.flag_chains (k : Core) (fl : NumFlags) : (k.flag fl).chains = k.chains := rfl
@[simp] theorem Core.flag_sram (k : Core) (fl : NumFlags) : (k.flag fl).sram = k.sram := rfl
@[simp] theorem Core.flag_sramBad (k : Core) (fl : NumFlags) : (k.flag fl).sramBad = k.sramBad := rfl
@[simp] theorem Core.flag_sramUncorrectable (k : Core) (fl : NumFlags) : (k.flag fl).sramUncorrectable = k.sramUncorrectable := rfl
@[simp] theorem Core.flag_sramCorrected (k : Core) (fl : NumFlags) : (k.flag fl).sramCorrected = k.sramCorrected := rfl
@[simp] theorem Core.flag_sramLostStep (k : Core) (fl : NumFlags) : (k.flag fl).sramLostStep = k.sramLostStep := rfl
@[simp] theorem Core.flag_counters (k : Core) (fl : NumFlags) : (k.flag fl).counters = k.counters := rfl
@[simp] theorem Core.flag_topDown (k : Core) (fl : NumFlags) : (k.flag fl).topDown = k.topDown := rfl
@[simp] theorem Core.flag_flagsStep (k : Core) (fl : NumFlags) : (k.flag fl).flagsStep = k.flagsStep ||| fl := rfl

@[simp] theorem Core.count_regs (k : Core) (event n : Nat) : (k.count event n).regs = k.regs := rfl
@[simp] theorem Core.count_dc (k : Core) (event n : Nat) : (k.count event n).dc = k.dc := rfl
@[simp] theorem Core.count_fh (k : Core) (event n : Nat) : (k.count event n).fh = k.fh := rfl
@[simp] theorem Core.count_ra01 (k : Core) (event n : Nat) : (k.count event n).ra01 = k.ra01 := rfl
@[simp] theorem Core.count_ra23 (k : Core) (event n : Nat) : (k.count event n).ra23 = k.ra23 := rfl
@[simp] theorem Core.count_subFlush (k : Core) (event n : Nat) : (k.count event n).subFlush = k.subFlush := rfl
@[simp] theorem Core.count_flagsCommitted (k : Core) (event n : Nat) : (k.count event n).flagsCommitted = k.flagsCommitted := rfl
@[simp] theorem Core.count_flagsStep (k : Core) (event n : Nat) : (k.count event n).flagsStep = k.flagsStep := rfl
@[simp] theorem Core.count_route (k : Core) (event n : Nat) : (k.count event n).route = k.route := rfl
@[simp] theorem Core.count_plain (k : Core) (event n : Nat) : (k.count event n).plain = k.plain := rfl
@[simp] theorem Core.count_plainBank (k : Core) (event n : Nat) : (k.count event n).plainBank = k.plainBank := rfl
@[simp] theorem Core.count_plan (k : Core) (event n : Nat) : (k.count event n).plan = k.plan := rfl
@[simp] theorem Core.count_planCore (k : Core) (event n : Nat) : (k.count event n).planCore = k.planCore := rfl
@[simp] theorem Core.count_run (k : Core) (event n : Nat) : (k.count event n).run = k.run := rfl
@[simp] theorem Core.count_bundle (k : Core) (event n : Nat) : (k.count event n).bundle = k.bundle := rfl
@[simp] theorem Core.count_loops (k : Core) (event n : Nat) : (k.count event n).loops = k.loops := rfl
@[simp] theorem Core.count_view (k : Core) (event n : Nat) : (k.count event n).view = k.view := rfl
@[simp] theorem Core.count_slotX (k : Core) (event n : Nat) : (k.count event n).slotX = k.slotX := rfl
@[simp] theorem Core.count_slotV (k : Core) (event n : Nat) : (k.count event n).slotV = k.slotV := rfl
@[simp] theorem Core.count_slotM (k : Core) (event n : Nat) : (k.count event n).slotM = k.slotM := rfl
@[simp] theorem Core.count_flagSeen (k : Core) (event n : Nat) : (k.count event n).flagSeen = k.flagSeen := rfl
@[simp] theorem Core.count_ckpt (k : Core) (event n : Nat) : (k.count event n).ckpt = k.ckpt := rfl
@[simp] theorem Core.count_candidate (k : Core) (event n : Nat) : (k.count event n).candidate = k.candidate := rfl
@[simp] theorem Core.count_moves (k : Core) (event n : Nat) : (k.count event n).moves = k.moves := rfl
@[simp] theorem Core.count_copies (k : Core) (event n : Nat) : (k.count event n).copies = k.copies := rfl
@[simp] theorem Core.count_issued (k : Core) (event n : Nat) : (k.count event n).issued = k.issued := rfl
@[simp] theorem Core.count_far (k : Core) (event n : Nat) : (k.count event n).far = k.far := rfl
@[simp] theorem Core.count_nextSeq (k : Core) (event n : Nat) : (k.count event n).nextSeq = k.nextSeq := rfl
@[simp] theorem Core.count_nextId (k : Core) (event n : Nat) : (k.count event n).nextId = k.nextId := rfl
@[simp] theorem Core.count_openId (k : Core) (event n : Nat) : (k.count event n).openId = k.openId := rfl
@[simp] theorem Core.count_openFlags (k : Core) (event n : Nat) : (k.count event n).openFlags = k.openFlags := rfl
@[simp] theorem Core.count_closed (k : Core) (event n : Nat) : (k.count event n).closed = k.closed := rfl
@[simp] theorem Core.count_fromS (k : Core) (event n : Nat) : (k.count event n).fromS = k.fromS := rfl
@[simp] theorem Core.count_work (k : Core) (event n : Nat) : (k.count event n).work = k.work := rfl
@[simp] theorem Core.count_ahead (k : Core) (event n : Nat) : (k.count event n).ahead = k.ahead := rfl
@[simp] theorem Core.count_fault (k : Core) (event n : Nat) : (k.count event n).fault = k.fault := rfl
@[simp] theorem Core.count_replayVote (k : Core) (event n : Nat) : (k.count event n).replayVote = k.replayVote := rfl
@[simp] theorem Core.count_fired (k : Core) (event n : Nat) : (k.count event n).fired = k.fired := rfl
@[simp] theorem Core.count_ratio (k : Core) (event n : Nat) : (k.count event n).ratio = k.ratio := rfl
@[simp] theorem Core.count_ratioLost (k : Core) (event n : Nat) : (k.count event n).ratioLost = k.ratioLost := rfl
@[simp] theorem Core.count_chains (k : Core) (event n : Nat) : (k.count event n).chains = k.chains := rfl
@[simp] theorem Core.count_sram (k : Core) (event n : Nat) : (k.count event n).sram = k.sram := rfl
@[simp] theorem Core.count_sramBad (k : Core) (event n : Nat) : (k.count event n).sramBad = k.sramBad := rfl
@[simp] theorem Core.count_sramUncorrectable (k : Core) (event n : Nat) : (k.count event n).sramUncorrectable = k.sramUncorrectable := rfl
@[simp] theorem Core.count_sramCorrected (k : Core) (event n : Nat) : (k.count event n).sramCorrected = k.sramCorrected := rfl
@[simp] theorem Core.count_sramLostStep (k : Core) (event n : Nat) : (k.count event n).sramLostStep = k.sramLostStep := rfl
@[simp] theorem Core.count_topDown (k : Core) (event n : Nat) : (k.count event n).topDown = k.topDown := rfl
@[simp] theorem Core.count_counters (k : Core) (event n : Nat) : (k.count event n).counters = k.counters.map (·.count event n) := rfl

@[simp] theorem Core.complete_regs (k : Core) (d : Fin 16) : (k.complete d).regs = k.regs := rfl
@[simp] theorem Core.complete_fh (k : Core) (d : Fin 16) : (k.complete d).fh = k.fh := rfl
@[simp] theorem Core.complete_ra01 (k : Core) (d : Fin 16) : (k.complete d).ra01 = k.ra01 := rfl
@[simp] theorem Core.complete_ra23 (k : Core) (d : Fin 16) : (k.complete d).ra23 = k.ra23 := rfl
@[simp] theorem Core.complete_subFlush (k : Core) (d : Fin 16) : (k.complete d).subFlush = k.subFlush := rfl
@[simp] theorem Core.complete_flagsCommitted (k : Core) (d : Fin 16) : (k.complete d).flagsCommitted = k.flagsCommitted := rfl
@[simp] theorem Core.complete_flagsStep (k : Core) (d : Fin 16) : (k.complete d).flagsStep = k.flagsStep := rfl
@[simp] theorem Core.complete_route (k : Core) (d : Fin 16) : (k.complete d).route = k.route := rfl
@[simp] theorem Core.complete_plain (k : Core) (d : Fin 16) : (k.complete d).plain = k.plain := rfl
@[simp] theorem Core.complete_plainBank (k : Core) (d : Fin 16) : (k.complete d).plainBank = k.plainBank := rfl
@[simp] theorem Core.complete_plan (k : Core) (d : Fin 16) : (k.complete d).plan = k.plan := rfl
@[simp] theorem Core.complete_planCore (k : Core) (d : Fin 16) : (k.complete d).planCore = k.planCore := rfl
@[simp] theorem Core.complete_run (k : Core) (d : Fin 16) : (k.complete d).run = k.run := rfl
@[simp] theorem Core.complete_bundle (k : Core) (d : Fin 16) : (k.complete d).bundle = k.bundle := rfl
@[simp] theorem Core.complete_loops (k : Core) (d : Fin 16) : (k.complete d).loops = k.loops := rfl
@[simp] theorem Core.complete_view (k : Core) (d : Fin 16) : (k.complete d).view = k.view := rfl
@[simp] theorem Core.complete_slotX (k : Core) (d : Fin 16) : (k.complete d).slotX = k.slotX := rfl
@[simp] theorem Core.complete_slotV (k : Core) (d : Fin 16) : (k.complete d).slotV = k.slotV := rfl
@[simp] theorem Core.complete_slotM (k : Core) (d : Fin 16) : (k.complete d).slotM = k.slotM := rfl
@[simp] theorem Core.complete_flagSeen (k : Core) (d : Fin 16) : (k.complete d).flagSeen = k.flagSeen := rfl
@[simp] theorem Core.complete_ckpt (k : Core) (d : Fin 16) : (k.complete d).ckpt = k.ckpt := rfl
@[simp] theorem Core.complete_candidate (k : Core) (d : Fin 16) : (k.complete d).candidate = k.candidate := rfl
@[simp] theorem Core.complete_moves (k : Core) (d : Fin 16) : (k.complete d).moves = k.moves := rfl
@[simp] theorem Core.complete_copies (k : Core) (d : Fin 16) : (k.complete d).copies = k.copies := rfl
@[simp] theorem Core.complete_issued (k : Core) (d : Fin 16) : (k.complete d).issued = k.issued := rfl
@[simp] theorem Core.complete_far (k : Core) (d : Fin 16) : (k.complete d).far = k.far := rfl
@[simp] theorem Core.complete_nextSeq (k : Core) (d : Fin 16) : (k.complete d).nextSeq = k.nextSeq := rfl
@[simp] theorem Core.complete_nextId (k : Core) (d : Fin 16) : (k.complete d).nextId = k.nextId := rfl
@[simp] theorem Core.complete_openId (k : Core) (d : Fin 16) : (k.complete d).openId = k.openId := rfl
@[simp] theorem Core.complete_openFlags (k : Core) (d : Fin 16) : (k.complete d).openFlags = k.openFlags := rfl
@[simp] theorem Core.complete_closed (k : Core) (d : Fin 16) : (k.complete d).closed = k.closed := rfl
@[simp] theorem Core.complete_fromS (k : Core) (d : Fin 16) : (k.complete d).fromS = k.fromS := rfl
@[simp] theorem Core.complete_work (k : Core) (d : Fin 16) : (k.complete d).work = k.work := rfl
@[simp] theorem Core.complete_ahead (k : Core) (d : Fin 16) : (k.complete d).ahead = k.ahead := rfl
@[simp] theorem Core.complete_fault (k : Core) (d : Fin 16) : (k.complete d).fault = k.fault := rfl
@[simp] theorem Core.complete_replayVote (k : Core) (d : Fin 16) : (k.complete d).replayVote = k.replayVote := rfl
@[simp] theorem Core.complete_fired (k : Core) (d : Fin 16) : (k.complete d).fired = k.fired := rfl
@[simp] theorem Core.complete_ratio (k : Core) (d : Fin 16) : (k.complete d).ratio = k.ratio := rfl
@[simp] theorem Core.complete_ratioLost (k : Core) (d : Fin 16) : (k.complete d).ratioLost = k.ratioLost := rfl
@[simp] theorem Core.complete_chains (k : Core) (d : Fin 16) : (k.complete d).chains = k.chains := rfl
@[simp] theorem Core.complete_sram (k : Core) (d : Fin 16) : (k.complete d).sram = k.sram := rfl
@[simp] theorem Core.complete_sramBad (k : Core) (d : Fin 16) : (k.complete d).sramBad = k.sramBad := rfl
@[simp] theorem Core.complete_sramUncorrectable (k : Core) (d : Fin 16) : (k.complete d).sramUncorrectable = k.sramUncorrectable := rfl
@[simp] theorem Core.complete_sramCorrected (k : Core) (d : Fin 16) : (k.complete d).sramCorrected = k.sramCorrected := rfl
@[simp] theorem Core.complete_sramLostStep (k : Core) (d : Fin 16) : (k.complete d).sramLostStep = k.sramLostStep := rfl
@[simp] theorem Core.complete_counters (k : Core) (d : Fin 16) : (k.complete d).counters = k.counters := rfl
@[simp] theorem Core.complete_topDown (k : Core) (d : Fin 16) : (k.complete d).topDown = k.topDown := rfl
@[simp] theorem Core.complete_dc (k : Core) (d : Fin 16) : (k.complete d).dc = k.dc.set d (k.dc[d] + 1) := rfl

@[simp] theorem Regs.setS_a (r : Regs) (i : Nat) (v : SWord) : (r.setS i v).a = r.a := rfl
@[simp] theorem Regs.setS_k (r : Regs) (i : Nat) (v : SWord) : (r.setS i v).k = r.k := rfl
@[simp] theorem Regs.setS_l (r : Regs) (i : Nat) (v : SWord) : (r.setS i v).l = r.l := rfl
@[simp] theorem Regs.setS_v (r : Regs) (i : Nat) (v : SWord) : (r.setS i v).v = r.v := rfl
@[simp] theorem Regs.setS_t (r : Regs) (i : Nat) (v : SWord) : (r.setS i v).t = r.t := rfl

@[simp] theorem Regs.setA_s (r : Regs) (i : Nat) (v : AWord) : (r.setA i v).s = r.s := rfl
@[simp] theorem Regs.setA_k (r : Regs) (i : Nat) (v : AWord) : (r.setA i v).k = r.k := rfl
@[simp] theorem Regs.setA_l (r : Regs) (i : Nat) (v : AWord) : (r.setA i v).l = r.l := rfl
@[simp] theorem Regs.setA_v (r : Regs) (i : Nat) (v : AWord) : (r.setA i v).v = r.v := rfl
@[simp] theorem Regs.setA_t (r : Regs) (i : Nat) (v : AWord) : (r.setA i v).t = r.t := rfl

@[simp] theorem Regs.setL_s (r : Regs) (i : Nat) (v : LWord) : (r.setL i v).s = r.s := rfl
@[simp] theorem Regs.setL_a (r : Regs) (i : Nat) (v : LWord) : (r.setL i v).a = r.a := rfl
@[simp] theorem Regs.setL_k (r : Regs) (i : Nat) (v : LWord) : (r.setL i v).k = r.k := rfl
@[simp] theorem Regs.setL_v (r : Regs) (i : Nat) (v : LWord) : (r.setL i v).v = r.v := rfl
@[simp] theorem Regs.setL_t (r : Regs) (i : Nat) (v : LWord) : (r.setL i v).t = r.t := rfl

@[simp] theorem Regs.setV_s (r : Regs) (i : Nat) (v : VReg) : (r.setV i v).s = r.s := rfl
@[simp] theorem Regs.setV_a (r : Regs) (i : Nat) (v : VReg) : (r.setV i v).a = r.a := rfl
@[simp] theorem Regs.setV_k (r : Regs) (i : Nat) (v : VReg) : (r.setV i v).k = r.k := rfl
@[simp] theorem Regs.setV_l (r : Regs) (i : Nat) (v : VReg) : (r.setV i v).l = r.l := rfl
@[simp] theorem Regs.setV_t (r : Regs) (i : Nat) (v : VReg) : (r.setV i v).t = r.t := rfl

@[simp] theorem Regs.setT_s (r : Regs) (i : BitVec 3) (v : TReg) : (r.setT i v).s = r.s := rfl
@[simp] theorem Regs.setT_a (r : Regs) (i : BitVec 3) (v : TReg) : (r.setT i v).a = r.a := rfl
@[simp] theorem Regs.setT_k (r : Regs) (i : BitVec 3) (v : TReg) : (r.setT i v).k = r.k := rfl
@[simp] theorem Regs.setT_l (r : Regs) (i : BitVec 3) (v : TReg) : (r.setT i v).l = r.l := rfl
@[simp] theorem Regs.setT_v (r : Regs) (i : BitVec 3) (v : TReg) : (r.setT i v).v = r.v := rfl

@[simp] theorem sendControl_pending (s : State) (dst : List Nat) (msg job arg : Nat) (b : Bytes) :
    (sendControl s dst msg job arg b).pending = s.pending := rfl
@[simp] theorem sendControl_bell (s : State) (dst : List Nat) (msg job arg : Nat) (b : Bytes) :
    (sendControl s dst msg job arg b).bell = s.bell := rfl
@[simp] theorem sendControl_bellRunning (s : State) (dst : List Nat) (msg job arg : Nat) (b : Bytes) :
    (sendControl s dst msg job arg b).bellRunning = s.bellRunning := rfl
@[simp] theorem sendControl_free (s : State) (dst : List Nat) (msg job arg : Nat) (b : Bytes) :
    (sendControl s dst msg job arg b).free = s.free := rfl
@[simp] theorem sendControl_cores (s : State) (dst : List Nat) (msg job arg : Nat) (b : Bytes) :
    (sendControl s dst msg job arg b).cores = s.cores := rfl
@[simp] theorem sendControl_coreMap (s : State) (dst : List Nat) (msg job arg : Nat) (b : Bytes) :
    (sendControl s dst msg job arg b).coreMap = s.coreMap := rfl
@[simp] theorem sendControl_logicalCount (s : State) (dst : List Nat) (msg job arg : Nat) (b : Bytes) :
    (sendControl s dst msg job arg b).logicalCount = s.logicalCount := rfl
@[simp] theorem sendControl_hbm (s : State) (dst : List Nat) (msg job arg : Nat) (b : Bytes) :
    (sendControl s dst msg job arg b).hbm = s.hbm := rfl
@[simp] theorem sendControl_hbmBad (s : State) (dst : List Nat) (msg job arg : Nat) (b : Bytes) :
    (sendControl s dst msg job arg b).hbmBad = s.hbmBad := rfl
@[simp] theorem sendControl_channels (s : State) (dst : List Nat) (msg job arg : Nat) (b : Bytes) :
    (sendControl s dst msg job arg b).channels = s.channels := rfl
@[simp] theorem sendControl_bins (s : State) (dst : List Nat) (msg job arg : Nat) (b : Bytes) :
    (sendControl s dst msg job arg b).bins = s.bins := rfl
@[simp] theorem sendControl_carts (s : State) (dst : List Nat) (msg job arg : Nat) (b : Bytes) :
    (sendControl s dst msg job arg b).carts = s.carts := rfl
@[simp] theorem sendControl_recks (s : State) (dst : List Nat) (msg job arg : Nat) (b : Bytes) :
    (sendControl s dst msg job arg b).recks = s.recks := rfl
@[simp] theorem sendControl_mills (s : State) (dst : List Nat) (msg job arg : Nat) (b : Bytes) :
    (sendControl s dst msg job arg b).mills = s.mills := rfl
@[simp] theorem sendControl_colls (s : State) (dst : List Nat) (msg job arg : Nat) (b : Bytes) :
    (sendControl s dst msg job arg b).colls = s.colls := rfl
@[simp] theorem sendControl_granary (s : State) (dst : List Nat) (msg job arg : Nat) (b : Bytes) :
    (sendControl s dst msg job arg b).granary = s.granary := rfl
@[simp] theorem sendControl_plans (s : State) (dst : List Nat) (msg job arg : Nat) (b : Bytes) :
    (sendControl s dst msg job arg b).plans = s.plans := rfl
@[simp] theorem sendControl_seqSlots (s : State) (dst : List Nat) (msg job arg : Nat) (b : Bytes) :
    (sendControl s dst msg job arg b).seqSlots = s.seqSlots := rfl
@[simp] theorem sendControl_journal (s : State) (dst : List Nat) (msg job arg : Nat) (b : Bytes) :
    (sendControl s dst msg job arg b).journal = s.journal := rfl
@[simp] theorem sendControl_mod (s : State) (dst : List Nat) (msg job arg : Nat) (b : Bytes) :
    (sendControl s dst msg job arg b).mod = s.mod := rfl
@[simp] theorem sendControl_domain (s : State) (dst : List Nat) (msg job arg : Nat) (b : Bytes) :
    (sendControl s dst msg job arg b).domain = s.domain := rfl
@[simp] theorem sendControl_cfg (s : State) (dst : List Nat) (msg job arg : Nat) (b : Bytes) :
    (sendControl s dst msg job arg b).cfg = s.cfg := rfl
@[simp] theorem sendControl_health (s : State) (dst : List Nat) (msg job arg : Nat) (b : Bytes) :
    (sendControl s dst msg job arg b).health = s.health := rfl
@[simp] theorem sendControl_reforming (s : State) (dst : List Nat) (msg job arg : Nat) (b : Bytes) :
    (sendControl s dst msg job arg b).reforming = s.reforming := rfl
@[simp] theorem sendControl_frozen (s : State) (dst : List Nat) (msg job arg : Nat) (b : Bytes) :
    (sendControl s dst msg job arg b).frozen = s.frozen := rfl
@[simp] theorem sendControl_subs (s : State) (dst : List Nat) (msg job arg : Nat) (b : Bytes) :
    (sendControl s dst msg job arg b).subs = s.subs := rfl
@[simp] theorem sendControl_host (s : State) (dst : List Nat) (msg job arg : Nat) (b : Bytes) :
    (sendControl s dst msg job arg b).host = s.host := rfl
@[simp] theorem sendControl_adm (s : State) (dst : List Nat) (msg job arg : Nat) (b : Bytes) :
    (sendControl s dst msg job arg b).adm = s.adm := rfl
@[simp] theorem sendControl_ports (s : State) (dst : List Nat) (msg job arg : Nat) (b : Bytes) :
    (sendControl s dst msg job arg b).ports = s.ports := rfl
@[simp] theorem sendControl_routes (s : State) (dst : List Nat) (msg job arg : Nat) (b : Bytes) :
    (sendControl s dst msg job arg b).routes = s.routes := rfl
@[simp] theorem sendControl_regions (s : State) (dst : List Nat) (msg job arg : Nat) (b : Bytes) :
    (sendControl s dst msg job arg b).regions = s.regions := rfl
@[simp] theorem sendControl_endpoint (s : State) (dst : List Nat) (msg job arg : Nat) (b : Bytes) :
    (sendControl s dst msg job arg b).endpoint = s.endpoint := rfl
@[simp] theorem sendControl_timeError (s : State) (dst : List Nat) (msg job arg : Nat) (b : Bytes) :
    (sendControl s dst msg job arg b).timeError = s.timeError := rfl
@[simp] theorem sendControl_steerTicks (s : State) (dst : List Nat) (msg job arg : Nat) (b : Bytes) :
    (sendControl s dst msg job arg b).steerTicks = s.steerTicks := rfl
@[simp] theorem sendControl_acted (s : State) (dst : List Nat) (msg job arg : Nat) (b : Bytes) :
    (sendControl s dst msg job arg b).acted = s.acted := rfl
@[simp] theorem sendControl_reeve (s : State) (dst : List Nat) (msg job arg : Nat) (b : Bytes) :
    (sendControl s dst msg job arg b).reeve = s.reeve := rfl
@[simp] theorem sendControl_meas (s : State) (dst : List Nat) (msg job arg : Nat) (b : Bytes) :
    (sendControl s dst msg job arg b).meas = s.meas := rfl
@[simp] theorem sendControl_fuses (s : State) (dst : List Nat) (msg job arg : Nat) (b : Bytes) :
    (sendControl s dst msg job arg b).fuses = s.fuses := rfl
@[simp] theorem sendControl_allowed (s : State) (dst : List Nat) (msg job arg : Nat) (b : Bytes) :
    (sendControl s dst msg job arg b).allowed = s.allowed := rfl
@[simp] theorem sendControl_flash (s : State) (dst : List Nat) (msg job arg : Nat) (b : Bytes) :
    (sendControl s dst msg job arg b).flash = s.flash := rfl
@[simp] theorem sendControl_power (s : State) (dst : List Nat) (msg job arg : Nat) (b : Bytes) :
    (sendControl s dst msg job arg b).power = s.power := rfl
@[simp] theorem sendControl_sensors (s : State) (dst : List Nat) (msg job arg : Nat) (b : Bytes) :
    (sendControl s dst msg job arg b).sensors = s.sensors := rfl
@[simp] theorem sendControl_draining (s : State) (dst : List Nat) (msg job arg : Nat) (b : Bytes) :
    (sendControl s dst msg job arg b).draining = s.draining := rfl
@[simp] theorem sendControl_autostart (s : State) (dst : List Nat) (msg job arg : Nat) (b : Bytes) :
    (sendControl s dst msg job arg b).autostart = s.autostart := rfl
@[simp] theorem sendControl_mgmt (s : State) (dst : List Nat) (msg job arg : Nat) (b : Bytes) :
    (sendControl s dst msg job arg b).mgmt = s.mgmt := rfl
@[simp] theorem sendControl_counting (s : State) (dst : List Nat) (msg job arg : Nat) (b : Bytes) :
    (sendControl s dst msg job arg b).counting = s.counting := rfl
@[simp] theorem sendControl_tap (s : State) (dst : List Nat) (msg job arg : Nat) (b : Bytes) :
    (sendControl s dst msg job arg b).tap = s.tap := rfl
@[simp] theorem sendControl_out (s : State) (dst : List Nat) (msg job arg : Nat) (b : Bytes) :
    (sendControl s dst msg job arg b).out = s.out ++ [.control (controlMsg s dst msg job arg b)] := rfl

@[simp] theorem answerControl_pending (s : State) (pick : Acted → Bool) (dst : List Nat) (msg job arg : Nat) (b : Bytes) :
    (answerControl s pick dst msg job arg b).pending = s.pending := rfl
@[simp] theorem answerControl_bell (s : State) (pick : Acted → Bool) (dst : List Nat) (msg job arg : Nat) (b : Bytes) :
    (answerControl s pick dst msg job arg b).bell = s.bell := rfl
@[simp] theorem answerControl_bellRunning (s : State) (pick : Acted → Bool) (dst : List Nat) (msg job arg : Nat) (b : Bytes) :
    (answerControl s pick dst msg job arg b).bellRunning = s.bellRunning := rfl
@[simp] theorem answerControl_free (s : State) (pick : Acted → Bool) (dst : List Nat) (msg job arg : Nat) (b : Bytes) :
    (answerControl s pick dst msg job arg b).free = s.free := rfl
@[simp] theorem answerControl_cores (s : State) (pick : Acted → Bool) (dst : List Nat) (msg job arg : Nat) (b : Bytes) :
    (answerControl s pick dst msg job arg b).cores = s.cores := rfl
@[simp] theorem answerControl_coreMap (s : State) (pick : Acted → Bool) (dst : List Nat) (msg job arg : Nat) (b : Bytes) :
    (answerControl s pick dst msg job arg b).coreMap = s.coreMap := rfl
@[simp] theorem answerControl_logicalCount (s : State) (pick : Acted → Bool) (dst : List Nat) (msg job arg : Nat) (b : Bytes) :
    (answerControl s pick dst msg job arg b).logicalCount = s.logicalCount := rfl
@[simp] theorem answerControl_hbm (s : State) (pick : Acted → Bool) (dst : List Nat) (msg job arg : Nat) (b : Bytes) :
    (answerControl s pick dst msg job arg b).hbm = s.hbm := rfl
@[simp] theorem answerControl_hbmBad (s : State) (pick : Acted → Bool) (dst : List Nat) (msg job arg : Nat) (b : Bytes) :
    (answerControl s pick dst msg job arg b).hbmBad = s.hbmBad := rfl
@[simp] theorem answerControl_channels (s : State) (pick : Acted → Bool) (dst : List Nat) (msg job arg : Nat) (b : Bytes) :
    (answerControl s pick dst msg job arg b).channels = s.channels := rfl
@[simp] theorem answerControl_bins (s : State) (pick : Acted → Bool) (dst : List Nat) (msg job arg : Nat) (b : Bytes) :
    (answerControl s pick dst msg job arg b).bins = s.bins := rfl
@[simp] theorem answerControl_carts (s : State) (pick : Acted → Bool) (dst : List Nat) (msg job arg : Nat) (b : Bytes) :
    (answerControl s pick dst msg job arg b).carts = s.carts := rfl
@[simp] theorem answerControl_recks (s : State) (pick : Acted → Bool) (dst : List Nat) (msg job arg : Nat) (b : Bytes) :
    (answerControl s pick dst msg job arg b).recks = s.recks := rfl
@[simp] theorem answerControl_mills (s : State) (pick : Acted → Bool) (dst : List Nat) (msg job arg : Nat) (b : Bytes) :
    (answerControl s pick dst msg job arg b).mills = s.mills := rfl
@[simp] theorem answerControl_colls (s : State) (pick : Acted → Bool) (dst : List Nat) (msg job arg : Nat) (b : Bytes) :
    (answerControl s pick dst msg job arg b).colls = s.colls := rfl
@[simp] theorem answerControl_granary (s : State) (pick : Acted → Bool) (dst : List Nat) (msg job arg : Nat) (b : Bytes) :
    (answerControl s pick dst msg job arg b).granary = s.granary := rfl
@[simp] theorem answerControl_plans (s : State) (pick : Acted → Bool) (dst : List Nat) (msg job arg : Nat) (b : Bytes) :
    (answerControl s pick dst msg job arg b).plans = s.plans := rfl
@[simp] theorem answerControl_seqSlots (s : State) (pick : Acted → Bool) (dst : List Nat) (msg job arg : Nat) (b : Bytes) :
    (answerControl s pick dst msg job arg b).seqSlots = s.seqSlots := rfl
@[simp] theorem answerControl_journal (s : State) (pick : Acted → Bool) (dst : List Nat) (msg job arg : Nat) (b : Bytes) :
    (answerControl s pick dst msg job arg b).journal = s.journal := rfl
@[simp] theorem answerControl_mod (s : State) (pick : Acted → Bool) (dst : List Nat) (msg job arg : Nat) (b : Bytes) :
    (answerControl s pick dst msg job arg b).mod = s.mod := rfl
@[simp] theorem answerControl_domain (s : State) (pick : Acted → Bool) (dst : List Nat) (msg job arg : Nat) (b : Bytes) :
    (answerControl s pick dst msg job arg b).domain = s.domain := rfl
@[simp] theorem answerControl_cfg (s : State) (pick : Acted → Bool) (dst : List Nat) (msg job arg : Nat) (b : Bytes) :
    (answerControl s pick dst msg job arg b).cfg = s.cfg := rfl
@[simp] theorem answerControl_health (s : State) (pick : Acted → Bool) (dst : List Nat) (msg job arg : Nat) (b : Bytes) :
    (answerControl s pick dst msg job arg b).health = s.health := rfl
@[simp] theorem answerControl_reforming (s : State) (pick : Acted → Bool) (dst : List Nat) (msg job arg : Nat) (b : Bytes) :
    (answerControl s pick dst msg job arg b).reforming = s.reforming := rfl
@[simp] theorem answerControl_frozen (s : State) (pick : Acted → Bool) (dst : List Nat) (msg job arg : Nat) (b : Bytes) :
    (answerControl s pick dst msg job arg b).frozen = s.frozen := rfl
@[simp] theorem answerControl_subs (s : State) (pick : Acted → Bool) (dst : List Nat) (msg job arg : Nat) (b : Bytes) :
    (answerControl s pick dst msg job arg b).subs = s.subs := rfl
@[simp] theorem answerControl_host (s : State) (pick : Acted → Bool) (dst : List Nat) (msg job arg : Nat) (b : Bytes) :
    (answerControl s pick dst msg job arg b).host = s.host := rfl
@[simp] theorem answerControl_adm (s : State) (pick : Acted → Bool) (dst : List Nat) (msg job arg : Nat) (b : Bytes) :
    (answerControl s pick dst msg job arg b).adm = s.adm := rfl
@[simp] theorem answerControl_ports (s : State) (pick : Acted → Bool) (dst : List Nat) (msg job arg : Nat) (b : Bytes) :
    (answerControl s pick dst msg job arg b).ports = s.ports := rfl
@[simp] theorem answerControl_routes (s : State) (pick : Acted → Bool) (dst : List Nat) (msg job arg : Nat) (b : Bytes) :
    (answerControl s pick dst msg job arg b).routes = s.routes := rfl
@[simp] theorem answerControl_regions (s : State) (pick : Acted → Bool) (dst : List Nat) (msg job arg : Nat) (b : Bytes) :
    (answerControl s pick dst msg job arg b).regions = s.regions := rfl
@[simp] theorem answerControl_endpoint (s : State) (pick : Acted → Bool) (dst : List Nat) (msg job arg : Nat) (b : Bytes) :
    (answerControl s pick dst msg job arg b).endpoint = s.endpoint := rfl
@[simp] theorem answerControl_timeError (s : State) (pick : Acted → Bool) (dst : List Nat) (msg job arg : Nat) (b : Bytes) :
    (answerControl s pick dst msg job arg b).timeError = s.timeError := rfl
@[simp] theorem answerControl_steerTicks (s : State) (pick : Acted → Bool) (dst : List Nat) (msg job arg : Nat) (b : Bytes) :
    (answerControl s pick dst msg job arg b).steerTicks = s.steerTicks := rfl
@[simp] theorem answerControl_reeve (s : State) (pick : Acted → Bool) (dst : List Nat) (msg job arg : Nat) (b : Bytes) :
    (answerControl s pick dst msg job arg b).reeve = s.reeve := rfl
@[simp] theorem answerControl_meas (s : State) (pick : Acted → Bool) (dst : List Nat) (msg job arg : Nat) (b : Bytes) :
    (answerControl s pick dst msg job arg b).meas = s.meas := rfl
@[simp] theorem answerControl_fuses (s : State) (pick : Acted → Bool) (dst : List Nat) (msg job arg : Nat) (b : Bytes) :
    (answerControl s pick dst msg job arg b).fuses = s.fuses := rfl
@[simp] theorem answerControl_allowed (s : State) (pick : Acted → Bool) (dst : List Nat) (msg job arg : Nat) (b : Bytes) :
    (answerControl s pick dst msg job arg b).allowed = s.allowed := rfl
@[simp] theorem answerControl_flash (s : State) (pick : Acted → Bool) (dst : List Nat) (msg job arg : Nat) (b : Bytes) :
    (answerControl s pick dst msg job arg b).flash = s.flash := rfl
@[simp] theorem answerControl_power (s : State) (pick : Acted → Bool) (dst : List Nat) (msg job arg : Nat) (b : Bytes) :
    (answerControl s pick dst msg job arg b).power = s.power := rfl
@[simp] theorem answerControl_sensors (s : State) (pick : Acted → Bool) (dst : List Nat) (msg job arg : Nat) (b : Bytes) :
    (answerControl s pick dst msg job arg b).sensors = s.sensors := rfl
@[simp] theorem answerControl_draining (s : State) (pick : Acted → Bool) (dst : List Nat) (msg job arg : Nat) (b : Bytes) :
    (answerControl s pick dst msg job arg b).draining = s.draining := rfl
@[simp] theorem answerControl_autostart (s : State) (pick : Acted → Bool) (dst : List Nat) (msg job arg : Nat) (b : Bytes) :
    (answerControl s pick dst msg job arg b).autostart = s.autostart := rfl
@[simp] theorem answerControl_mgmt (s : State) (pick : Acted → Bool) (dst : List Nat) (msg job arg : Nat) (b : Bytes) :
    (answerControl s pick dst msg job arg b).mgmt = s.mgmt := rfl
@[simp] theorem answerControl_counting (s : State) (pick : Acted → Bool) (dst : List Nat) (msg job arg : Nat) (b : Bytes) :
    (answerControl s pick dst msg job arg b).counting = s.counting := rfl
@[simp] theorem answerControl_tap (s : State) (pick : Acted → Bool) (dst : List Nat) (msg job arg : Nat) (b : Bytes) :
    (answerControl s pick dst msg job arg b).tap = s.tap := rfl
@[simp] theorem answerControl_out (s : State) (pick : Acted → Bool) (dst : List Nat) (msg job arg : Nat) (b : Bytes) :
    (answerControl s pick dst msg job arg b).out = s.out ++ [.control (controlMsg s dst msg job arg b)] := rfl

end Sys2Proof.Machine
end

