-- ==== Sys2Proof/Laws/Access.lean ====
section
/-! SUPPORT. Everything that a write by plan address and the fence of a job can do, said once. -/

namespace Sys2Proof.Machine
open Sys2Proof

/-- `t` is `s` after writes: bytes, marks of uncorrectable words and tallies, and nothing else; the invariant is kept. -/
def Wrote (s t : State) : Prop :=
  t = { s with hbm := t.hbm, hbmBad := t.hbmBad, cores := t.cores, bins := t.bins, plans := t.plans }
  ∧ (∀ c : CoreId, t.cores[c] = { s.cores[c] with sram := t.cores[c].sram, sramBad := t.cores[c].sramBad })
  ∧ (∀ b : Fin 512, t.bins[b] = { s.bins[b] with mem := t.bins[b].mem, bad := t.bins[b].bad })
  ∧ (∀ i : Fin 16, ∃ f : Plan → List (Nat × Nat), t.plans[i] = (s.plans[i]).map (fun p => { p with tallies := f p }))
  ∧ (Inv s → Inv t)

theorem wrote_refl (s : State) : Wrote s s := by
  refine ⟨rfl, fun _ => rfl, fun _ => rfl, fun i => ⟨fun p => p.tallies, ?_⟩, id⟩
  cases s.plans[i] <;> rfl

theorem wrote_trans {s t u : State} (h : Wrote s t) (g : Wrote t u) : Wrote s u := by
  obtain ⟨h1, h2, h3, h4, h5⟩ := h
  obtain ⟨g1, g2, g3, g4, g5⟩ := g
  refine ⟨?_, ?_, ?_, ?_, g5 ∘ h5⟩
  · rw [g1, h1]
  · intro c; rw [g2 c, h2 c]
  · intro b; rw [g3 b, h3 b]
  · intro i
    obtain ⟨f, hf⟩ := h4 i
    obtain ⟨k, hk⟩ := g4 i
    refine ⟨fun p => k { p with tallies := f p }, ?_⟩
    rw [hk, hf]; cases s.plans[i] <;> rfl

theorem wrote_of_hbm {s : State} {m : Mem} {l : List Nat} (h : memWf 0 s.hbm = true → memWf 0 m = true) :
    Wrote s { s with hbm := m, hbmBad := l } := by
  refine ⟨rfl, fun _ => rfl, fun _ => rfl, fun i => ⟨fun p => p.tallies, ?_⟩, ?_⟩
  · cases s.plans[i] <;> rfl
  · rintro ⟨a, b⟩; exact ⟨h a, b⟩

theorem wrote_of_sram {s : State} {c : CoreId} {g : Core → Mem} {l : Core → List Nat}
    (h : memWf 0 s.cores[c].sram = true → memWf 0 (g s.cores[c]) = true) :
    Wrote s (s.modCore c (fun k => { k with sram := g k, sramBad := l k })) := by
  have hc (d : CoreId) : (s.modCore c (fun k => { k with sram := g k, sramBad := l k })).cores[d]
      = if d = c then { s.cores[c] with sram := g s.cores[c], sramBad := l s.cores[c] } else s.cores[d] := by
    by_cases hd : d = c
    · subst hd; simp [State.modCore]
    · have : c.val ≠ d.val := fun h' => hd (Fin.ext h'.symm)
      simp [State.modCore, this, hd]
  refine ⟨rfl, ?_, fun _ => rfl, fun i => ⟨fun p => p.tallies, ?_⟩, ?_⟩
  · intro d; rw [hc]; split
    · rename_i hd; subst hd; rfl
    · rfl
  · simp only [State.modCore_plans]; cases s.plans[i] <;> rfl
  · rintro ⟨a, b, e, r⟩
    refine ⟨a, b, ?_, r⟩
    intro d; rw [hc]; split
    · exact ⟨h (e c).1, (e c).2⟩
    · exact e d

theorem wrote_of_bin {s : State} {b : Fin 512} {m : Mem} {l : List Nat}
    (h : memWf 0 s.bins[b].mem = true → memWf 0 m = true) :
    Wrote s { s with bins := s.bins.set b { s.bins[b] with mem := m, bad := l } } := by
  have hc (d : Fin 512) : (s.bins.set b { s.bins[b] with mem := m, bad := l })[d]
      = if d = b then { s.bins[b] with mem := m, bad := l } else s.bins[d] := by
    by_cases hd : d = b
    · subst hd; simp
    · have : b.val ≠ d.val := fun h' => hd (Fin.ext h'.symm)
      simp [this, hd]
  refine ⟨rfl, fun _ => rfl, ?_, fun i => ⟨fun p => p.tallies, ?_⟩, ?_⟩
  · intro d
    dsimp only
    rw [hc]; split
    · rename_i hd; subst hd; rfl
    · rfl
  · cases s.plans[i] <;> rfl
  · rintro ⟨a, x, e, r, q⟩
    refine ⟨a, x, e, ?_, q⟩
    intro d
    dsimp only
    rw [hc]; split
    · exact h (r b)
    · exact r d

theorem writePlace_wrote {s t : State} {pl : Place} {bs : Bytes} {whole : Bool} (h : writePlace s pl bs whole = some t) :
    Wrote s t := by
  cases pl with
  | hbm k =>
    simp only [writePlace] at h
    split at h
    · cases h; exact wrote_refl s
    · split at h
      · cases h; exact wrote_refl s
      · split at h
        · cases h; exact wrote_of_hbm (fun w => memWrite_wf bs k w)
        · split at h
          · cases h
          · cases h; exact wrote_of_hbm (fun w => memWrite_wf bs k w)
  | sram c off =>
    simp only [writePlace] at h
    split at h
    · cases h
    · cases h; exact wrote_of_sram (fun w => memWrite_wf bs off w)
  | granary b off =>
    simp only [writePlace] at h
    split at h
    · cases h
    · cases h; exact wrote_of_bin (fun w => memWrite_wf bs off w)

theorem tallyRanges_wrote (s : State) (i : Fin 16) (l : List (Nat × Nat)) : Wrote s (tallyRanges s i l) := by
  unfold tallyRanges
  split
  · exact wrote_refl s
  · rename_i p hp
    split
    · refine ⟨rfl, fun _ => rfl, fun _ => rfl, ?_, id⟩
      intro j
      by_cases hj : j = i
      · subst hj
        exact ⟨_, by simp only [State.modPlan_plans, Fin.getElem_fin, Vector.getElem_set_self]; rfl⟩
      · have : i.val ≠ j.val := fun h' => hj (Fin.ext h'.symm)
        refine ⟨fun p => p.tallies, ?_⟩
        simp only [State.modPlan_plans, Fin.getElem_fin, Vector.getElem_set_ne _ _ this]
        cases s.plans[j.val] <;> rfl
    · exact wrote_refl s

theorem tallyWrite_wrote (s : State) (i : Fin 16) (a n : Nat) : Wrote s (tallyWrite s i a n) := tallyRanges_wrote s i _

theorem writePieces_wrote (i : Fin 16) (whole : Nat → Bool) (tally : Bool) : ∀ (l : List (Nat × Nat)) (bs : Bytes) (s t : State),
    writePieces i whole tally l bs s = .ok t → Wrote s t
  | [], _, s, t, h => by cases h; exact wrote_refl s
  | (a, n) :: l, bs, s, t, h => by
    simp only [writePieces] at h
    split at h
    · cases h
    · split at h
      · cases h
      · split at h
        · cases h
        · rename_i s' hs
          refine wrote_trans (wrote_trans (writePlace_wrote hs) ?_) (writePieces_wrote i whole tally l _ _ _ h)
          split
          · exact tallyWrite_wrote _ _ _ _
          · exact wrote_refl _

/-- A write by plan address that succeeds. -/
theorem planWrite_wrote {s t : State} {i : Fin 16} {a : Nat} {bs : Bytes} {whole : Nat → Bool}
    {tally : Bool} (h : planWrite s i a bs whole tally = .ok t) : Wrote s t := writePieces_wrote _ _ _ _ _ _ _ h

/-- Cells written in order. -/
theorem putCells_wrote (i : Fin 16) (pc : Nat) (whole : Nat → Bool) : ∀ (l : List (Nat × Bytes)) (s : State),
    Wrote s (putCells i pc whole l s).1
  | [], s => wrote_refl s
  | (a, bs) :: l, s => by
    simp only [putCells]
    split
    · rename_i s' h
      exact wrote_trans (planWrite_wrote h) (putCells_wrote i pc whole l s')
    · exact putCells_wrote i pc whole l s

theorem writeCells_wrote (i : Fin 16) (pc : Nat) (whole : Nat → Bool) (l : List (Nat × Bytes)) (s : State) :
    Wrote s (writeCells i pc whole l s).1 :=
  wrote_trans (putCells_wrote i pc whole l s) (tallyRanges_wrote _ i _)

/-- The fence of local teardown (13 R309): the plan keeps its step and what it holds; its cores, carts, reckoners and
collectives stop; no byte changes. -/
theorem fenceJob_spec (s : State) (i : Fin 16) (cause : Nat) (p : Plan) (hp : s.plans[i] = some p)
    (hc : p.teardownCause = none) :
    fenceJob s i cause = { s with
      cores := s.cores.map (fun k => if k.plan = some i then k.stop else k),
      carts := s.carts.map (fun k => if k.plan = some i then k.stop else k),
      recks := s.recks.map (fun k => if k.plan = some i then k.stop else k),
      colls := s.colls.filter (fun k => k.plan != i),
      plans := s.plans.set i (some { p with
        jobState := if p.jobId = 0 then p.jobState else .fenced, teardownCause := some cause, teardownBell := s.bell,
        stepOpen := false, goHeld := false, reopenBell := none }) } := by
  have hp' : s.plans[i.val] = some p := hp
  simp [fenceJob, hp', hc, stopUnits, State.modPlan, State.modPlanCores]

theorem fenceJob_again (s : State) (i : Fin 16) (cause : Nat) (p : Plan) (hp : s.plans[i] = some p)
    (hc : p.teardownCause.isSome = true) : fenceJob s i cause = s := by
  have hp' : s.plans[i.val] = some p := hp
  simp [fenceJob, hp', hc]

end Sys2Proof.Machine
end

