-- ==== Sys2Proof/Laws/Codes.lean ====
section
/-! SUPPORT. The line code: a line that is stored without an error reads clean (08 R178). -/

namespace Sys2Proof.Machine
open Sys2Proof

theorem gfTimesAlpha_lt {a : Nat} (h : a < 256) : gfTimesAlpha a < 256 := by
  revert a; decide +kernel

theorem xor_lt_256 {a b : Nat} (ha : a < 256) (hb : b < 256) : a ^^^ b < 256 := Nat.xor_lt_two_pow (n := 8) ha hb

/-- Doubling with the reduction by the top bit made plain. -/
theorem gfTimesAlpha_eq {a : Nat} (h : a < 256) : gfTimesAlpha a = (2 * a) ^^^ (if a.testBit 7 then 0x11D else 0) := by
  revert a; decide +kernel

theorem two_mul_xor (a b : Nat) : 2 * (a ^^^ b) = 2 * a ^^^ 2 * b := by
  have := Nat.shiftLeft_xor_distrib (a := a) (b := b) (i := 1)
  simpa [Nat.shiftLeft_eq, Nat.mul_comm] using this

theorem gfTimesAlpha_xor {a b : Nat} (ha : a < 256) (hb : b < 256) :
    gfTimesAlpha (a ^^^ b) = gfTimesAlpha a ^^^ gfTimesAlpha b := by
  rw [gfTimesAlpha_eq ha, gfTimesAlpha_eq hb, gfTimesAlpha_eq (xor_lt_256 ha hb), two_mul_xor, Nat.testBit_xor]
  have x (p q r : Nat) : (p ^^^ q) ^^^ r = (p ^^^ r) ^^^ q := by rw [Nat.xor_assoc, Nat.xor_comm q, ← Nat.xor_assoc]
  cases a.testBit 7 <;> cases b.testBit 7 <;> simp [x, Nat.xor_assoc]

theorem gfMulBits_lt (n : Nat) {a : Nat} (b : Nat) (h : a < 256) : gfMulBits n a b < 256 := by
  induction n generalizing a b with
  | zero => exact Nat.zero_lt_succ _
  | succ n ih =>
    refine xor_lt_256 ?_ (ih _ (gfTimesAlpha_lt h))
    split
    · exact h
    · decide

/-- Multiplying by a constant is additive. -/
theorem gfMulBits_xor (n : Nat) {a b : Nat} (c : Nat) (ha : a < 256) (hb : b < 256) :
    gfMulBits n (a ^^^ b) c = gfMulBits n a c ^^^ gfMulBits n b c := by
  induction n generalizing a b c with
  | zero => simp [gfMulBits]
  | succ n ih =>
    simp only [gfMulBits, gfTimesAlpha_xor ha hb, ih _ (gfTimesAlpha_lt ha) (gfTimesAlpha_lt hb)]
    split
    · rw [Nat.xor_assoc, Nat.xor_assoc, ← Nat.xor_assoc b, Nat.xor_comm b, Nat.xor_assoc]
    · simp

theorem gfMul_lt {a : Nat} (b : Nat) (h : a < 256) : gfMul a b < 256 := gfMulBits_lt 8 b h
theorem gfMul_xor {a b : Nat} (c : Nat) (ha : a < 256) (hb : b < 256) : gfMul (a ^^^ b) c = gfMul a c ^^^ gfMul b c :=
  gfMulBits_xor 8 c ha hb

/-- One step of Horner's rule at alpha^j. -/
def hornerStep (j a d : Nat) : Nat := gfMul a (gfAlpha j) ^^^ d

theorem hornerStep_lt {j a d : Nat} (ha : a < 256) (hd : d < 256) : hornerStep j a d < 256 := xor_lt_256 (gfMul_lt _ ha) hd

theorem hornerStep_xor {j a b d e : Nat} (ha : a < 256) (hb : b < 256) :
    hornerStep j (a ^^^ b) (d ^^^ e) = hornerStep j a d ^^^ hornerStep j b e := by
  simp only [hornerStep, gfMul_xor _ ha hb]
  rw [Nat.xor_assoc, Nat.xor_assoc, ← Nat.xor_assoc (gfMul b _), Nat.xor_comm (gfMul b _) d, Nat.xor_assoc]

/-- Four check symbols at alpha^j, from a value before them. -/
def horner4 (j a : Nat) (r : Nat × Nat × Nat × Nat) : Nat :=
  hornerStep j (hornerStep j (hornerStep j (hornerStep j a r.1) r.2.1) r.2.2.1) r.2.2.2

theorem horner4_xor {j a b : Nat} {r q : Nat × Nat × Nat × Nat} (ha : a < 256) (hb : b < 256)
    (hr : r.1 < 256 ∧ r.2.1 < 256 ∧ r.2.2.1 < 256) (hq : q.1 < 256 ∧ q.2.1 < 256 ∧ q.2.2.1 < 256) :
    horner4 j (a ^^^ b) (r.1 ^^^ q.1, r.2.1 ^^^ q.2.1, r.2.2.1 ^^^ q.2.2.1, r.2.2.2 ^^^ q.2.2.2)
      = horner4 j a r ^^^ horner4 j b q := by
  obtain ⟨r1, r2, r3⟩ := hr
  obtain ⟨q1, q2, q3⟩ := hq
  simp only [horner4]
  rw [hornerStep_xor ha hb, hornerStep_xor (hornerStep_lt ha r1) (hornerStep_lt hb q1),
    hornerStep_xor (hornerStep_lt (hornerStep_lt ha r1) r2) (hornerStep_lt (hornerStep_lt hb q1) q2),
    hornerStep_xor (hornerStep_lt (hornerStep_lt (hornerStep_lt ha r1) r2) r3) (hornerStep_lt (hornerStep_lt (hornerStep_lt hb q1) q2) q3)]

theorem lineGenerator_eq : lineGenerator = [15, 54, 120, 64] := by decide

/-- The generator vanishes at alpha^j: four symbols of its multiple are alpha^4j times the factor. -/
theorem generator_zero : ∀ j < 4, ∀ f < 256,
    horner4 j 0 (gfMul f 15, gfMul f 54, gfMul f 120, gfMul f 64) = horner4 j f (0, 0, 0, 0) := by decide +kernel

/-- The encoder's four symbols, and the same after one more symbol of the line. -/
def stepSymbols (r : Nat × Nat × Nat × Nat) (d : Nat) : Nat × Nat × Nat × Nat :=
  let f := d ^^^ r.1
  (r.2.1 ^^^ gfMul f 15, r.2.2.1 ^^^ gfMul f 54, r.2.2.2 ^^^ gfMul f 120, 0 ^^^ gfMul f 64)
def symbolList (r : Nat × Nat × Nat × Nat) : List Nat := [r.1, r.2.1, r.2.2.1, r.2.2.2]

theorem lineStep_eq (r : Nat × Nat × Nat × Nat) (d : Nat) : lineStep (symbolList r) d = symbolList (stepSymbols r d) := by
  simp [lineStep, lineGenerator_eq, symbolList, stepSymbols]

/-- What the encoder keeps: its symbols are bytes, and at every alpha^j they are alpha^4j times the line so far. -/
def Encodes (l : List Nat) (r : Nat × Nat × Nat × Nat) : Prop :=
  (r.1 < 256 ∧ r.2.1 < 256 ∧ r.2.2.1 < 256 ∧ r.2.2.2 < 256)
  ∧ ∀ j < 4, l.foldl (hornerStep j) 0 < 256 ∧ horner4 j 0 r = horner4 j (l.foldl (hornerStep j) 0) (0, 0, 0, 0)

theorem encodes_step {l : List Nat} {r : Nat × Nat × Nat × Nat} {d : Nat} (h : Encodes l r) (hd : d < 256) :
    Encodes (l ++ [d]) (stepSymbols r d) := by
  obtain ⟨⟨r1, r2, r3, r4⟩, h⟩ := h
  have hf : d ^^^ r.1 < 256 := xor_lt_256 hd r1
  have g (n : Nat) : gfMul (d ^^^ r.1) n < 256 := gfMul_lt n hf
  refine ⟨⟨xor_lt_256 r2 (g _), xor_lt_256 r3 (g _), xor_lt_256 r4 (g _), xor_lt_256 (by decide) (g _)⟩, fun j hj => ?_⟩
  obtain ⟨hs, he⟩ := h j hj
  rw [List.foldl_append, List.foldl_cons, List.foldl_nil]
  refine ⟨hornerStep_lt hs hd, ?_⟩
  have z : (0 : Nat) < 256 := by decide
  have m0 : gfMul 0 (gfAlpha j) = 0 := by clear hs he h; revert j; decide
  have e1 : horner4 j 0 (stepSymbols r d) = horner4 j 0 (r.2.1, r.2.2.1, r.2.2.2, 0)
      ^^^ horner4 j 0 (gfMul (d ^^^ r.1) 15, gfMul (d ^^^ r.1) 54, gfMul (d ^^^ r.1) 120, gfMul (d ^^^ r.1) 64) := by
    have := horner4_xor (j := j) (r := (r.2.1, r.2.2.1, r.2.2.2, 0))
      (q := (gfMul (d ^^^ r.1) 15, gfMul (d ^^^ r.1) 54, gfMul (d ^^^ r.1) 120, gfMul (d ^^^ r.1) 64)) z z ⟨r2, r3, r4⟩ ⟨g _, g _, g _⟩
    simpa [stepSymbols] using this
  have e2 : horner4 j (d ^^^ r.1) (0, 0, 0, 0) = horner4 j d (0, 0, 0, 0) ^^^ horner4 j r.1 (0, 0, 0, 0) := by
    have := horner4_xor (j := j) (r := (0, 0, 0, 0)) (q := (0, 0, 0, 0)) hd r1 ⟨z, z, z⟩ ⟨z, z, z⟩
    simpa using this
  have e3 : horner4 j 0 (r.2.1, r.2.2.1, r.2.2.2, 0) ^^^ horner4 j r.1 (0, 0, 0, 0) = hornerStep j (horner4 j 0 r) 0 := by
    have := horner4_xor (j := j) (r := (r.2.1, r.2.2.1, r.2.2.2, 0)) (q := (0, 0, 0, 0)) z r1 ⟨r2, r3, r4⟩ ⟨z, z, z⟩
    simp only [Nat.xor_zero, Nat.zero_xor] at this
    rw [← this]
    simp [horner4, hornerStep, m0]
  have e4 : horner4 j (hornerStep j (l.foldl (hornerStep j) 0) d) (0, 0, 0, 0)
      = hornerStep j (horner4 j (l.foldl (hornerStep j) 0) (0, 0, 0, 0)) 0 ^^^ horner4 j d (0, 0, 0, 0) := by
    have hm : hornerStep j (l.foldl (hornerStep j) 0) 0 < 256 := hornerStep_lt hs z
    have := horner4_xor (j := j) (r := (0, 0, 0, 0)) (q := (0, 0, 0, 0)) hm hd ⟨z, z, z⟩ ⟨z, z, z⟩
    simp only [Nat.xor_zero] at this
    have s : hornerStep j (l.foldl (hornerStep j) 0) d = hornerStep j (l.foldl (hornerStep j) 0) 0 ^^^ d := by simp [hornerStep]
    rw [s, this]
    simp [horner4, hornerStep]
  rw [e1, generator_zero j hj _ hf, e2, ← Nat.xor_assoc, Nat.xor_comm _ (horner4 j d _), Nat.xor_assoc, e3, he, e4, Nat.xor_comm]

theorem encodes_line (l : List Nat) (h : ∀ d ∈ l, d < 256) :
    ∃ r, Encodes l r ∧ l.foldl lineStep [0, 0, 0, 0] = symbolList r := by
  suffices ∀ (l k : List Nat) r, (∀ d ∈ l, d < 256) → Encodes k r →
      ∃ q, Encodes (k ++ l) q ∧ l.foldl lineStep (symbolList r) = symbolList q by
    refine this l [] (0, 0, 0, 0) h ⟨by decide, fun j hj => ⟨by simp, ?_⟩⟩
    revert j; decide
  intro l
  induction l with
  | nil => intro k r _ e; exact ⟨r, by simpa using e, rfl⟩
  | cons d t ih =>
    intro k r h e
    obtain ⟨q, hq, hf⟩ := ih (k ++ [d]) (stepSymbols r d) (fun x hx => h x (List.mem_cons_of_mem _ hx))
      (encodes_step e (h d (List.mem_cons_self ..)))
    exact ⟨q, by simpa using hq, by rw [List.foldl_cons, lineStep_eq, hf]⟩

/-- Every syndrome of a line as encoded is zero. -/
theorem lineSyndrome_lineEncode (b : Bytes) (j : Nat) (hj : j < 4) : lineSyndrome (lineEncode b) j = 0 := by
  have lt : ∀ d ∈ b.map (·.toNat), d < 256 := fun d hd => by
    obtain ⟨x, _, rfl⟩ := List.mem_map.mp hd; exact x.isLt
  obtain ⟨r, ⟨⟨r1, r2, r3, r4⟩, h⟩, hf⟩ := encodes_line _ lt
  obtain ⟨hs, he⟩ := h j hj
  have z : (0 : Nat) < 256 := by decide
  have hb : b.foldl (fun a b => gfMul a (gfAlpha j) ^^^ b.toNat) 0 = (b.map (·.toNat)).foldl (hornerStep j) 0 := by
    rw [List.foldl_map]; rfl
  have n {x : Nat} (hx : x < 256) : (BitVec.ofNat 8 x).toNat = x := by rw [BitVec.toNat_ofNat]; exact Nat.mod_eq_of_lt hx
  have e := horner4_xor (j := j) (r := (0, 0, 0, 0)) (q := r) hs z ⟨z, z, z⟩ ⟨r1, r2, r3⟩
  simp only [Nat.zero_xor, Nat.xor_zero] at e
  rw [he, Nat.xor_self] at e
  rw [lineSyndrome, lineEncode, List.foldl_append, hb, lineCheck, hf]
  simp only [symbolList, List.map_cons, List.map_nil, List.foldl_cons, List.foldl_nil, n r1, n r2, n r3, n r4]
  exact e

/-- A line that is stored without an error reads clean. -/
theorem lineDecode_lineEncode (b : Bytes) (h : b.length = 64) : lineDecode (lineEncode b) = .clean b := by
  have s : ((List.range 4).map (lineSyndrome (lineEncode b))).all (· == 0) = true := by
    rw [List.all_eq_true]
    intro x hx
    obtain ⟨j, hj, rfl⟩ := List.mem_map.mp hx
    rw [lineSyndrome_lineEncode b j (List.mem_range.mp hj)]; rfl
  have t : (lineEncode b).take 64 = b := by rw [lineEncode, ← h]; exact List.take_left
  simp only [lineDecode, s, if_true, t]

end Sys2Proof.Machine
end

