-- ==== Sys2Proof/Laws/Issue.lean ====
section
/-! SUPPORT. What issuing a slot instruction can do (03 R56): one lemma for each shared operation, and the frames of
the bundle's opening and close. -/

namespace Sys2Proof.Machine
open Sys2Proof

theorem issue_eq {s : State} {c : CoreId} {sl : Slot} {op : Nat} {uses : List RegRef}
    {body : State → Issue → Option State} (h : CanIssue s c sl uses) :
    ∃ i p, executing s c = some (i, p) ∧
      issue s c sl op uses body =
        (body (s.modCore c (fun _ => (found s c sl).begin sl op)) ⟨c, i, p, operands s c sl⟩).getD s := by
  obtain ⟨h1, h2, h3, h4⟩ := h
  obtain ⟨⟨i, p⟩, he⟩ := Option.isSome_iff_exists.mp h1
  refine ⟨i, p, he, ?_⟩
  rw [he, Option.all_some] at h4
  unfold found at h2 h3 h4
  simp only [issue, he, h2, h3, h4, found, operands, Bool.not_true, Bool.or_false, Bool.false_eq_true, if_false]

@[simp] theorem modCore_cores_self (s : State) (c : CoreId) (f : Core → Core) : (s.modCore c f).cores[c] = f s.cores[c] := by
  simp [State.modCore]
theorem modCore_modCore (s : State) (c : CoreId) (f g : Core → Core) : (s.modCore c f).modCore c g = s.modCore c (g ∘ f) := by
  simp [State.modCore]
theorem modCore_other (s : State) (c d : CoreId) (f : Core → Core) (h : d ≠ c) : (s.modCore c f).cores[d] = s.cores[d] := by
  have : c.val ≠ d.val := fun h' => h (Fin.ext h'.symm)
  simp [State.modCore, this]

theorem onlyCore_modCore (s : State) (c : CoreId) (f : Core → Core) : OnlyCore c s (s.modCore c f) :=
  ⟨rfl, fun d h => modCore_other s c d f h⟩

theorem executing_running {s : State} {c : CoreId} {i p} (h : executing s c = some (i, p)) : s.cores[c].run = .running := by
  simp only [executing] at h
  split at h
  · cases h
  · split at h
    · cases h
    · split at h
      · rename_i hh; exact hh.1
      · cases h

theorem follow_next (k : Core) (hl : k.loops = []) : k.follow .next = { k with bundle := k.bundle + 1 } := by
  simp [Core.follow, hl, nextBundle]
theorem follow_run (k : Core) (fl : Flow) : (k.follow fl).run = k.run := by
  cases fl <;> simp [Core.follow]
  split <;> rfl
theorem close_run (k : Core) (fl : Flow) : (k.close fl).run = k.run := by
  simp [Core.close, Core.count, follow_run]
theorem intoBundle_run (k : Core) (sl : Slot) : (k.intoBundle sl).run = k.run := by
  simp only [Core.intoBundle]
  split <;> split <;> simp [Core.openBundle, close_run]
theorem begin_run (k : Core) (sl : Slot) (op : Nat) : (k.begin sl op).run = k.run := by cases sl <;> rfl

theorem nextBundle_frame : ∀ (n : Nat) (l : List Loop) (r : Regs),
    (nextBundle n l r).2.2.s = r.s ∧ (nextBundle n l r).2.2.a = r.a ∧ (nextBundle n l r).2.2.k = r.k
    ∧ (nextBundle n l r).2.2.v = r.v ∧ (nextBundle n l r).2.2.t = r.t
  | n, [], r => by simp [nextBundle]
  | n, lp :: rest, r => by
    simp only [nextBundle]
    split
    · split
      · simp [Regs.setL]
      · exact nextBundle_frame n rest r
    · simp

theorem follow_regs (k : Core) (fl : Flow) :
    (k.follow fl).regs.s = k.regs.s ∧ (k.follow fl).regs.a = k.regs.a ∧ (k.follow fl).regs.k = k.regs.k
    ∧ (k.follow fl).regs.v = k.regs.v ∧ (k.follow fl).regs.t = k.regs.t := by
  cases fl with
  | next => simpa [Core.follow] using nextBundle_frame (k.bundle + 1) k.loops k.regs
  | jump t => simp [Core.follow]
  | loop ctr len n =>
    simp only [Core.follow]
    split
    · simpa [Regs.setL] using nextBundle_frame (k.bundle + 1 + len) k.loops (k.regs.setL ctr 0)
    · simp [Regs.setL]

theorem follow_rest (k : Core) (fl : Flow) :
    k.follow fl = { k with regs := (k.follow fl).regs, bundle := (k.follow fl).bundle, loops := (k.follow fl).loops } := by
  cases fl with
  | next => simp [Core.follow]
  | jump t => simp [Core.follow]
  | loop ctr len n => simp only [Core.follow]; split <;> simp

theorem getS_setS (r : Regs) (d i : Nat) (hd : d < 32) (hi : i < 32) (v : SWord) :
    (r.setS d v).getS i = if i = d then v else r.getS i := by
  simp only [Regs.getS, Regs.setS, Nat.mod_eq_of_lt hd, Nat.mod_eq_of_lt hi]
  by_cases h : i = d
  · subst h; simp [Vector.getD, hi]
  · simp [Vector.getD, hi, h, Ne.symm h]

theorem sameMemory_of (s t : State) (c : CoreId) (h : OnlyCore c s t) (hs : t.cores[c].sram = s.cores[c].sram) : SameMemory s t := by
  obtain ⟨h1, h2⟩ := h
  refine ⟨?_, ?_, ?_⟩
  · intro a; rw [h1]
  · intro d a
    by_cases hd : d = c
    · subst hd; rw [hs]
    · rw [h2 d hd]
  · intro b a; rw [h1]

theorem intoBundle_sram (k : Core) (sl : Slot) : (k.intoBundle sl).sram = k.sram := by
  simp only [Core.intoBundle]
  split <;> split <;> simp [Core.openBundle, Core.close, Core.count] <;> rw [follow_rest]

/-- A C-slot instruction whose body changes only its core: what it leaves. -/
theorem issueC_core {s : State} {c : CoreId} {op : Nat} {uses : List RegRef}
    {body : State → Issue → Option (State × Flow)} {g : Issue → Core → Core} {fl : Issue → Flow}
    (h : CanIssue s c .c uses)
    (hb : ∀ k x, body (s.modCore c (fun _ => k)) x = some ((s.modCore c (fun _ => k)).modCore c (g x), fl x))
    (hg : ∀ x k, (g x k).run = k.run) :
    ∃ i p, executing s c = some (i, p) ∧
      issueC s c op uses body =
        s.modCore c (fun _ => (g ⟨c, i, p, operands s c .c⟩ ((found s c .c).begin .c op)).close
          (fl ⟨c, i, p, operands s c .c⟩)) := by
  obtain ⟨i, p, he, hi⟩ := issue_eq (op := op)
    (body := fun s x => (body s x).map (fun r => closeBundle r.1 c r.2)) h
  refine ⟨i, p, he, ?_⟩
  rw [issueC, hi, hb, modCore_modCore, Option.map_some, Option.getD_some, closeBundle]
  have hr : (g ⟨c, i, p, operands s c .c⟩ ((found s c .c).begin .c op)).run = .running := by
    rw [hg, begin_run, found, intoBundle_run]; exact executing_running he
  simp only [modCore_cores_self, Function.comp, hr, if_true, modCore_modCore]
  rfl

/-- Closing a bundle changes of a core only what `EndsBundle` names. -/
theorem endsBundle_close {k₀ k : Core} (fl : Flow)
    (hk : k = { k₀ with regs := k.regs, flagsStep := k.flagsStep, bundle := k.bundle, loops := k.loops, work := k.work,
                        fromS := k.fromS, counters := k.counters, topDown := k.topDown, view := k.view,
                        slotX := k.slotX, slotV := k.slotV, slotM := k.slotM,
                        flagSeen := k.flagSeen }) :
    EndsBundle k₀ (k.close fl) := by
  unfold EndsBundle
  simp only [Core.close, Core.count]
  rw [follow_rest]
  rw [hk]

theorem close_regs (k : Core) (fl : Flow) :
    (k.close fl).regs.s = k.regs.s ∧ (k.close fl).regs.a = k.regs.a ∧ (k.close fl).regs.k = k.regs.k
    ∧ (k.close fl).regs.v = k.regs.v ∧ (k.close fl).regs.t = k.regs.t := by
  simpa [Core.close, Core.count] using follow_regs { k with
    view := none, slotX := false, slotV := false, slotM := false, flagSeen := false, topDown := k.topDown.bundle k.work } fl

theorem close_kept (k : Core) (fl : Flow) :
    (k.close fl).flagsStep = k.flagsStep ∧ (k.close fl).fromS = k.fromS := by
  simp only [Core.close, Core.count]; rw [follow_rest]; simp

theorem nextBundle_close (k₀ k : Core) (hl : k.loops = k₀.loops) (hb : k.bundle = k₀.bundle) (hr : k.regs.l = k₀.regs.l) :
    NextBundle k₀ (k.close .next) := by
  intro h
  simp [Core.close, Core.count, Core.follow, hl, hb, hr, h, nextBundle]

/-- A C-slot instruction that writes registers and flags alone. -/
theorem begun_setRegs (k : Core) (op : Nat) (f : Regs → Regs) (fl : NumFlags) :
    ((k.begin .c op).setRegs f).flag fl
      = { k with work := k.work + (if op = 0 then 0 else 1), flagSeen := (k.begin .c op).flagSeen, regs := f k.regs,
                 flagsStep := k.flagsStep ||| fl } := by
  simp only [Core.begin, Core.mark, Core.setRegs, Core.flag]

/-- The effect of every C-slot instruction that writes an S register. -/
theorem cScalar_spec (op : Nat) (f : CForm) (val : Bool → Regs → Nat × NumFlags) (c : CoreId)
    (s : State) (hl : f.legal op = true) (h : CanIssue s c .c (cUses op f)) :
    ∃ t, cScalar op f val c s = .next t ∧
      WroteS s t c f.d.toNat (BitVec.ofNat 64 (val (found s c .c).subFlush (operands s c .c)).1)
        (val (found s c .c).subFlush (operands s c .c)).2 := by
  obtain ⟨i, p, _, hi⟩ := issueC_core (s := s) (c := c) (op := op)
    (body := fun s x => some ((setRegs s c (·.setS f.d.toNat (BitVec.ofNat 64 (val s.cores[c].subFlush x.rd).1))).modCore c
      (·.flag (val s.cores[c].subFlush x.rd).2), .next))
    (g := fun x k => (k.setRegs (·.setS f.d.toNat (BitVec.ofNat 64 (val k.subFlush x.rd).1))).flag (val k.subFlush x.rd).2)
    (fl := fun _ => .next) h
    (by intro k x; simp [setRegs, State.modCore]) (by intro x k; rfl)
  refine ⟨_, by simp only [cScalar, whenLegal, hl, if_true]; exact congrArg _ hi, ?_⟩
  have hm : ((found s c .c).begin .c op).subFlush = (found s c .c).subFlush := rfl
  simp only [hm]
  generalize hv : val (found s c .c).subFlush (operands s c .c) = w
  generalize hk : (((found s c .c).begin .c op).setRegs (·.setS f.d.toNat (BitVec.ofNat 64 w.1))).flag w.2 = k
  rw [begun_setRegs] at hk
  have hE : EndsBundle (found s c .c) (k.close .next) := endsBundle_close .next (by subst hk; rfl)
  have hoc := onlyCore_modCore s c (fun _ => k.close .next)
  have hs : (s.modCore c (fun _ => k.close .next)).cores[c].sram = s.cores[c].sram := by
    rw [modCore_cores_self, hE]; simp [found, intoBundle_sram]
  obtain ⟨r1, r2, r3, r4, r5⟩ := close_regs k .next
  refine ⟨⟨hoc, sameMemory_of _ _ c hoc hs⟩, ?_, ?_, ?_, ?_, ?_, ?_, ?_, ?_, ?_⟩ <;> rw [modCore_cores_self]
  · exact hE
  · exact nextBundle_close _ _ (by subst hk; rfl) (by subst hk; rfl) (by subst hk; rfl)
  · rw [(close_kept k .next).2]; subst hk; rfl
  · rw [(close_kept k .next).1]; subst hk; rfl
  · intro i hi
    rw [← getS_setS _ _ i f.d.isLt hi]
    simp only [Regs.getS, r1]
    subst hk; rfl
  · rw [r2]; subst hk; rfl
  · rw [r3]; subst hk; rfl
  · rw [r4]; subst hk; rfl
  · rw [r5]; subst hk; rfl

end Sys2Proof.Machine
end

