-- ==== Sys2Proof/Laws/Report.lean ====
section
/-! SUPPORT. What reporting can do: one lemma for each of the journal, attention, replies, and the requests of the host. -/

namespace Sys2Proof.Machine
open Sys2Proof

/-! ### The journal -/

/-- An append adds one record, and leaves everything but the journal, the control counters and the free number. -/
theorem journalAppend_spec (s : State) (type job member plan : Nat) (b : Bytes) :
    ∃ r c ch cps f, journalAppend s type job member plan b =
      { s with journal := { s.journal with records := s.journal.records ++ [r], next := s.journal.next + 1, chain := ch,
                                           checkpoints := cps },
               counting := { s.counting with control := c }, free := f } := by
  simp only [journalAppend]
  split
  · exact ⟨_, _, _, _, _, rfl⟩
  · exact ⟨_, _, _, _, _, rfl⟩

theorem journalModes_calm (s : State) (h : s.journal.mode = 0) (hl : s.journal.records.length < 1782579) :
    journalModes s = s := by
  have : journalModeFor 0 s.journal.records.length = 0 := by
    unfold journalModeFor
    rw [if_neg (by omega), if_neg (by omega), if_pos hl]
  simp [journalModes, h, this]

/-- The journal takes the REFUSAL_MODE record without reaching a limit. -/
def Room (s : State) : Prop := s.journal.mode = 0 ∧ s.journal.records.length + 2 < 1782579

theorem Calm.room {s : State} (h : Calm s) : Room s := ⟨h.1, by have := h.2; omega⟩

/-- A record of a calm journal: at most two records are added, and its mode stays 0. -/
theorem journalRaw_spec (s : State) (type job member plan : Nat) (b : Bytes) (h : s.journal.mode = 0)
    (hl : s.journal.records.length + 2 < 1782579) :
    ∃ l c ch cps n f, l.length ≤ 2 ∧ journalRaw s type job member plan b =
      { s with journal := ⟨s.journal.records ++ l, n, ch, cps, 0⟩, counting := { s.counting with control := c }, free := f } := by
  obtain ⟨r, c, ch, cps, f, e⟩ := journalAppend_spec s type job member plan b
  simp only [journalRaw]
  split
  · rw [e]
    generalize hs : ({ s with journal := { s.journal with records := s.journal.records ++ [r], next := s.journal.next + 1, chain := ch,
                                                          checkpoints := cps },
                              counting := { s.counting with control := c }, free := f } : State) = s1
    obtain ⟨r', c', ch', cps', f', e'⟩ := journalAppend_spec s1 0x0702 0 0 0xFF (leBytes 8 (s.mod.startCount % 2 ^ 24 * 2 ^ 40 + s.journal.next))
    rw [e', journalModes_calm]
    · subst hs
      exact ⟨[r, r'], c', ch', cps', s.journal.next + 1 + 1, f', by simp, by simp [h]⟩
    · subst hs; exact h
    · subst hs; simp; omega
  · rw [e, journalModes_calm]
    · exact ⟨[r], c, ch, cps, s.journal.next + 1, f, by simp, by simp [h]⟩
    · exact h
    · simp; omega

/-- A record of a calm journal leaves room for one more, and changes only the journal, the control counters and the
free number. -/
theorem calm_raw {s : State} {t j m p : Nat} {b : Bytes} (h : Calm s) : ∃ c jr f,
    journalRaw s t j m p b = { s with journal := jr, counting := { s.counting with control := c }, free := f }
    ∧ Room (journalRaw s t j m p b) := by
  obtain ⟨l, c, ch, cps, n, f, hl, e⟩ := journalRaw_spec s t j m p b h.1 h.room.2
  rw [e]
  refine ⟨_, _, _, rfl, rfl, ?_⟩
  have := h.2
  simp; omega

/-- A record does not depend on the host link. -/
theorem raw_host (s : State) (t j m p : Nat) (b : Bytes) (hh : HostLink) :
    journalRaw { s with host := hh } t j m p b = { journalRaw s t j m p b with host := hh } := by
  have e : ∀ s t j m p b, journalAppend { s with host := hh } t j m p b = { journalAppend s t j m p b with host := hh } := by
    intro s t j m p b
    simp only [journalAppend]
    split <;> rfl
  have e3 : ∀ (s : State) i c, fenceJob { s with host := hh } i c = { fenceJob s i c with host := hh } := by
    intro s i c
    simp only [fenceJob]
    split
    · rfl
    · split <;> rfl
  have e2 : ∀ s, journalTeardown { s with host := hh } = { journalTeardown s with host := hh } := by
    intro s
    simp only [journalTeardown]
    generalize List.finRange 16 = l
    induction l generalizing s with
    | nil => rfl
    | cons a t ih =>
      simp only [List.foldl_cons]
      rw [← ih]
      congr 1
      split
      · split
        · rfl
        · rw [← e3]; rfl
      · rfl
  have e4 : ∀ s, journalModes { s with host := hh } = { journalModes s with host := hh } := by
    intro s
    simp only [journalModes]
    split
    · rfl
    · split
      · rw [← e2]; congr 1; exact e { s with journal := { s.journal with mode := _ } } ..
      · exact e { s with journal := { s.journal with mode := _ } } ..
  simp only [journalRaw]
  rw [← e4]
  split
  · rw [e, e]
  · rw [e]

/-! ### Attention -/

theorem noted_refl (s : State) : Noted s s := by
  unfold Noted
  refine ⟨?_, ?_, List.prefix_refl _⟩
  · rfl
  · rfl

theorem noted_trans {a b c : State} (h : Noted a b) (g : Noted b c) : Noted a c := by
  obtain ⟨h1, h2, h3⟩ := h
  obtain ⟨g1, g2, g3⟩ := g
  refine ⟨?_, g2.trans h2, h3.trans g3⟩
  rw [g1, h1]

theorem attention_noted (s : State) (c d : Nat) : Noted s (attention s c d) := by
  unfold attention
  generalize (s.host.attnSeq + 1) % 256 = n
  generalize List.drop _ _ = l
  refine ⟨?_, ?_, ?_⟩
  · dsimp only
  · simp [Function.comp_def]
  · exact List.prefix_refl _

theorem attentionIf_noted (s : State) (p : Bool) (c d : Nat) : Noted s (attentionIf s p c d) := by
  unfold attentionIf
  split
  · exact attention_noted s c d
  · exact noted_refl s

theorem attendJob_noted (o n : Option Plan) (s : State) : Noted s (attendJob o n s) := attentionIf_noted ..

theorem attendPlan_noted (i : Nat) (o n : Option Plan) (s : State) : Noted s (attendPlan i o n s) := by
  unfold attendPlan
  split
  · exact noted_refl s
  · exact attention_noted ..
  · exact attention_noted ..
  · split
    · exact noted_trans (attention_noted ..) (attention_noted ..)
    · exact attentionIf_noted ..

theorem journalRaw_noted (s : State) (type job member plan : Nat) (b : Bytes) (h : Room s) :
    Noted s (journalRaw s type job member plan b) := by
  obtain ⟨l, c, ch, cps, n, f, -, e⟩ := journalRaw_spec s type job member plan b h.1 h.2
  rw [e]
  exact ⟨rfl, rfl, ⟨l, rfl⟩⟩

theorem foldl_noted {α : Type} (f : State → α → State) (hf : ∀ s a, Noted s (f s a)) (l : List α) (s : State) :
    Noted s (l.foldl f s) := by
  induction l generalizing s with
  | nil => exact noted_refl s
  | cons a t ih => exact noted_trans (hf s a) (ih (f s a))

/-- Everything that `attend` can do. -/
theorem attend_noted (old s : State) (h : Room s) : Noted s (attend old s) := by
  unfold attend
  split
  · exact noted_refl s
  · refine noted_trans ?_ (foldl_noted _ (fun s p => attentionIf_noted ..) _ _)
    refine noted_trans ?_ (attentionIf_noted ..)
    refine noted_trans ?_ (attentionIf_noted ..)
    refine noted_trans ?_ (foldl_noted _ (fun s i => attendPlan_noted ..) _ _)
    refine noted_trans ?_ (foldl_noted _ (fun s i => attendJob_noted ..) _ _)
    refine noted_trans ?_ (foldl_noted _ (fun s f => attentionIf_noted ..) _ _)
    refine noted_trans ?_ (attentionIf_noted ..)
    refine noted_trans ?_ (attentionIf_noted ..)
    split
    · exact journalRaw_noted _ _ _ _ _ _ h
    · exact noted_refl s

/-- An event of a module in service. -/
theorem happen_noted (s : State) (f : State → State) (hs : serving s = true) (h : Room (f s)) :
    ∃ t, happen s f = .next t ∧ Noted (f s) t := by
  refine ⟨_, ?_, attend_noted s (f s) h⟩
  simp [happen, hs]

/-! ### Requests of the host -/

theorem findSession_mod (s : State) (id : Nat) (f : Session → Session) (hf : ∀ k, (f k).id = k.id) :
    (findSession (s.modSession id f) id) = (findSession s id).map f := by
  simp only [findSession, State.modSession]
  induction s.host.sessions with
  | nil => rfl
  | cons a t ih =>
    by_cases e : a.id = id
    · simp [e, hf]
    · simp [e, ih]

/-- Sending frames changes of a session its count and key alone. -/
theorem sentAll_keys (n : Nat) (k : Session) :
    ((k.sentAll n).id, (k.sentAll n).role, (k.sentAll n).principal, (k.sentAll n).digest, (k.sentAll n).transfer)
      = (k.id, k.role, k.principal, k.digest, k.transfer) := by
  induction n with
  | zero => rfl
  | succ n ih => simpa [Session.sentAll, Nat.repeat, Session.sent] using ih

/-- What a reply changes, and the frame that it sends. -/
theorem hostReply_spec (s : State) (h : HostHdr) (kind code : Nat) (content : Bytes) (hup : s.host.up = true)
    (hst : s.mod.state ≠ .stopped) (h0 : h.session ≠ 0) (k : Session) (hk : findSession s h.session = some k)
    (hc : code < 2 ^ 16) :
    ∃ w l c n, w % 2 ^ 16 = code ∧ hostReply s h kind code content =
      { s with out := s.out ++ [.host h.session (kind + 0x80) h.tag w content],
               host := { s.host with sessions := l }, counting := { s.counting with control := c } }
      ∧ l = s.host.sessions.map (fun k => if k.id = h.session then k.sentAll n else k) := by
  refine ⟨statusWord s h.session code, _, (hostReply s h kind code content).counting.control,
    (hostFrames h.session (kind + 0x80) 0 h.tag (statusWord s h.session code) content).length, ?_, ?_, rfl⟩
  · simp only [statusWord, hk]
    omega
  · have e : hostSend s h.session (kind + 0x80) h.tag code content
        = (s.emit (.host h.session (kind + 0x80) h.tag (statusWord s h.session code) content)).modSession h.session
            (Session.sentAll (hostFrames h.session (kind + 0x80) 0 h.tag (statusWord s h.session code) content).length) := by
      simp [hostSend, hup, hst, h0, hk]
    simp only [hostReply, e, countRefusal]
    split <;> rfl

theorem taken_findSession (s : State) (id : Nat) (k : Session) (h : findSession s id = some k) :
    ∃ k', findSession (taken s id) id = some k' := by
  refine ⟨{ k with lastBell := s.bell, framesIn := k.framesIn + 1, keyIn := rekey k.keyIn (k.framesIn + 1) }, ?_⟩
  unfold taken
  refine (findSession_mod _ _ _ (by intro k; rfl)).trans ?_
  have : findSession ({ s with host := { s.host with lastBell := s.bell } } : State) id = some k := h
  rw [this]
  rfl

theorem taken_keys (s : State) (id : Nat) :
    (taken s id).host.sessions.map (fun (k : Session) => (k.id, k.role, k.principal, k.digest, k.transfer))
      = s.host.sessions.map (fun (k : Session) => (k.id, k.role, k.principal, k.digest, k.transfer)) := by
  simp only [taken, State.modSession, List.map_map, Function.comp_def]
  apply List.map_congr_left
  intro a _
  by_cases ea : a.id = id <;> simp [ea]

/-- A request that its role may send: what follows the body's own effect. -/
theorem hostRequest_served {s u v : State} {h : HostHdr} {k : Session} {kind code : Nat} {content : Bytes}
    {permit : State → Session → Bool} {body : State → Session → State}
    (ha : Asks s h k) (hp : permit (taken s h.session) k = true)
    (hb : body (taken s h.session) k = hostReply u h kind code content) (hc : code < 2 ^ 16)
    (hv : v = { u with host := v.host })
    (hvh : u.host = { v.host with lastBell := s.bell, attnSeq := u.host.attnSeq, attnCode := u.host.attnCode,
                                  attn := u.host.attn, sessions := u.host.sessions })
    (hss : u.host.sessions.map (fun (k : Session) => (k.id, k.role, k.principal, k.digest, k.transfer))
      = v.host.sessions.map (fun (k : Session) => (k.id, k.role, k.principal, k.digest, k.transfer)))
    (hk : ∃ k', findSession u h.session = some k') (hup : u.host.up = true) (hm : u.mod.state ≠ .stopped)
    (hroom : Room u) (hbell : u.bell = s.bell) :
    Served v (hostRequest s h kind permit body) h kind code content := by
  obtain ⟨h1, h2, h3, h4, h5⟩ := ha
  have hst : s.mod.state = .ready ∨ s.mod.state = .draining := by
    simpa [serving] using h2
  have hns : (s.mod.state == .stopped) = false := by rcases hst with e | e <;> simp [e]
  have hnh : (s.mod.state == .halted) = false := by rcases hst with e | e <;> simp [e]
  have hts : (taken s h.session).mod = s.mod := rfl
  obtain ⟨k', hk'⟩ := hk
  obtain ⟨w, l, c, n, hw, e, hl⟩ := hostReply_spec u h kind code content hup hm h4 k' hk' hc
  have hreq : hostRequest s h kind permit body = attend (taken s h.session) (hostReply u h kind code content) := by
    simp only [hostRequest, h1, hns, h5, h3, hts, hnh, hp, hb, Bool.not_true, Bool.false_or, Bool.false_and,
      Bool.false_eq_true, if_false]
  rw [hreq, e]
  generalize hx : ({ u with
      out := u.out ++ [Out.host h.session (kind + 0x80) h.tag w content],
      host := { u.host with sessions := l }, counting := { u.counting with control := c } } : State) = x
  have hn := attend_noted (taken s h.session) x (by subst hx; exact hroom)
  generalize attend (taken s h.session) x = t at hn
  obtain ⟨n1, n2, n3⟩ := hn
  subst hx
  have hvo : v.out = u.out := by rw [hv]
  have hvb : v.bell = u.bell := by rw [hv]
  have hvj : v.journal = u.journal := by rw [hv]
  refine ⟨?_, ?_, ?_, by rw [hvj]; exact n3, w, hw, ?_⟩
  · rw [n1, hvh, hv]
  · rw [n1, hvb, hbell]
    simp only
    rw [hvh]
  · have n2' := congrArg (List.map (fun (k : Session) => (k.id, k.role, k.principal, k.digest, k.transfer))) n2
    simp only [List.map_map, Function.comp_def] at n2'
    rw [n2', hl, ← hss]
    simp only [List.map_map, Function.comp_def]
    apply List.map_congr_left
    intro a _
    by_cases ea : a.id = h.session <;> simp [ea, sentAll_keys]
  · rw [n1, hvo]

/-- A request whose body leaves the sessions and the host link alone. -/
theorem served_of {s u : State} {h : HostHdr} {k : Session} {kind code : Nat} {content : Bytes}
    {permit : State → Session → Bool} {body : State → Session → State}
    (ha : Asks s h k) (hp : permit (taken s h.session) k = true)
    (hb : body (taken s h.session) k = hostReply { u with host := (taken s h.session).host } h kind code content)
    (hc : code < 2 ^ 16) (hu : u.host = s.host) (hm : u.mod.state = s.mod.state) (hroom : Room u)
    (hbell : u.bell = s.bell) :
    Served u (hostRequest s h kind permit body) h kind code content := by
  have hst : s.mod.state = .ready ∨ s.mod.state = .draining := by
    simpa [serving] using ha.2.1
  refine hostRequest_served ha hp hb hc rfl ?_ ?_ (taken_findSession s _ k ha.2.2.2.2) ha.1 ?_ hroom hbell
  · rw [hu]; rfl
  · rw [hu]; exact taken_keys s _
  · show u.mod.state ≠ _
    rw [hm]; rcases hst with e | e <;> simp [e]

/-- A request that only reads. -/
theorem served_plain {s : State} {h : HostHdr} {k : Session} {kind code : Nat} {content : Bytes}
    {permit : State → Session → Bool} {body : State → Session → State}
    (ha : Asks s h k) (hr : Room s) (hp : permit (taken s h.session) k = true)
    (hb : body (taken s h.session) k = hostReply (taken s h.session) h kind code content) (hc : code < 2 ^ 16) :
    Served s (hostRequest s h kind permit body) h kind code content :=
  served_of ha hp hb hc rfl rfl hr rfl

end Sys2Proof.Machine
end

