-- ==== Sys2Proof/Laws/Wire.lean ====
section
/-! SUPPORT. What goes on a link comes back from it: numbers as bytes, frames sealed and opened (11 R246-R250), link fields,
and vote words (09 R202); and a control message acts once (13 R316). -/

namespace Sys2Proof.Machine
open Sys2Proof

/-! ### Numbers as bytes -/

@[simp] theorem leBytes_length (n v : Nat) : (leBytes n v).length = n := by
  induction n generalizing v with
  | zero => rfl
  | succ n ih => simp [leBytes, ih]

@[simp] theorem beBytes_length (n v : Nat) : (beBytes n v).length = n := by simp [beBytes]

theorem leNat_leBytes (n v : Nat) : leNat (leBytes n v) = v % 256 ^ n := by
  induction n generalizing v with
  | zero => simp [leBytes, leNat, Nat.mod_one]
  | succ n ih =>
    have m : v % 256 ^ (n + 1) = v % 2 ^ 8 + 256 * (v / 256 % 256 ^ n) := by
      rw [Nat.pow_succ, Nat.mul_comm]; exact Nat.mod_mul
    rw [leBytes, leNat, ih, BitVec.toNat_ofNat, m]

@[simp] theorem xorBytes_length (a b : Bytes) : (xorBytes a b).length = min a.length b.length := by simp [xorBytes]

/-- The same stream twice gives the text back. -/
theorem xorBytes_twice : ∀ (a b : Bytes), a.length ≤ b.length → xorBytes (xorBytes a b) b = a
  | [], _, _ => rfl
  | _ :: _, [], h => absurd h (by simp)
  | x :: a, y :: b, h => by
    have t := xorBytes_twice a b (by simpa using h)
    simp only [xorBytes, List.zipWith_cons_cons] at t ⊢
    rw [t, BitVec.xor_assoc, BitVec.xor_self, BitVec.xor_zero]

/-! ### GCM -/

@[simp] theorem gcmStream_length (rk : List Nat) (j n i : Nat) : (gcmStream rk j n i).length = 16 * n := by
  induction n generalizing i with
  | zero => rfl
  | succ n ih => simp [gcmStream, ih]; omega

theorem gcmText_length (rk : List Nat) (j : Nat) (b : Bytes) : (gcmText rk j b).length = b.length := by
  simp [gcmText]; omega

theorem gcmText_twice (rk : List Nat) (j : Nat) (b : Bytes) : gcmText rk j (gcmText rk j b) = b := by
  have l := gcmText_length rk j b
  have e : gcmText rk j (gcmText rk j b) = xorBytes (gcmText rk j b) (gcmStream rk j (b.length / 16 + 1) 1) := by rw [gcmText, l]
  rw [e]
  exact xorBytes_twice b _ (by simp; omega)

@[simp] theorem gcmTag_length (rk : List Nat) (j : Nat) (a c : Bytes) : (gcmTag rk j a c).length = 16 := by simp [gcmTag]

@[simp] theorem gcmSeal_length (key nonce aad b : Bytes) : (gcmSeal key nonce aad b).length = b.length + 16 := by
  simp [gcmSeal, gcmText_length]

/-- What is sealed opens under the same key, nonce and header. -/
theorem gcmOpen_gcmSeal (key nonce aad b : Bytes) : gcmOpen key nonce aad (gcmSeal key nonce aad b) = some b := by
  have l := gcmText_length (aesKeys key) (gcmStart nonce) b
  have t : (gcmSeal key nonce aad b).take ((gcmSeal key nonce aad b).length - 16) = gcmText (aesKeys key) (gcmStart nonce) b := by
    rw [gcmSeal_length, Nat.add_sub_cancel, gcmSeal]; exact List.take_left' l
  have d : (gcmSeal key nonce aad b).drop ((gcmSeal key nonce aad b).length - 16)
      = gcmTag (aesKeys key) (gcmStart nonce) aad (gcmText (aesKeys key) (gcmStart nonce) b) := by
    rw [gcmSeal_length, Nat.add_sub_cancel, gcmSeal]; exact List.drop_left' l
  simp only [gcmOpen, t, d, if_true, gcmText_twice]

/-! ### XTS and plough patterns -/

theorem xtsBlocks_length (rk : List Nat) : ∀ (n t : Nat) (b : Bytes), 16 * n ≤ b.length → (xtsBlocks rk n t b).length = 16 * n
  | 0, _, _, _ => rfl
  | n + 1, t, b, h => by
    have i := xtsBlocks_length rk n (xtsNext t) (b.drop 16) (by simp; omega)
    simp [xtsBlocks, i]; omega

theorem patternLine_length (pat seed l pos : Nat) : (patternLine pat seed l pos).length = 64 := by
  unfold patternLine
  repeat' split
  all_goals simp [List.length_flatMap, List.map_const']

/-- A plough run stores 64 bytes in every line. -/
theorem stored_length (r : PloughRun) (key ch l : Nat) : (r.stored key ch l).length = 64 := by
  have p := patternLine_length r.pattern r.seed l (r.pos l)
  simp only [PloughRun.stored]
  split
  · rw [xtsEncrypt, p]; exact xtsBlocks_length _ 4 _ _ (by omega)
  · exact p

/-! ### Frames -/

theorem frameHeader_lt (f : Frame) : frameHeader f < 2 ^ 128 := by
  have h1 := f.job.isLt; have h2 := f.dst.isLt; have h3 := f.src.isLt; have h4 := f.typ.isLt; have h5 := f.cls.isLt
  have h6 := f.srcCore.isLt; have h7 := f.seq.isLt; have h8 := Bool.toNat_lt f.more; have h9 := f.issueBell.isLt
  unfold frameHeader; omega

/-- The header says all of a frame but its content. -/
theorem frameOf_frameHeader (f : Frame) (b : Bytes) : frameOf (frameHeader f) b = { f with content := b } := by
  have h1 := f.job.isLt; have h2 := f.dst.isLt; have h3 := f.src.isLt; have h4 := f.typ.isLt; have h5 := f.cls.isLt
  have h6 := f.srcCore.isLt; have h7 := f.seq.isLt; have h8 := Bool.toNat_lt f.more; have h9 := f.issueBell.isLt
  obtain ⟨job, dst, src, typ, cls, core, seq, more, bell, content⟩ := f
  simp only [frameOf, Frame.mk.injEq, and_true]
  simp only at h1 h2 h3 h4 h5 h6 h7 h8 h9
  refine ⟨?_, ?_, ?_, ?_, ?_, ?_, ?_, ?_, ?_⟩
  · apply BitVec.eq_of_toNat_eq; rw [BitVec.toNat_ofNat]; simp only [bits, frameHeader]; omega
  · apply BitVec.eq_of_toNat_eq; rw [BitVec.toNat_ofNat]; simp only [bits, frameHeader]; omega
  · apply BitVec.eq_of_toNat_eq; rw [BitVec.toNat_ofNat]; simp only [bits, frameHeader]; omega
  · apply BitVec.eq_of_toNat_eq; rw [BitVec.toNat_ofNat]; simp only [bits, frameHeader]; omega
  · apply BitVec.eq_of_toNat_eq; rw [BitVec.toNat_ofNat]; simp only [bits, frameHeader]; omega
  · apply BitVec.eq_of_toNat_eq; rw [BitVec.toNat_ofNat]; simp only [bits, frameHeader]; omega
  · apply BitVec.eq_of_toNat_eq; rw [BitVec.toNat_ofNat]; simp only [bits, frameHeader]; omega
  · have : bits (frameHeader ⟨job, dst, src, typ, cls, core, seq, more, bell, content⟩) 32 32 = more.toNat := by
      simp only [bits, frameHeader]; omega
    rw [this]; cases more <;> rfl
  · apply BitVec.eq_of_toNat_eq; rw [BitVec.toNat_ofNat]; simp only [bits, frameHeader]; omega

@[simp] theorem frameContent_length (f : Frame) : (frameContent f).length = 208 := by simp [frameContent]; omega
@[simp] theorem sealFrame_length (key n : Nat) (f : Frame) : (sealFrame key n f).length = 224 := by simp [sealFrame]

theorem wireOf_header (f : Frame) (b : Bytes) (l : LinkField) : (wireOf f b l).take 16 = leBytes 16 (frameHeader f) := by
  simp only [wireOf, List.append_assoc]; exact List.take_left' (leBytes_length 16 _)

theorem wireOf_body (f : Frame) (b : Bytes) (l : LinkField) (h : b.length = 224) : ((wireOf f b l).drop 16).take 224 = b := by
  have d : (wireOf f b l).drop 16 = b ++ (leBytes 8 (linkWord l)
      ++ leBytes 8 (crc64 (leBytes 16 (frameHeader f) ++ b ++ leBytes 8 (linkWord l)))) := by
    simp only [wireOf, List.append_assoc]; exact List.drop_left' (leBytes_length 16 _)
  rw [d]; exact List.take_left' h

/-- A frame that is sealed and put on the link opens at the other end under the same key and count, its content filled up to
208 bytes. -/
theorem openFrame_wireOf (key n : Nat) (f : Frame) (l : LinkField) :
    openFrame key n (wireOf f (sealFrame key n f) l) = some { f with content := frameContent f } := by
  have h : wireHeader (wireOf f (sealFrame key n f) l) = frameHeader f := by
    rw [wireHeader, wireOf_header, leNat_leBytes]; exact Nat.mod_eq_of_lt (frameHeader_lt f)
  rw [openFrame, wireOf_header, wireOf_body _ _ _ (sealFrame_length key n f), h]
  simp only [sealFrame, gcmOpen_gcmSeal, Option.map_some, frameOf_frameHeader]

theorem crcByte_lt (c : Nat) (b : Byte) : crcByte c b < 2 ^ 64 := by
  have one (c : Nat) : (if c / 2 ^ 63 = 1 then Nat.xor (c * 2 % 2 ^ 64) 0x42F0E1EBA9EA3693 else c * 2 % 2 ^ 64) < 2 ^ 64 := by
    have m : c * 2 % 2 ^ 64 < 2 ^ 64 := Nat.mod_lt _ (by decide)
    split
    · exact Nat.xor_lt_two_pow m (by decide)
    · exact m
  rw [crcByte, List.range_succ, List.foldl_append]
  exact one _

theorem crc64_lt (bs : Bytes) : crc64 bs < 2 ^ 64 := by
  rcases List.eq_nil_or_concat bs with rfl | ⟨l, b, rfl⟩
  · decide
  · rw [crc64, List.concat_eq_append, List.foldl_append, List.foldl_cons, List.foldl_nil]
    generalize l.foldl crcByte 0 = c
    exact crcByte_lt c b

/-- Every frame that a module sends has a good CRC. -/
theorem wireCrcGood_wireOf (f : Frame) (b : Bytes) (l : LinkField) (h : b.length = 224) :
    wireCrcGood (wireOf f b l) = true := by
  have n : (leBytes 16 (frameHeader f) ++ b ++ leBytes 8 (linkWord l)).length = 248 := by simp [h]
  have w : wireOf f b l = leBytes 16 (frameHeader f) ++ b ++ leBytes 8 (linkWord l)
      ++ leBytes 8 (crc64 (leBytes 16 (frameHeader f) ++ b ++ leBytes 8 (linkWord l))) := by rw [wireOf]
  generalize leBytes 16 (frameHeader f) ++ b ++ leBytes 8 (linkWord l) = x at n w
  have t : (wireOf f b l).take 248 = x := by rw [w]; exact List.take_left' n
  have d : (wireOf f b l).drop 248 = leBytes 8 (crc64 x) := by rw [w]; exact List.drop_left' n
  have e : (wireOf f b l).length = 256 := by rw [w, List.length_append, n, leBytes_length]
  have m (y : Nat) (hy : y < 2 ^ 64) : y % 256 ^ 8 = y := Nat.mod_eq_of_lt hy
  rw [wireCrcGood, e, t, d, leNat_leBytes, m _ (crc64_lt _)]
  simp

theorem linkOf_linkWord (l : LinkField) : linkOf (linkWord l) = l := by
  have h1 := l.txSeq.isLt; have h2 := l.ackSeq.isLt; have h3 := Bool.toNat_lt l.nak; have h4 := l.cls.isLt; have h5 := l.credits.isLt
  obtain ⟨tx, ack, nak, cls, cr⟩ := l
  simp only at h1 h2 h3 h4 h5
  simp only [linkOf, LinkField.mk.injEq]
  refine ⟨?_, ?_, ?_, ?_, ?_⟩
  · apply BitVec.eq_of_toNat_eq; rw [BitVec.toNat_ofNat]; simp only [bits, linkWord]; omega
  · apply BitVec.eq_of_toNat_eq; rw [BitVec.toNat_ofNat]; simp only [bits, linkWord]; omega
  · have : bits (linkWord ⟨tx, ack, nak, cls, cr⟩) 15 15 = nak.toNat := by simp only [bits, linkWord]; omega
    rw [this]; cases nak <;> rfl
  · apply BitVec.eq_of_toNat_eq; rw [BitVec.toNat_ofNat]; simp only [bits, linkWord]; omega
  · apply BitVec.eq_of_toNat_eq; rw [BitVec.toNat_ofNat]; simp only [bits, linkWord]; omega

/-- The link field of a frame on the link is the one that it was sent with. -/
theorem wireLink_wireOf (f : Frame) (b : Bytes) (l : LinkField) (h : b.length = 224) : wireLink (wireOf f b l) = l := by
  have d : (wireOf f b l).drop 240 = leBytes 8 (linkWord l)
      ++ leBytes 8 (crc64 (leBytes 16 (frameHeader f) ++ b ++ leBytes 8 (linkWord l))) := by
    have n : (leBytes 16 (frameHeader f) ++ b).length = 240 := by simp [h]
    have : wireOf f b l = (leBytes 16 (frameHeader f) ++ b) ++ (leBytes 8 (linkWord l)
      ++ leBytes 8 (crc64 (leBytes 16 (frameHeader f) ++ b ++ leBytes 8 (linkWord l)))) := by
      simp only [wireOf, List.append_assoc]
    rw [this]; exact List.drop_left' n
  have w : linkWord l < 2 ^ 64 := by
    have h1 := l.txSeq.isLt; have h2 := l.ackSeq.isLt; have h3 := Bool.toNat_lt l.nak; have h4 := l.cls.isLt; have h5 := l.credits.isLt
    unfold linkWord; omega
  have m : linkWord l % 256 ^ 8 = linkWord l := Nat.mod_eq_of_lt w
  rw [wireLink, d, List.take_left' (leBytes_length 8 _), leNat_leBytes, m, linkOf_linkWord]

/-! ### Vote words (09 R202) -/

theorem vote_word_toNat (job : Nat) (v : Vote) : (Vote.word job v).toNat
    = job % 2 ^ 16 * 2 ^ 48 + v.step % 2 ^ 32 * 2 ^ 16 + v.cls % 2 ^ 13 * 2 ^ 3 + v.attempt % 2 * 4 + v.early.toNat * 2 + v.replay.toNat := by
  have h1 := Bool.toNat_lt v.early; have h2 := Bool.toNat_lt v.replay
  rw [Vote.word, BitVec.toNat_ofNat]; exact Nat.mod_eq_of_lt (by omega)

theorem voteJob_word (job : Nat) (v : Vote) : voteJob (Vote.word job v) = job % 2 ^ 16 := by
  have h1 := Bool.toNat_lt v.early; have h2 := Bool.toNat_lt v.replay
  rw [voteJob, vote_word_toNat]; simp only [bits]; omega

/-- A word carries a vote whose fields fit it. -/
theorem vote_ofWord_word (job : Nat) (v : Vote) (hs : v.step < 2 ^ 32) (hc : v.cls < 2 ^ 13) (ha : v.attempt < 2) :
    Vote.ofWord (Vote.word job v) v.t0 v.t1 = v := by
  have h1 := Bool.toNat_lt v.early; have h2 := Bool.toNat_lt v.replay
  obtain ⟨step, cls, att, early, replay, t0, t1⟩ := v
  simp only at hs hc ha h1 h2
  simp only [Vote.ofWord, Vote.mk.injEq, and_true, vote_word_toNat]
  refine ⟨by simp only [bits]; omega, by simp only [bits]; omega, by simp only [bits]; omega, ?_, ?_⟩
  · rw [BitVec.getLsbD, vote_word_toNat, Nat.testBit_eq_decide_div_mod_eq]
    cases early <;> cases replay <;> simp only [Bool.toNat_true, Bool.toNat_false, decide_eq_true_eq, decide_eq_false_iff_not] <;> omega
  · rw [BitVec.getLsbD, vote_word_toNat, Nat.testBit_eq_decide_div_mod_eq]
    cases early <;> cases replay <;> simp only [Bool.toNat_true, Bool.toNat_false, decide_eq_true_eq, decide_eq_false_iff_not] <;> omega

/-! ### Control messages (13 R316) -/

/-- A message that has not been acted on acts, and is kept. -/
theorem actOnce_fresh {s : State} {k : Acted} (act : State → State) (h : Fresh s k) : actOnce s k act = act (kept s k) := by
  have f : s.acted.find? (fun e => { e with answer := none } == k) = none := by
    rw [List.find?_eq_none]; intro e he; simpa using h e he
  simp only [actOnce, f, kept]

/-- One that has been answered is answered again and does nothing else. -/
theorem actOnce_again {s : State} {k e : Acted} {m : ControlMsg} (act : State → State)
    (h : s.acted.find? (fun e => { e with answer := none } == k) = some e) (ha : e.answer = some m) :
    actOnce s k act = s.emit (.control m) := by
  simp only [actOnce, h, ha]

end Sys2Proof.Machine
end

