-- ==== Sys2Proof/Tests/Slice0.lean ====
section
/-! SUPPORT. Tests: words written out from the encodings, ill-formed forms, small steps, and for every statement that has
hypotheses a state and operands that meet them. -/

namespace Sys2Proof.Tests
open Sys2Proof Sys2Proof.Machine
set_option maxRecDepth 100000
set_option Elab.async false


/-! ### Small states -/

/-- A plan of one core, one page and four sequence slots, with one class and no service. -/
def img0 : PlanImage where
  hdr := ⟨0, 0x123456789ABCDEF0, 0, 0, 1, 1, 100, 1, 0, 0, 0, 0, 4, 0, 1, 1, 1, 512, 3072, false, false, false⟩
  classes := [⟨1000, 600, [(0, 9999)], []⟩]
  stepsWhole := true
  services := []
  cores := [⟨0, [], 0, [], 0, 0, []⟩]
  pages := [⟨0, false⟩]
  bins := []
  regions := []
  handles := []
  cartDesc := []
  cartOf := []
  reckOf := []
  reckClasses := []
  reckDesc := []
  collDesc := []
  collParts := []
  cartOwner := []
  reckOwner := []
  seqOwner := [(0, 100), (0, 200), (0, 300), (0, 50)]
  shares := []
  tallies := []
  watches := []
  ratios := []

def node0 : TreeNode := ⟨none, [], [], false⟩

/-- The plan loaded and launched as job 1, in step 0x87654321, attempt 0. -/
def plan0 : Plan where
  img := img0
  digest := 0
  listIndex := 0
  logical := [0]
  frames := [(0, 0)]
  bins := []
  seqs := [0, 1, 2, 3]
  regionEntries := []
  filled := true
  draining := false
  packages := []
  jobId := 1
  member := 0
  members := 1
  memberPlaces := [0]
  twin := false
  jobState := .running
  launchBell := some 0
  goHeld := false
  answers := []
  teardownCause := none
  teardownBell := 0
  step := 0x87654321
  attempt := 0
  cls := 0
  openBell := 0
  stepOpen := true
  reopenBell := none
  replayed := false
  replayCause := 0
  voteSent := false
  earlySent := false
  corruptMark := false
  foundBy := (false, false)
  occs := []
  ownResult := none
  heldVotes := []
  treeA := node0
  treeB := node0
  highest := 0
  tallies := []
  history := []
  widen := 0
  widenCkpt := 0
  raised := []
  slotWidened := false
  twinStop := none
  launched := true
  gridBell := 0
  nextSlot := [0]
  runs := []
  requests := []

/-- A module in service: state READY, past its last start step, the input valid and the host link up, with one owner's
session and one tenant's. -/
def up : State :=
  { State.reset with
    mod := { State.reset.mod with state := .ready, startStep := 10 }
    bellRunning := true
    bell := 5000000
    power := { State.reset.power with inputOk := true }
    host := { State.reset.host with
      up := true
      sessions := [⟨1, 0, none, 0, false, 5000000, none, 0, 0, 0, 0⟩, ⟨2, 1, some 0, 0, false, 0, none, 0, 0, 0, 0⟩] } }

def withPlan (s : State) (p : Plan) : State := { s with plans := s.plans.set 0 (some p) }
def withCore (s : State) (f : Core → Core) : State := s.modCore 0 f

/-- Core 0 runs plan core 0 of the plan, at bundle 100. -/
def ready : State :=
  withCore { withPlan up plan0 with coreMap := up.coreMap.set 0 (.mapped 0) }
    (fun _ => { Core.reset with plan := some 0, planCore := 0, run := .running, bundle := 100 })

def cf (d a b : Nat) (imm : Nat := 0) : CForm :=
  ⟨BitVec.ofNat 5 d, BitVec.ofNat 5 a, BitVec.ofNat 5 b, false, 0, false, 0, BitVec.ofNat 32 imm⟩

def setS (s : State) (n v : Nat) : State := withCore s (fun k => { k with regs := k.regs.setS n (BitVec.ofNat 64 v) })
def setA (s : State) (n v : Nat) : State := withCore s (fun k => { k with regs := k.regs.setA n (BitVec.ofNat 48 v) })

/-- What holds of the next state of a command; false on a stop. -/
def next (i : Instr) (s : State) (q : State → Bool) : Bool :=
  match exec i s with
  | .next t => q t
  | _ => false

def sOf (t : State) (n : Nat) : Nat := (t.cores[0].regs.getS n).toNat
def aOf (t : State) (n : Nat) : Nat := (t.cores[0].regs.getA n).toNat

/-- The module of `up` at place 5 of a domain of two, its primary and standby at place 5 and 6, ports 0 to 3 enabled, caps
600, 900 and 1,500 W. -/
def cfg0 : Mem :=
  [(0, 4, 5), (0x10, 8, 600 * 2 ^ 12 + 1500 * 2 ^ 24 + 900 * 2 ^ 36), (0x18, 8, 0xF * 2 ^ 32)].foldl
    (fun m e => memWrite 0 m e.1 (leBytes e.2.1 e.2.2)) []
def conf : State := { up with cfg := cfg0 }

def owner0 : Session := ⟨1, 0, none, 0, false, 5000000, none, 0, 0, 0, 0⟩
def operator0 : Session := ⟨2, 1, some 0, 0, false, 0, none, 0, 0, 0, 0⟩
/-- The owner's request frame, and the operator's. -/
def req : HostHdr := ⟨1, 77, true⟩
def reqOp : HostHdr := ⟨2, 78, true⟩
theorem asks_owner : Asks conf req owner0 ∧ Asks up req owner0 ∧ Calm conf ∧ Calm up := by unfold Asks Calm; decide +kernel
theorem asks_operator : Asks conf reqOp operator0 := by unfold Asks; decide +kernel

/-- Prime an owner's session with a transfer. -/
def transferring (s : State) (x : Transfer) : State :=
  { s with host := { s.host with sessions := [{ owner0 with transfer := some x }] } }

theorem withCore_other (s : State) (f : Core → Core) (d : CoreId) (h : d ≠ 0) : (withCore s f).cores[d] = s.cores[d] := by
  have n : (0 : CoreId).val ≠ d.val := fun e => h (Fin.ext e.symm)
  have m : (0 : Nat) ≠ d.val := n
  simp [withCore, State.modCore, m]
theorem ready_other (d : CoreId) (h : d ≠ 0) : ready.cores[d] = Core.reset := by
  rw [ready, withCore_other _ _ _ h]
  exact Vector.getElem_replicate _
/-- A property of every core of a state made from `ready` at core 0 alone holds if it holds of core 0 and of a core at reset. -/
theorem cores_of (f : Core → Core) (q : Core → Prop) (h0 : q (f ready.cores[(0 : CoreId)])) (h1 : q Core.reset) (d : CoreId) :
    q (withCore ready f).cores[d] := by
  by_cases h : d = 0
  · subst h; exact h0
  · rw [withCore_other _ _ _ h, ready_other _ h]; exact h1

/-! ### Words written out from the encodings (03 R67, R70; 04 R93; 05 R112) -/

/-- C.ADD S3, S1, S2 with SAT: OP, D, A, B, SAT, COND, USE_S, UNIT, zero, IMM. -/
theorem test_decode_c_add : decodeSlot .c 7 0b00000001_00011_00001_00010_1_000_0_00_00_00000000000000000000000000000000
    = some (.cAdd 7 ⟨3, 1, 2, true, 0, false, 0, 0⟩) := by decide
/-- C.CMP S4, S5, S6 under condition 3. -/
theorem test_decode_c_cmp : decodeSlot .c 7 0b00001101_00100_00101_00110_0_011_0_00_00_00000000000000000000000000000000
    = some (.cCmp 7 ⟨4, 5, 6, false, 3, false, 0, 0⟩) := by decide
/-- C.LI S31, −2. -/
theorem test_decode_c_li : decodeSlot .c 7 0b00001011_11111_00000_00000_0_000_0_00_00_11111111111111111111111111111110
    = some (.cLi 7 ⟨31, 0, 0, false, 0, false, 0, 0xFFFFFFFE⟩) := by decide
/-- C.ISSUE of reckoner descriptor 9 with DC5. -/
theorem test_decode_c_issue : decodeSlot .c 7 0b00111010_00101_00000_00000_0_000_0_01_00_00000000000000000000000000001001
    = some (.cIssue 7 ⟨5, 0, 0, false, 0, false, 1, 9⟩) := by decide
/-- The X.MMA of the example of 04: TD 0, TA 1, TB 2, PAIR 0x12, ACC, VSB 4. -/
theorem test_decode_x_mma : decodeSlot .x 7 0x0105490008000000
    = some (.xMma 7 ⟨0, 1, 2, 0x12, false, true, 0, 0, 4, 0, 0, 0⟩) := by decide
/-- X.TRD T5, V8, ROW 16, GRP 1: OP, TD, TA, TB, PAIR, SAT, ACC, KSEG, VSA, VSB, VR, ROW, GRP, zero. -/
theorem test_decode_x_trd :
    decodeSlot .x 7 0b00000100_101_000_000_00000_0_0_000_000000_000000_001000_010000_01_00000000000
      = some (.xTrd 7 ⟨5, 0, 0, 0, false, false, 0, 0, 0, 8, 16, 1⟩) := by decide
/-- The V.QUANT of the example of 05: VD 12, VA 10, VB 7, FMT 0xC, COUNT 4, SB. -/
theorem test_decode_v_quant : decodeSlot .v 7 0x1330A1C018000880
    = some (.vQuant 7 ⟨12, 10, 7, 0, 0, 0xC, 0, 4, false, true, 0⟩) := by decide
/-- V.FMA V1 = V2 × V3 + V4, mask K5, binary32, 256 lanes: OP, VD, VA, VB, VC, KM, FMT, FMTD, COUNT, SAT, SB, AUX, zero. -/
theorem test_decode_v_fma :
    decodeSlot .v 7 0b00000100_000001_000010_000011_000100_101_0001_0000_000100000000_0_0_00000_00
      = some (.vFma 7 ⟨1, 2, 3, 4, 5, 1, 0, 256, false, false, 0⟩) := by decide
/-- V.CHAIN V8, inputs V16, V24, chain entry 9, RED into RA1: OP, VD, I0-I3, KM, COUNT, CHAIN, RED, RACC, NOWR, zero. -/
theorem test_decode_v_chain :
    decodeSlot .v 7 0b00110000_001000_010000_011000_000000_000000_010_000001000000_01001_1_01_0_00
      = some (.vChain 7 ⟨8, 16, 24, 0, 0, 2, 64, 9, true, 1, false⟩) := by decide
/-- V.RRD S6 from RA1, binary64, CLR: OP, VD, VA, TA, AXIS, KM, FMT, COUNT, RACC, CLR, SB, LANE, SAT. -/
theorem test_decode_v_rrd :
    decodeSlot .v 7 0b00111011_000110_000000_000_0_000_0000_000000000000_01_1_00000_000000000000_0
      = some (.vRrd 7 ⟨6, 0, 0, false, 0, 0, 0, 1, true, 0, 0, false⟩) := by decide
/-- M.LDVS V4, base A1, stride A2, mask K3, EW 2, 64 elements, OFFS −1: OP, REG, AB, AST, KM, EW, GRP, NF, COUNT, OFFS. -/
theorem test_decode_m_ldvs :
    decodeSlot .m 7 0b00000010_000100_0001_0010_011_010_00_00_000001000000_11111111111111111111
      = some (.mLdvs 7 ⟨4, 1, 2, 3, 2, 0, 0, 64, 0xFFFFF⟩) := by decide
/-- The gather of the example of 03: VD 8, VI 2, AB 3, EW 2, COUNT 16, SHIFT 2. -/
theorem test_decode_m_gath : decodeSlot .m 7 0x0820230800820000 = some (.mGath 7 ⟨8, 2, 3, 0, 2, 0, false, 16, 2⟩) := by decide
/-- M.FATOM S4, base A5, handle 63, AOP 4, TYPE 1, operands from S6, LEN 0, OFFS 8: OP, REG, AB, FH, AOP, TYPE, SB, DISCARD,
LEN, OFFS. -/
theorem test_decode_m_fatom :
    decodeSlot .m 7 0b00011010_000100_0101_111111_100_01_00110_0_00000000_000000000000000001000
      = some (.mFatom 7 ⟨4, 5, 63, 4, 1, 6, false, 0, 8⟩) := by decide

/-- No word of the command table spells a command: the table gives no row bits. -/
theorem test_table_word : decodeTableWord 64 0x0118450000000000 = none := by decide

/-! ### Words and forms that are refused (03 R57) -/

theorem test_undefined_opcodes : decodeSlot .c 7 0x0E00000000000000 = none ∧ decodeSlot .x 7 0x0600000000000000 = none
    ∧ decodeSlot .v 7 0x1400000000000000 = none ∧ decodeSlot .m 7 0x0700000000000000 = none := by decide
/-- A reserved bit set: bits [33:32] of the C slot, [10:0] of the X slot, [1:0] of VE and VC, [15:0] of MG. -/
theorem test_reserved_bits : decodeSlot .c 7 0x0118450100000000 = none ∧ decodeSlot .x 7 0x0105490008000001 = none
    ∧ decodeSlot .v 7 0x1330A1C018000881 = none ∧ decodeSlot .m 7 0x0820230800820001 = none := by decide
/-- C slot: a field that the opcode does not use, SAT without it, a condition that does not exist, K0 as destination, a loop
body of no bundle, UNIT 3. -/
theorem test_illformed_c : (∀ i ∈ [Instr.cAdd 0 (cf 1 2 3 1), .cAnd 0 { cf 1 2 3 with sat := true },
    .cCmp 0 { cf 1 2 3 with cond := 6 }, .cFcmp 0 { cf 1 2 3 with cond := 4 }, .cKand 0 (cf 0 1 2), .cLoop 0 (cf 0 0 0 5),
    .cIssue 0 { cf 0 0 0 with unit := 3 }, .cAadd 0 (cf 16 0 0), .cKset 0 (cf 8 0 0), .cAli 0 { cf 0 0 0 with useS := true },
    .cAmovs 0 (cf 0 1 2), .cAaddl 0 (cf 1 2 4)], i.wellFormed = false) := by decide
/-- X slot: TD among the operands, an undefined pairing, SAT on a binary32 accumulator, KSEG beyond the pairing, a scale
group not aligned, rows that are not those of the group. -/
theorem test_illformed_x : (∀ i ∈ [Instr.xMma 0 ⟨1, 1, 2, 8, false, false, 0, 0, 0, 0, 0, 0⟩,
    .xMma 0 ⟨0, 1, 2, 0x16, false, false, 0, 0, 0, 0, 0, 0⟩, .xMma 0 ⟨0, 1, 2, 1, true, false, 0, 0, 0, 0, 0, 0⟩,
    .xMma 0 ⟨0, 1, 2, 8, false, false, 1, 0, 0, 0, 0, 0⟩, .xMma 0 ⟨0, 1, 2, 0x12, false, false, 0, 0, 5, 0, 0, 0⟩,
    .xZero 0 ⟨0, 1, 0, 0, false, false, 0, 0, 0, 0, 0, 0⟩, .xTrd 0 ⟨0, 0, 0, 0, false, false, 0, 0, 0, 1, 0, 1⟩,
    .xTwr 0 ⟨0, 0, 0, 0, false, false, 0, 0, 0, 0, 62, 0⟩], i.wellFormed = false) := by decide
/-- V slot: a format the opcode does not take, a group beyond V63, a group that is not aligned, a destination that crosses a
source, SAT on a binary format, an undefined AUX, COUNT lanes beyond the tile, an RA number of the other kind. -/
theorem test_illformed_v : (∀ i ∈ [Instr.vDiv 0 ⟨0, 1, 2, 0, 0, 1, 0, 4, false, false, 0⟩,
    .vAdd 0 ⟨63, 0, 0, 0, 0, 1, 0, 512, false, false, 0⟩, .vAdd 0 ⟨2, 1, 4, 0, 0, 1, 0, 512, false, false, 0⟩,
    .vCvt 0 ⟨4, 5, 0, 0, 0, 1, 0, 256, false, false, 0⟩, .vAdd 0 ⟨0, 1, 2, 0, 0, 1, 0, 4, true, false, 0⟩,
    .vFn 0 ⟨0, 1, 0, 0, 0, 1, 0, 4, false, false, 5⟩, .vTrsum 0 ⟨0, 0, 0, false, 0, 1, 65, 0, false, 0, 0, false⟩,
    .vRsum 0 ⟨0, 0, 0, false, 0, 0, 4, 2, false, 0, 0, false⟩, .vCmp 0 ⟨0, 1, 2, 0, 0, 1, 0, 4, false, false, 0⟩,
    .vChain 0 ⟨0, 0, 0, 0, 0, 0, 4, 0, false, 1, false⟩, .vExt 0 ⟨0, 0, 0, false, 0, 0, 4, 0, false, 0, 4, false⟩],
    i.wellFormed = false) := by decide
/-- M slot: an element width that does not exist, elements beyond the group, four fields of NF 3, a register number beyond
its file, an atomic that R257 does not list, SCADD of int8. -/
theorem test_illformed_m : (∀ i ∈ [Instr.mLdv 0 ⟨0, 1, 0, 0, 5, 0, 0, 4, 0⟩, .mLdv 0 ⟨0, 1, 0, 0, 4, 0, 0, 65, 0⟩,
    .mStf 0 ⟨0, 1, 0, 0, 0, 0, 3, 4, 0⟩, .mLdx 0 ⟨32, 1, 0, 0, 0, 0, 0, 0, 0⟩, .mTld 0 ⟨8, 1, 0, 0, 0, 0, 0, 0, 0⟩,
    .mCopy 0 ⟨16, 1, 0, 0, 0, 0, 0, 0, 0⟩, .mScadd 0 ⟨0, 1, 0, 0, 0, 0, false, 4, 0⟩, .mFatom 0 ⟨0, 0, 0, 5, 0, 0, false, 0, 0⟩,
    .mFatom 0 ⟨0, 0, 0, 4, 0, 1, false, 0, 0⟩, .mFflag 0 ⟨32, 0, 0, 0, 0, 0, false, 0, 0⟩], i.wellFormed = false) := by decide
/-- Executed all the same, an ill-formed slot instruction is refused by name. -/
theorem test_illformed_refused : (match exec (.cAdd 0 (cf 1 2 3 1)) ready with | .refused .illFormed => true | _ => false) = true := by
  decide +kernel
theorem witness_illformed : (Instr.cAdd 0 (cf 1 2 3 1)).wellFormed = false := by decide +kernel

/-! ### The C slot -/

/-- Sums and moves end as 03 R68 says: -1 + 3 = 2; INT_SAT at the top of the range under SAT; ALIH keeps bits [31:0]. -/
theorem test_c_add : next (.cAdd 0 (cf 3 1 2)) (setS (setS ready 1 (2 ^ 64 - 1)) 2 3) (fun t => sOf t 3 == 2) = true := by
  decide +kernel
theorem test_c_add_sat : next (.cAdd 0 { cf 1 1 1 with sat := true }) (setS ready 1 (2 ^ 63 - 1))
    (fun t => sOf t 1 == 2 ^ 63 - 1 && t.cores[0].flagsStep == flagIntSat) = true := by decide +kernel
theorem test_c_sra : next (.cSra 0 (cf 3 1 2)) (setS (setS ready 1 (2 ^ 64 - 5)) 2 65) (fun t => sOf t 3 == 2 ^ 64 - 3) = true := by
  decide +kernel
theorem test_c_alih : next (.cAlih 0 (cf 4 0 0 0xABCD)) (setA ready 4 0x111122223333) (fun t => aOf t 4 == 0xABCD22223333) = true := by
  decide +kernel

theorem witness_c_integer : (∀ e ∈ [(0x01, { cf 31 2 3 with sat := true }), (0x02, cf 31 2 3), (0x03, cf 0 31 31), (0x07, cf 31 2 3),
      (0x0A, cf 31 2 0 0x80000000)], e.2.legal e.1 = true) ∧ CanIssue ready 0 .c [.s 0, .s 2, .s 3, .s 31] := by
  unfold CanIssue; decide +kernel

theorem witness_c_logic : (∀ e ∈ [(0x04, cf 31 2 3), (0x05, cf 31 2 3), (0x06, cf 31 2 3), (0x08, cf 31 2 3), (0x09, cf 31 2 3),
      (0x0B, cf 31 0 0 0xFFFFFFFF), (0x0C, cf 31 0 0 1), (0x0D, { cf 31 2 3 with cond := 0 }),
      (0x0D, { cf 31 2 3 with cond := 5 }), (0x26, cf 31 15 0)], e.2.legal e.1 = true)
    ∧ CanIssue ready 0 .c [.s 31, .s 2, .s 3] := by
  unfold CanIssue; decide +kernel

theorem witness_c_binary64 : (∀ e ∈ [(0x10, cf 31 2 3), (0x11, cf 31 2 3), (0x12, cf 31 2 3), (0x13, cf 31 2 3), (0x14, cf 31 2 3),
      (0x15, cf 31 2 0), (0x16, { cf 31 2 3 with cond := 3 }), (0x17, cf 31 2 3), (0x18, cf 31 2 3), (0x19, cf 31 2 0),
      (0x1A, cf 31 2 0)], e.2.legal e.1 = true)
    ∧ CanIssue ready 0 .c [.s 31, .s 2, .s 3] := by
  unfold CanIssue; decide +kernel

theorem witness_c_address : (∀ e ∈ [(0x20, cf 15 2 3), (0x21, cf 15 2 0 0xFFFFFFFF), (0x22, cf 15 0 0 7), (0x23, cf 15 0 0 0xFFFF),
      (0x24, cf 15 2 3 8), (0x25, cf 15 31 0), (0x29, cf 7 1 2), (0x2A, cf 1 1 2), (0x2B, cf 7 0 7), (0x2C, cf 7 0 0),
      (0x28, cf 7 0 0 4096), (0x28, { cf 7 31 0 with useS := true })], e.2.legal e.1 = true)
    ∧ CanIssue ready 0 .c [.s 31] := by
  unfold CanIssue; decide +kernel

theorem witness_c_branches : (found ready 0 .c).loops = [] ∧ CanIssue ready 0 .c [.s 1, .s 2]
    ∧ (cf 0 0 0 0xFFFFFFFF).legal 0x30 = true ∧ { cf 0 1 2 with cond := 5 }.legal 0x31 = true
    ∧ condInt 0 ((operands ready 0 .c).getS 1) ((operands ready 0 .c).getS 2) = true
    ∧ condInt 1 ((operands ready 0 .c).getS 1) ((operands ready 0 .c).getS 2) = false := by
  unfold CanIssue; decide +kernel

/-- Core 0 in the last bundle of a loop of `n` passes. -/
def looping (n : Nat) : State := withCore ready (fun k => { k with loops := [⟨3, 100, 1, n⟩] })

theorem witness_c_loops : (cf 3 0 0 (1048576 * 5 + 7)).legal 0x32 = true ∧ (cf 3 0 0 (1048576 * 5)).legal 0x32 = true
    ∧ { cf 3 31 0 (1048576 * 5) with useS := true }.legal 0x32 = true ∧ CanIssue ready 0 .c [.s 31]
    ∧ (found ready 0 .c).loops = []
    ∧ (∀ n ∈ [1, 2], CanIssue (looping n) 0 .c [] ∧ (found (looping n) 0 .c).loops = [⟨3, 100, 1, n⟩]
        ∧ (found (looping n) 0 .c).bundle + 1 = 100 + 1)
    ∧ ((found (looping 2) 0 .c).regs.getL 3).toNat + 1 < 2 ∧ 1 ≤ ((found (looping 1) 0 .c).regs.getL 3).toNat + 1 := by
  unfold CanIssue; decide +kernel

/-- A1 at the last word of the core's own local SRAM. -/
def atTop : State := setA ready 1 (baseOwn + sramBytes - 8)

theorem witness_c_waits : (∀ n ∈ [0, 1], { cf 0 1 2 with cond := BitVec.ofNat 3 n }.legal 0x38 = true)
    ∧ CanIssue atTop 0 .c [.s 2, .s 31] ∧ (found atTop 0 .c).loops = []
    ∧ executing atTop 0 = some (0, plan0) ∧ img0.cores[(found atTop 0 .c).planCore]? = some ⟨0, [], 0, [], 0, 0, []⟩
    ∧ ((operands atTop 0 .c).getA 1).toNat + 8 = baseOwn + sramBytes ∧ (sramBytes - 8) % 8 = 0
    ∧ anyBad (found atTop 0 .c).sramBad 8 (sramBytes - 8) 8 = false
    ∧ condInt 0 (BitVec.ofNat 64 (leNat (memRead 0 (found atTop 0 .c).sram (sramBytes - 8) 8))) ((operands atTop 0 .c).getS 2)
        = true
    ∧ condInt 1 (BitVec.ofNat 64 (leNat (memRead 0 (found atTop 0 .c).sram (sramBytes - 8) 8))) ((operands atTop 0 .c).getS 2)
        = false
    ∧ { cf 15 31 0 with useS := true }.legal 0x39 = true ∧ (cf 15 0 0 1).legal 0x39 = true
    ∧ ((found atTop 0 .c).dc[(15 : Fin 16)] - 0).toNat < 2 ^ 31 ∧ 2 ^ 31 ≤ ((found atTop 0 .c).dc[(15 : Fin 16)] - 1).toNat := by
  unfold CanIssue
  refine ⟨by decide, by decide +kernel, by decide, rfl, by decide, by decide +kernel, by decide, by decide +kernel,
    by decide +kernel, by decide +kernel, by decide, by decide, by decide +kernel, by decide +kernel⟩

/-- The bundle of `atTop` holds a C.WAITF for a word that is not zero, which it is. -/
def waiting : State :=
  withCore atTop (fun k => { k with sram := memWrite 0 k.sram 3200 (leBytes 8 (((encode (.cWaitf 0 { cf 0 1 2 with cond := 1 })).getD 0).toNat)) })

theorem witness_c_waiting : executing waiting 0 = some (0, plan0)
    ∧ slotOpcode ((found waiting 0 .c).slotWord .c) = 0x38
    ∧ CForm.ofWord ((found waiting 0 .c).slotWord .c) = { cf 0 1 2 with cond := 1 }
    ∧ (found waiting 0 .c).slotX = false ∧ (found waiting 0 .c).slotV = false ∧ (found waiting 0 .c).slotM = false
    ∧ anyBad (found waiting 0 .c).sramBad 8 (32 * (found waiting 0 .c).bundle) 32 = false
    ∧ condInt 1 (BitVec.ofNat 64 (leNat (memRead 0 (found waiting 0 .c).sram (sramBytes - 8) 8)))
        ((found waiting 0 .c).regs.getS 2) = false
    ∧ ((found waiting 0 .c).regs.getA 1).toNat + 8 = baseOwn + sramBytes := by
  refine ⟨rfl, by decide +kernel, by decide +kernel, by decide, by decide, by decide, by decide +kernel, by decide +kernel,
    by decide +kernel⟩

/-- Sequence slot 3 of the plan at CL 1,200, TL 1,210 of 4,096. -/
def withSeq (p : Nat) : State :=
  { ready with seqSlots := ready.seqSlots.set 3 ⟨4096, 0, false, some 0, 1200, 1210, BitVec.ofNat 32 p, 1200, 1200, false⟩ }

theorem witness_c_sequence : executing (withSeq 10) 0 = some (0, plan0) ∧ plan0.seqs[3]? = some 3
    ∧ ((withSeq 10).seqSlots[(3 : Fin 64)]).owner.toNat = (found (withSeq 10) 0 .c).planCore
    ∧ (found (withSeq 10) 0 .c).loops = []
    ∧ (let z := (withSeq 10).seqSlots[(3 : Fin 64)]
       z.cl.toNat ≤ z.tl.toNat ∧ z.tl.toNat ≤ z.cap.toNat ∧ z.cl.toNat + z.p.toNat ≤ z.tl.toNat)
    ∧ (∀ e ∈ [(0x40, cf 31 0 0 0x30000), (0x41, cf 31 0 0 0x3FFFF), (0x42, { cf 31 2 0 0x30000 with useS := true }),
        (0x43, cf 31 0 0 0x30000), (0x44, cf 31 0 0 0x30000)], e.2.legal e.1 = true)
    ∧ CanIssue (withSeq 10) 0 .c [.s 31, .s 2] := by
  unfold CanIssue
  refine ⟨rfl, by decide, by decide +kernel, by decide, by decide +kernel, by decide, by decide +kernel⟩

/-- The example of 03 R86: from CL 1,200, TL 1,200, four positions drafted, two accepted and the tail trimmed. -/
theorem test_c_sequence :
    next (.cSqdraft 0 (cf 1 0 0 0x30004))
      { ready with seqSlots := ready.seqSlots.set 3 ⟨4096, 0, false, some 0, 1200, 1200, 0, 1200, 1200, false⟩ }
      (fun t => sOf t 1 == 4 && t.seqSlots[(3 : Fin 64)].tl == 1204) = true
    ∧ next (.cSqtrim 0 (cf 1 0 0 0x30000)) (withSeq 3)
      (fun t => sOf t 1 == 1203 && t.seqSlots[(3 : Fin 64)].tl == 1203) = true := by decide +kernel
theorem test_c_ksetNone : next (.cKset 0 (cf 3 0 0 0xFFFFFFFF)) ready (fun t => t.cores[0].regs.mask 3 == 0) = true := by
  decide +kernel
theorem test_c_mask_zero : next (.cKnot 0 (cf 7 0 0)) ready (fun t => t.cores[0].regs.mask 7 == 0) = true
    ∧ (cf 0 0 0).legal 0x2C = false := by
  decide +kernel

/-! ### The X and V slots -/

theorem executing_ready : executing ready 0 = some (0, plan0) := rfl

theorem unwatched_ready (sl : Slot) : Unwatched ready 0 sl := by
  intro i p h w hw
  rw [executing_ready] at h
  cases h
  exact absurd hw (List.not_mem_nil)

theorem witness_x_moves : CanIssue ready 0 .x [.t 7, .v 60 4]
    ∧ (XForm.legal 0x02 ⟨7, 0, 0, 0, false, false, 0, 0, 0, 0, 0, 0⟩) = true
    ∧ (XForm.legal 0x03 ⟨7, 0, 0, 0, false, false, 0, 0, 0, 0, 0, 0⟩) = true
    ∧ (∀ op ∈ [0x04, 0x05], XForm.legal op ⟨7, 0, 0, 0, false, false, 0, 0, 0, 60, 48, 2⟩ = true) := by
  unfold CanIssue; decide +kernel

/-- T7 += T5 × T6 of int8, and the same under SAT with the pairing's last code. -/
theorem witness_x_mma :
    (∀ n ∈ [0x00, 0x08, 0x15], (pairing n).isSome = true
      ∧ XForm.legal 0x01 ⟨7, 5, 6, BitVec.ofNat 5 n, false, true, 0, 0, 0, 0, 0, 0⟩ = true)
    ∧ (pairing 0x0B).map (·.acc) = some .int32
    ∧ CanIssue ready 0 .x [.t 7, .t 5, .t 6, .v 0 4] ∧ Unwatched ready 0 .x := by
  refine ⟨by decide, by decide, ?_, unwatched_ready _⟩
  unfold CanIssue; decide +kernel

/-- The example of 04: one output of an X.MMA of INT8 by W2 weights ends at 0x4B800004, with no flag. -/
theorem test_x_mma_example :
    (let act := (List.range 64).map (fun k => (k + 224) % 256)
     let r : Regs := { Regs.reset with
       t := (Regs.reset.t.set 1 (BitVec.ofNat _ (packCodes 8 act))).set 2 (BitVec.ofNat _ (packCodes 8 (List.replicate 16 0x2D)))
       v := Regs.reset.v.set 4 0x3500 }
     let f : XForm := ⟨0, 1, 2, 0x12, false, true, 0, 0, 4, 0, 0, 0⟩
     match pairing 0x12 with
     | none => (0, 0)
     | some p => mmaFloat fmtB32 false (some 0x4B800007)
         (groupsOf p.g (p.ka / p.g) (((actRow p f false r 0).map (·.1)).zip ((wgtCol p f false r 0).map (·.1)))))
      = (0x4B800004, 0) := by decide +kernel

/-- The example of 05: V.QUANT of four amounts to cents. -/
theorem test_v_quant_example : [(0x3140000000BC614E, 0x3180000000000001), (0x316000000000007D, 0x3180000000000001),
      (0x31A0000000000003, 0x3180000000000001), (0x33E0000000000001, 0x3180000000000001)].map
        (fun e => fmtD64.quantize e.1 e.2)
    = [(0x318000000001E241, flagDecInexact), (0x318000000000000C, flagDecInexact), (0x318000000000001E, 0),
       (0x7C00000000000000, flagInvalid)] := by decide +kernel

/-- The examples of 02: 13.5 and 500 in E4M3 and E5M2; 1,234.56 as a ledger of scale 4. -/
theorem test_convert_examples :
    [(0x41580000, Fmt.e4m3), (0x41580000, .e5m2), (0x43FA0000, .e4m3), (0x43FA0000, .e5m2)].map
        (fun e => convert .binary32 e.2 ⟨false, false, 0, 0, 0⟩ e.1)
      = [(0x56, 0), (0x4B, 0), (0x7E, flagNarrowSat), (0x60, 0)]
    ∧ convert .decimal64 .ledger ⟨false, false, 0, 0, 4⟩ 0x318000000001E240 = (0xBC6100, 0) := by decide +kernel

/-- The example of 14: under rounding to nearest the update of 2^-12 is lost. -/
theorem test_v_wupd_nearest : (fmtB16.roundVal false ((fmtB32.value 0x3F800000).add (fmtB32.value 0x39800000)).1).1 = 0x3C00 := by
  decide +kernel

theorem witness_v_elementwise :
    (∀ e ∈ [(0x01, (⟨60, 60, 31, 0, 7, 1, 0, 1024, false, true, 0⟩ : VEForm)), (0x02, ⟨0, 1, 2, 0, 0, 10, 0, 4, true, false, 0⟩),
        (0x03, ⟨0, 1, 2, 0, 0, 2, 0, 4, false, false, 0⟩), (0x04, ⟨0, 1, 2, 3, 0, 0, 0, 4, false, false, 0⟩),
        (0x05, ⟨0, 1, 2, 0, 0, 1, 0, 4, false, false, 0⟩), (0x06, ⟨0, 1, 2, 0, 0, 1, 0, 4, false, false, 0⟩),
        (0x07, ⟨0, 1, 0, 0, 0, 1, 0, 4, false, false, 0⟩), (0x08, ⟨0, 1, 0, 0, 0, 11, 0, 4, true, false, 0⟩),
        (0x09, ⟨0, 1, 2, 3, 0, 1, 0, 4, false, false, 0⟩), (0x0A, ⟨0, 1, 2, 7, 0, 1, 0, 4, false, false, 0⟩),
        (0x0B, ⟨0, 1, 2, 0, 0, 10, 0, 4, false, false, 0⟩), (0x0C, ⟨0, 1, 2, 0, 0, 10, 0, 4, false, false, 0⟩),
        (0x0D, ⟨0, 1, 2, 0, 0, 11, 0, 4, false, false, 0⟩), (0x0E, ⟨0, 1, 2, 0, 0, 11, 0, 4, true, false, 0⟩),
        (0x0F, ⟨0, 1, 2, 0, 0, 10, 0, 4, false, false, 0⟩), (0x10, ⟨0, 1, 2, 0, 0, 10, 0, 4, false, false, 0⟩),
        (0x11, ⟨56, 0, 0, 0, 0, 6, 0, 0, false, false, 0⟩), (0x13, ⟨12, 10, 7, 0, 0, 12, 0, 4, false, true, 0⟩),
        (0x18, ⟨0, 1, 2, 0, 0, 0, 0, 4, false, false, 0⟩), (0x19, ⟨0, 1, 0, 0, 0, 0, 0, 4, false, false, 0⟩),
        (0x1A, ⟨0, 1, 0, 0, 0, 1, 0, 4, false, false, 4⟩), (0x20, ⟨0, 1, 0, 0, 0, 1, 4, 4, false, false, 0⟩)],
      VEForm.legal e.1 e.2 = true ∧ (Fmt.ofCode e.2.fmt.toNat).isSome = true ∧ (e.2.dstFmt e.1).isSome = true)
    ∧ executing ready 0 = some (0, plan0) ∧ CanIssue ready 0 .v [.v 0 8, .v 56 8, .s 31] ∧ Unwatched ready 0 .v := by
  refine ⟨by decide, rfl, ?_, unwatched_ready _⟩
  unfold CanIssue; decide +kernel

theorem witness_v_compare : (VEForm.legal 0x12 ⟨7, 1, 2, 0, 1, 10, 0, 256, false, false, 5⟩) = true
    ∧ (Fmt.ofCode 10).isSome = true ∧ CanIssue ready 0 .v [.v 0 1, .v 1 1, .v 2 1] ∧ Unwatched ready 0 .v := by
  refine ⟨by decide, by decide, ?_, unwatched_ready _⟩
  unfold CanIssue; decide +kernel

/-- A plan with a ratio table that names tensor 7, and S12 with tensor 7 and element 0x1000. -/
def planR : Plan := { plan0 with img := { img0 with ratios := [⟨0, 0, 7, 0, false⟩] } }
def ratioed : State := setS (withPlan ready planR) 12 0x700001000

theorem witness_v_wupd : (∀ aux ∈ [(0 : BitVec 5), 1], VEForm.legal 0x21 ⟨0, 1, 2, 12, 0, 1, 2, 64, false, false, aux⟩ = true)
    ∧ (Fmt.ofCode 1).isSome = true ∧ (VEForm.dstFmt 0x21 ⟨0, 1, 2, 12, 0, 1, 2, 64, false, false, 1⟩).isSome = true
    ∧ executing ready 0 = some (0, plan0) ∧ CanIssue ready 0 .v [.v 0 1, .v 1 1, .v 2 1, .s 12] ∧ Unwatched ready 0 .v
    ∧ executing ratioed 0 = some (0, planR) ∧ CanIssue ratioed 0 .v [.v 0 1, .v 1 1, .v 2 1, .s 12] ∧ Unwatched ratioed 0 .v
    ∧ planR.img.ratios.any (fun e => e.tensor == ((operands ratioed 0 .v).getS 12).extractLsb' 32 32) = true := by
  refine ⟨by decide, by decide, by decide, rfl, ?_, unwatched_ready _, rfl, ?_, ?_, by decide +kernel⟩
  · unfold CanIssue; decide +kernel
  · unfold CanIssue; decide +kernel
  · intro i p h w hw
    have e : executing ratioed 0 = some (0, planR) := rfl
    rw [e] at h; cases h
    exact absurd hw (List.not_mem_nil)

/-- A chain of one stage, the sum of inputs 0 and 1 in binary32, in entry 31 of core 0's table. -/
def chainWord : BitVec 320 := BitVec.ofNat 320 (2 ^ 4 + 2 ^ 8 + 2 ^ 20 + 2 ^ 90 + 2 ^ 78)
def chained : State := withCore ready (fun k => { k with chains := List.replicate 31 0 ++ [chainWord] })
def chainForm (red nowr : Bool) : VCForm := ⟨3, 1, 2, 0, 0, 0, 8, 31, red, if red then 1 else 0, nowr⟩

theorem unwatched_chained : Unwatched chained 0 .v := by
  intro i p h w hw
  have e : executing chained 0 = some (0, plan0) := rfl
  rw [e] at h; cases h
  exact absurd hw (List.not_mem_nil)

theorem witness_v_chain :
    (∀ f ∈ [chainForm false false, chainForm true false, chainForm true true], f.legal = true
      ∧ chained.cores[0].chains[f.chain.toNat]? = some chainWord ∧ (Fmt.ofCode (chainEntry chainWord).fmtO) = some .binary32
      ∧ GroupRef.legal ⟨f.vd.toNat, Fmt.binary32.width, countOf f.count⟩ = true
      ∧ CanIssue chained 0 .v (chainUses f (chainEntry chainWord) .binary32)) ∧ Unwatched chained 0 .v := by
  refine ⟨?_, unwatched_chained⟩
  unfold CanIssue; decide +kernel
/-- 1.0 + 2.0 = 3.0 in lane 0, and RA1 takes it. -/
theorem test_v_chain : next (.vChain 0 { chainForm true false with count := 1 }) (withCore chained (fun k => { k with regs := { k.regs with
      v := (k.regs.v.set 1 0x3F800000).set 2 0x40000000 } }))
    (fun t => (t.cores[0].regs.v.getD 3 0).extractLsb' 0 32 == 0x40400000
      && (t.cores[0].ra01[(1 : Fin 2)].result fmtB32 false).1 == 0x40400000) = true := by decide +kernel

theorem witness_v_accumulators :
    (∀ e ∈ [(0x38, (⟨0, 56, 0, false, 1, 0, 1024, 1, false, 0, 0, false⟩ : VRForm)), (0x38, ⟨0, 0, 0, false, 0, 10, 4, 3, false, 0, 0, false⟩),
        (0x3B, ⟨31, 0, 0, false, 0, 0, 0, 1, true, 0, 0, false⟩), (0x3B, ⟨0, 0, 0, false, 0, 10, 0, 2, false, 0, 0, true⟩)],
      VRForm.legal e.1 e.2 = true ∧ (Fmt.ofCode e.2.fmt.toNat).isSome = true)
    ∧ (Fmt.ofCode 0).map (fun f => f.fp.isSome) = some true ∧ (Fmt.ofCode 10).map (fun f => f.fp.isNone) = some true
    ∧ CanIssue ready 0 .v [.v 56 8, .s 31] ∧ Unwatched ready 0 .v := by
  refine ⟨by decide, by decide, by decide, ?_, unwatched_ready _⟩
  unfold CanIssue; decide +kernel

theorem witness_v_extremes :
    (∀ op ∈ [0x39, 0x3A], ∀ e ∈ [(⟨31, 1, 0, false, 1, 10, 4, 0, false, 0, 0, false⟩ : VRForm), ⟨0, 1, 0, false, 0, 1, 4, 0, false, 0, 0, false⟩],
      VRForm.legal op e = true ∧ (Fmt.ofCode e.fmt.toNat).isSome = true)
    ∧ activeLanes ((operands ready 0 .v).mask 1) 4 = [] ∧ activeLanes ((operands ready 0 .v).mask 0) 4 ≠ []
    ∧ CanIssue ready 0 .v [.v 1 1, .s 31] ∧ Unwatched ready 0 .v := by
  refine ⟨by decide, by decide +kernel, by decide +kernel, ?_, unwatched_ready _⟩
  unfold CanIssue; decide +kernel

theorem witness_v_tile_axes :
    (∀ op ∈ [0x3C, 0x3D, 0x3E], ∀ e ∈ [(⟨0, 0, 7, true, 0, 0, 32, 0, false, 0, 0, false⟩ : VRForm),
        ⟨0, 0, 7, false, 0, 10, 64, 0, false, 0, 0, op == 0x3C⟩],
      VRForm.legal op e = true ∧ (Fmt.ofCode e.fmt.toNat).isSome = true)
    ∧ CanIssue ready 0 .v [.t 7, .v 0 1] ∧ Unwatched ready 0 .v := by
  refine ⟨by decide, ?_, unwatched_ready _⟩
  unfold CanIssue; decide +kernel

theorem witness_v_lane_moves :
    (∀ e ∈ [(0x40, (⟨4, 0, 0, false, 1, 10, 4, 0, false, 31, 0, false⟩ : VRForm)), (0x44, ⟨4, 0, 0, false, 0, 11, 4, 0, false, 31, 0, true⟩),
        (0x42, ⟨4, 0, 0, false, 0, 10, 4, 0, false, 31, 3, false⟩), (0x41, ⟨31, 4, 0, false, 0, 10, 4, 0, false, 0, 3, false⟩),
        (0x43, ⟨31, 0, 0, false, 7, 0, 0, 0, false, 0, 0, false⟩)],
      VRForm.legal e.1 e.2 = true ∧ (Fmt.ofCode e.2.fmt.toNat).isSome = true)
    ∧ CanIssue ready 0 .v [.v 4 1, .s 31] ∧ Unwatched ready 0 .v := by
  refine ⟨by decide, ?_, unwatched_ready _⟩
  unfold CanIssue; decide +kernel
/-- K0 has 4,096 active lanes. -/
theorem test_v_kcnt : next (.vKcnt 0 ⟨31, 0, 0, false, 0, 0, 0, 0, false, 0, 0, false⟩) ready (fun t => sOf t 31 == 4096) = true := by
  decide +kernel
theorem test_v_ins : next (.vIns 0 ⟨4, 0, 0, false, 0, 10, 4, 0, false, 1, 3, false⟩) (setS ready 1 0x123456789)
    (fun t => t.cores[0].regs.v.getD 4 0 == BitVec.ofNat 8192 (0x23456789 * 2 ^ 96)) = true := by decide +kernel

/-- A watch of bundle 100 for DEC_INEXACT. -/
def watch0 : WatchEntry := ⟨0, 0, 100, 100, 0, flagDecInexact, 1, 0⟩
def planW : Plan := { plan0 with img := { img0 with watches := [watch0] } }
def watched : State := withPlan ready planW

theorem witness_watch : watched.cores[0].plan = some 0 ∧ watched.plans[(0 : Fin 16)] = some planW ∧ planW.teardownCause = none
    ∧ planW.attempt = 0 ∧ Calm watched ∧ watch0 ∈ planW.img.watches ∧ watch0.cls = planW.cls
    ∧ watch0.planCore = watched.cores[0].planCore ∧ watch0.first ≤ watched.cores[0].bundle
    ∧ watched.cores[0].bundle ≤ watch0.last ∧ watch0.trigger &&& flagDecInexact ≠ 0
    ∧ watch0.from_ + planW.level watch0.watch < 2 ∧ watched.mod.state = .ready := by
  unfold Calm; decide +kernel


/-- The module starts, past step 6; core 0 holds nothing. -/
def beginning : State := { State.reset with mod := { State.reset.mod with state := .starting, startStep := 6 } }
theorem witness_v_plain :
    plainMode beginning 0 = true
    ∧ (∀ e ∈ [(0x01, (⟨60, 60, 31, 0, 7, 1, 0, 1024, false, true, 0⟩ : VEForm)), (0x02, ⟨0, 1, 2, 0, 0, 10, 0, 4, true, false, 0⟩)],
      (Fmt.ofCode e.2.fmt.toNat).isSome = true ∧ (e.2.dstFmt e.1).isSome = true
      ∧ ∀ w ∈ (Fmt.ofCode e.2.fmt.toNat).map Fmt.width,
          VEForm.legal e.1 { e.2 with count := BitVec.ofNat 12 (min (countOf e.2.count) (128 / w)) } = true) := by decide +kernel
/-- 1,024 lanes of FP16 asked for: eight are added. -/
theorem test_v_plain : next (.vAdd 0 ⟨60, 60, 31, 0, 0, 1, 0, 1024, false, false, 0⟩) beginning
    (fun t => t.cores[0].plain && (t.cores[0].regs.v.getD 61 0 == 0)) = true := by decide +kernel

/-! ### The M slot -/

/-- The check of `OwnElem` for a core whose plan declares no program and no read-only range. -/
def ownCheck (e : Elem) : Bool :=
  e.addr % e.n == 0 && decide (0 < e.n) && 64 % e.n == 0 && decide (baseOwn ≤ e.addr) && decide (e.addr + e.n ≤ baseOwn + sramBytes)

theorem ownElem_of_check {k : Core} {st : Bool} {e : Elem} (hk : k.planCore = 0) (hb : k.sramBad = [])
    (h : ownCheck e = true) : OwnElem plan0 k st e := by
  simp only [ownCheck, Bool.and_eq_true, beq_iff_eq, decide_eq_true_eq] at h
  obtain ⟨⟨⟨⟨h1, h2⟩, h3⟩, h4⟩, h5⟩ := h
  refine ⟨⟨0, [], 0, [], 0, 0, []⟩, by rw [hk]; rfl, h1, h2, h3, h4, h5, ?_, fun _ => .inl h4⟩
  rw [hb]; simp [anyBad]

theorem ownElems_of_check {k : Core} {st : Bool} {l : List Elem} (hk : k.planCore = 0) (hb : k.sramBad = [])
    (h : l.all ownCheck = true) : ∀ e ∈ l, OwnElem plan0 k st e :=
  fun e he => ownElem_of_check hk hb (List.all_eq_true.mp h e he)

/-- A1 at the last 16 KiB of own SRAM, A2 the stride −256, V2 the indices 0, 8, 16 and 24. -/
def moving : State :=
  withCore (setA (setA ready 1 (baseOwn + sramBytes - 16384)) 2 (2 ^ 48 - 256)) (fun k => { k with regs := { k.regs with
    v := k.regs.v.set 2 (BitVec.ofNat 8192 (8 * 2 ^ 32 + 16 * 2 ^ 64 + 24 * 2 ^ 96)) } })

theorem executing_moving : executing moving 0 = some (0, plan0) := rfl

theorem memoryIdle_moving : MemoryIdle moving plan0 0 (found moving 0 .m) := by
  unfold MemoryIdle; decide +kernel

/-- Moves of one 8-byte element to a whole group, at the edges of the fields. -/
theorem witness_m_loads :
    (∀ e ∈ [(0x01, (⟨60, 1, 0, 7, 3, 2, 0, 512, 0⟩ : MVForm)), (0x02, ⟨63, 1, 2, 0, 2, 0, 0, 4, 0⟩), (0x05, ⟨60, 1, 0, 0, 0, 0, 2, 1024, 0⟩)],
      MVForm.legal e.1 e.2 = true ∧ (mvElems e.1 e.2 (operands moving 0 .m)).all ownCheck = true)
    ∧ MGForm.legal 0x08 ⟨63, 2, 1, 0, 3, 0, false, 4, 0⟩ = true
    ∧ (mgElems ⟨63, 2, 1, 0, 3, 0, false, 4, 0⟩ (operands moving 0 .m)).all ownCheck = true
    ∧ CanIssue moving 0 .m [.v 60 4, .v 2 1] := by
  unfold CanIssue; decide +kernel
theorem witness_m_loads_elements :
    ∀ x ∈ mvElems 0x02 ⟨63, 1, 2, 0, 2, 0, 0, 4, 0⟩ (operands moving 0 .m), OwnElem plan0 (found moving 0 .m) false x :=
  ownElems_of_check rfl rfl (by decide +kernel)

theorem witness_m_scalar_tile :
    MVForm.legal 0x0C ⟨31, 1, 0, 0, 3, 0, 0, 0, 8⟩ = true ∧ (mvElems 0x0C ⟨31, 1, 0, 0, 3, 0, 0, 0, 8⟩ (operands moving 0 .m)).all ownCheck = true
    ∧ MVForm.legal 0x10 ⟨7, 1, 0, 0, 0, 0, 0, 0, 0⟩ = true ∧ (mvElems 0x10 ⟨7, 1, 0, 0, 0, 0, 0, 0, 0⟩ (operands moving 0 .m)).all ownCheck = true
    ∧ CanIssue moving 0 .m [.s 31, .t 7] := by
  unfold CanIssue; decide +kernel

/-- A1 at the core control window. -/
def atControl : State := setA ready 1 baseControl

theorem witness_m_control :
    executing atControl 0 = some (0, plan0) ∧ CanIssue atControl 0 .m [.s 31] ∧ MemoryIdle atControl plan0 0 (found atControl 0 .m)
    ∧ (found atControl 0 .m).issued = [] ∧ plan0.member < 2 ^ 14 ∧ plan0.members < 2 ^ 14 ∧ plan0.img.hdr.planCores < 2 ^ 10
    ∧ ∀ off ∈ [0x00, 0x08, 0x10, 0x18, 0x20, 0x98, 0xA0, 0xA8, 0xFFF8],
        MVForm.legal 0x0C ⟨31, 1, 0, 0, 3, 0, 0, 0, BitVec.ofNat 20 off⟩ = true ∧ off < controlBytes ∧ off % 8 = 0
        ∧ ((operands atControl 0 .m).getA 1 + (BitVec.ofNat 20 off).signExtend 48).toNat = baseControl + off := by
  refine ⟨rfl, ?_, ?_, rfl, by decide, by decide, by decide, by decide +kernel⟩
  · unfold CanIssue; decide +kernel
  · unfold MemoryIdle; decide +kernel

theorem witness_m_stores :
    (∀ e ∈ [(0x03, (⟨60, 1, 0, 7, 3, 2, 0, 512, 0⟩ : MVForm)), (0x04, ⟨63, 1, 2, 0, 2, 0, 0, 4, 0⟩), (0x06, ⟨60, 1, 0, 0, 0, 0, 2, 1024, 0⟩),
        (0x0D, ⟨31, 1, 0, 0, 0, 0, 0, 0, 1⟩), (0x0E, ⟨31, 1, 0, 0, 3, 0, 0, 0, 8⟩), (0x11, ⟨7, 1, 0, 0, 0, 0, 0, 0, 0⟩)],
      MVForm.legal e.1 e.2 = true ∧ (mvElems e.1 e.2 (operands moving 0 .m)).all ownCheck = true)
    ∧ MGForm.legal 0x09 ⟨63, 2, 1, 0, 3, 0, false, 4, 0⟩ = true
    ∧ CanIssue moving 0 .m [.v 60 4, .v 2 1, .s 31, .t 7] := by
  unfold CanIssue; decide +kernel
/-- The last byte of SRAM takes the low byte of S31, and the byte before it keeps its value. -/
theorem test_m_stx : next (.mStx 0 ⟨31, 1, 0, 0, 0, 0, 0, 0, 1⟩) (setS (setA ready 1 (baseOwn + sramBytes - 2)) 31 0x1234)
    (fun t => t.cores[0].sram == [(sramBytes - 1, 0x34)]) = true := by decide +kernel
/-- The addresses of the gather of 03: base 0x0000_4000_0000, indices shifted by 2; lane 4 is beyond the plan's pages. -/
theorem test_m_gath_addresses :
    ((mgElems ⟨8, 2, 3, 0, 2, 0, false, 5, 2⟩ { Regs.reset with
        a := Regs.reset.a.set 3 0x40000000
        v := Regs.reset.v.set 2 (BitVec.ofNat 8192 (0x10 * 2 ^ 32 + 0x100 * 2 ^ 64 + 0x1000 * 2 ^ 96 + 0x70000000 * 2 ^ 128)) }).map
          (fun e => e.addr))
      = [0x40000000, 0x40000040, 0x40000400, 0x40004000, 0x200000000] := by decide +kernel

theorem witness_m_scatter_adds :
    (∀ op ∈ [0x0A, 0x0B], ∀ f ∈ [(⟨63, 2, 1, 0, 3, 0, false, 4, 0⟩ : MGForm), ⟨63, 2, 1, 0, 2, 0, false, 4, 0⟩],
      MGForm.legal op f = true ∧ (mgElems f (operands moving 0 .m)).all ownCheck = true
      ∧ (mgElems f (operands moving 0 .m)).Pairwise (fun x y => x.addr + x.n ≤ y.addr ∨ y.addr + y.n ≤ x.addr))
    ∧ CanIssue moving 0 .m [.v 63 1, .v 2 1] := by
  unfold CanIssue; decide +kernel

/-- Far handle 63 of core 0 names place 5, job 1 and key 0x77. -/
def handled : State := withCore moving (fun k => { k with fh := k.fh.set 63 ⟨5, 1, 0x77⟩ })
def farOp0 : FarOp := ⟨0, 9, 0x18, 0, 0, 63, false, 5, 1, 0x77, 64, 1024, [], 0x87654321, 0, 100, some 4900000, 0⟩
/-- Core 0 waits for the reply of a far load. -/
def awaiting : State := withCore handled (fun k => { k with far := [farOp0] })

theorem witness_m_fences : CanIssue ready 0 .m [] ∧ (found ready 0 .m).far = [] ∧ (found ready 0 .m).moves = []
    ∧ (found ready 0 .m).copies = [] ∧ (MVForm.legal 0x14 ⟨15, 1, 15, 0, 0, 0, 0, 0xFFF, 0⟩) = true ∧ (found ready 0 .m).requests < 256
    ∧ CanIssue awaiting 0 .m [] ∧ (found awaiting 0 .m).far ≠ [] := by
  unfold CanIssue; decide +kernel

theorem witness_m_far : executing handled 0 = some (0, plan0) ∧ MemoryIdle handled plan0 0 (found handled 0 .m)
    ∧ (found handled 0 .m).fh[(63 : Fin 64)] = ⟨5, 1, 0x77⟩
    ∧ (∀ e ∈ [(0x18, (⟨63, 1, 63, 0, 0, 0, false, 255, 0x1FFFFF⟩ : MFForm)), (0x19, ⟨63, 1, 63, 0, 0, 0, false, 0, 0⟩),
        (0x1A, ⟨31, 1, 63, 4, 1, 30, true, 0, 0⟩), (0x1A, ⟨0, 1, 63, 0, 2, 31, false, 0, 0⟩), (0x1B, ⟨31, 1, 63, 0, 0, 0, false, 0, 0⟩)],
        MFForm.legal e.1 e.2 = true ∧ ((operands handled 0 .m).getA 1 + e.2.offs.signExtend 48).toNat < 2 ^ 42)
    ∧ CanIssue handled 0 .m [.v 63 1, .s 31, .s 30] := by
  refine ⟨rfl, ?_, by decide +kernel, by decide +kernel, ?_⟩
  · unfold MemoryIdle; decide +kernel
  · unfold CanIssue; decide +kernel

/-- A load of two elements from own SRAM into V63 is outstanding; a copy of 128 bytes from 0x1000 to the last 128. -/
def move0 : Move := ⟨7, 0x01, 63, 99, [⟨0, baseOwn + 8, 8, 0, 0⟩, ⟨1, baseOwn + 16, 8, 0, 64⟩], 1⟩
def copy0 : CopyOp := ⟨8, baseOwn + 0x1000, baseOwn + sramBytes - 128, 2, 15, 99, 3⟩
def loading : State := withCore ready (fun k => { k with moves := [move0], nextId := 9, sram := [(8, 0xAB)] })
def copying : State := withCore ready (fun k => { k with copies := [copy0], nextId := 9, sram := [(0x1000, 1), (0x107F, 2)] })

theorem witness_m_completions :
    (serving loading = true ∧ loading.cores[0].plan = some 0 ∧ loading.plans[(0 : Fin 16)] = some plan0
      ∧ loading.cores[0].moves = [move0] ∧ loading.cores[0].copies = [] ∧ loading.cores[0].far = []
      ∧ move0.op ∈ [0x01, 0x02, 0x05, 0x08] ∧ loading.cores[0].view = none
      ∧ (∀ e ∈ move0.elems, e.addr % e.n = 0 ∧ 8 * e.n ≤ 8192 - e.dst % 8192 ∧ move0.reg + e.dst / 8192 < 64
          ∧ planRead loading 0 (canonAddr loading.cores[0].planCore e.addr) e.n
              = .ok (if e.addr = baseOwn + 8 then [0xAB, 0, 0, 0, 0, 0, 0, 0] else [0, 0, 0, 0, 0, 0, 0, 0]))
      ∧ move0.elems.Pairwise (fun x y => x.dst + 8 * x.n ≤ y.dst))
    ∧ (serving copying = true ∧ copying.cores[0].plan = some 0 ∧ copying.cores[0].copies = [copy0] ∧ copying.cores[0].moves = []
      ∧ copying.cores[0].far = [] ∧ copying.cores[0].sramBad = [] ∧ memWf 0 copying.cores[0].sram = true
      ∧ planCorePhys copying plan0 copying.cores[0].planCore = some 0 ∧ copying.cores[0].planCore < 512
      ∧ baseOwn ≤ copy0.src ∧ baseOwn ≤ copy0.dst ∧ copy0.src % 64 = 0 ∧ copy0.dst % 64 = 0
      ∧ copy0.src + 64 * copy0.blocks ≤ baseOwn + sramBytes ∧ copy0.dst + 64 * copy0.blocks ≤ baseOwn + sramBytes
      ∧ copy0.src + 64 * copy0.blocks ≤ copy0.dst) := by decide +kernel
theorem test_move_complete : next (.moveComplete 0 7 [] []) loading
    (fun t => t.cores[0].regs.v.getD 63 0 == 0xAB && t.cores[0].moves == []) = true := by decide +kernel
theorem test_copy_complete : next (.copyComplete 0 8 [] []) copying
    (fun t => t.cores[0].sram == [(0x1000, 1), (0x107F, 2), (sramBytes - 128, 1), (sramBytes - 1, 2)]
      && t.cores[0].dc[(15 : Fin 16)] == 1) = true := by decide +kernel

/-- M.LDV V60 from A1 of 512 elements of 8 bytes, in the M slot of bundle 100 beside C.NOP: the same load twice over. -/
def aheadForm : MVForm := ⟨60, 1, 0, 0, 3, 2, 0, 512, 0⟩
def aheadWord : BitVec 64 := 0b00000001_111100_0001_0000_000_011_10_00_001000000000_00000000000000000000
def programmed : State :=
  withCore moving (fun k => { k with sram := memWrite 0 k.sram (32 * 100 + 24) (leBytes 8 aheadWord.toNat) })
/-- The load has been issued early: its 512 values are held. -/
def held : State :=
  withCore moving (fun k => { k with ahead := { k.ahead with
    buffer := [⟨k.closed, 0x01, aheadForm, List.replicate 512 7, none⟩] } })

theorem witness_run_ahead :
    (programmed.cores[0].plan = some 0 ∧ programmed.plans[(0 : Fin 16)] = some plan0 ∧ programmed.cores[0].run = .running
      ∧ plan0.teardownCause = none ∧ usable programmed.coreMap[(0 : CoreId)] = true ∧ serving programmed = true
      ∧ MemoryIdle programmed plan0 0 programmed.cores[0] ∧ programmed.cores[0].slotM = false
      ∧ programmed.cores[0].sramBad = []
      ∧ decodeSlot .c 0 (programmed.cores[0].slotWord .c) = some (.cNop 0)
      ∧ decodeSlot .m 0 (programmed.cores[0].slotWord .m) = some (.mLdv 0 aheadForm)
      ∧ aheadForm.ab.toNat ∉ programmed.cores[0].fromS)
    ∧ (mvElems 0x01 aheadForm programmed.cores[0].regs).all ownCheck = true
    ∧ (aheadForm.legal 0x01 = true ∧ CanIssue held 0 .m (mvUses 0x01 aheadForm)
      ∧ (found held 0 .m).ahead.buffer = [⟨(found held 0 .m).closed, 0x01, aheadForm, List.replicate 512 7, none⟩]
      ∧ (mvElems 0x01 aheadForm (operands held 0 .m)).length = 512 ∧ (found held 0 .m).openId ≤ (found held 0 .m).nextId) := by
  refine ⟨?_, by decide +kernel, ?_⟩
  · unfold MemoryIdle; decide +kernel
  · unfold CanIssue; decide +kernel

/-! ### The host link, transfers, counters and the management port -/

def attn0 : AttnRec := ⟨255, 3, 0, 100⟩
/-- An attention record with the highest number, and a plan with one tally record. -/
def noticed : State := withPlan { conf with host := { conf.host with attn := [attn0] } }
  { plan0 with history := [⟨1, 2, 3, 0, 0, 1, 0⟩] }

theorem witness_host_reads : Asks noticed req owner0 ∧ Calm noticed
    ∧ (statusBlock noticed 0x08 575).isSome = true ∧ (statusBlock noticed 0x11 255).isSome = true
    ∧ roleReads noticed owner0 0x07 = true ∧ (∃ b ∈ List.range 0x12, roleReads noticed operator0 b = false)
    ∧ noticed.host.attn.findIdx? (fun e => e.seq == 511 % 256) = some 0
    ∧ owner0.role ≠ 1 ∧ owner0.role ≤ 2 ∧ historyOf noticed 0 0 ≠ [] := by
  unfold Asks Calm; decide +kernel
/-- A heartbeat is answered to the session with its tag and STATUS 0. -/
theorem test_heartbeat : next (.heartbeat req) conf (fun t => match t.out with
    | [.host 1 0x81 77 w []] => w % 2 ^ 16 == 0 && t.host.lastBell == 5000000
    | _ => false) = true := by decide +kernel

theorem witness_host_sets : Asks conf req owner0 ∧ Calm conf ∧ owner0.role = 0 ∧ conf.draining = none
    ∧ (∀ w ∈ [600, 1500], capMin conf ≤ w ∧ w ≤ capMax conf) ∧ (∀ w ∈ [599, 1501], ¬ (capMin conf ≤ w ∧ w ≤ capMax conf)) := by
  unfold Asks Calm; decide +kernel
/-- A restart that waits for the journal's acknowledgement up to record 9; an owner, an operator and an auditor. -/
def leaving : State := { conf with draining := some ⟨1, 4000000, some (9, 5000000)⟩ }
theorem witness_host_sets_roles :
    mayAck conf owner0 = true ∧ mayAck conf operator0 = false ∧ operator0.role ≠ 0 ∧ ¬ (operator0.role = 0 ∨ operator0.role = 2)
    ∧ (∀ d n b, conf.draining = some d → d.shutdown = some (n, b) → 9 < n)
    ∧ Asks leaving req owner0 ∧ Calm leaving ∧ mayAck leaving owner0 = true
    ∧ leaving.draining = some ⟨1, 4000000, some (9, 5000000)⟩
    ∧ (∀ n ∈ [12, 15], 12 ≤ n ∧ n < 16) ∧ 8 < 2 ^ 16 := by
  refine ⟨by decide +kernel, by decide +kernel, by decide, by decide, fun d n b h => (by cases h), ?_, ?_, by decide +kernel, rfl, by decide, by decide⟩
  · unfold Asks; decide +kernel
  · unfold Calm; decide +kernel
theorem test_set_cap : (∀ w ∈ [600, 1500], next (.setCap req w) conf (fun t => t.adm.capW == w) = true)
    ∧ next (.setCap req 1501) conf (fun t => t.adm.capW == conf.adm.capW) = true := by decide +kernel

/-- SHA-512 of the empty string and of "abc" (FIPS 180-4's example). -/
theorem test_sha512 : beNat (sha512 [0x61, 0x62, 0x63]) / 2 ^ 448 = 0xDDAF35A193617ABA ∧ (sha512 []).length = 64 := by
  decide +kernel

/-- The owner slot 3 holds the digest of the key block [1]. -/
def owned : State := { conf with fuses := { conf.fuses with slots := conf.fuses.slots.set 3 (1, digestOf [1]) } }
def shake0 : Shake := ⟨9, 0, [1], [2], [3]⟩
def shaking : State := { owned with host := { owned.host with shakes := [shake0] } }

theorem witness_hello : Calm owned ∧ owned.host.up = true ∧ serving owned = true ∧ owned.fuses.keysErased = false
    ∧ principalOf owned 0 (digestOf [1]) = some none := by unfold Calm; decide +kernel
/-- Whether the module's secret exponent opens a ciphertext is the transport key's, which the model leaves open; where it
does and the signature holds, every other hypothesis is met, at the last free session. -/
theorem witness_key (cipher sig z : Bytes)
    (_ : oaepDecrypt (Config.transportKey shaking.mod.startCount).1 (Config.transportPrivate shaking.mod.startCount) cipher = some z)
    (_ : rsaVerify [1] (sha512 ([2] ++ [3] ++ cipher ++ leBytes 64 (transportDigest shaking.mod.startCount))) sig = true) :
    Calm shaking ∧ shaking.host.up = true ∧ serving shaking = true ∧ shaking.fuses.keysErased = false
    ∧ shaking.host.shakes.find? (fun k => k.tag == 9) = some shake0 ∧ principalOf shaking 0 (digestOf [1]) = some none
    ∧ shaking.host.sessions.length < 64 := by unfold Calm; decide +kernel
/-- A module whose host link is down, past its last start step. -/
def linkDown : State := { conf with host := { conf.host with up := false, sessions := [] } }
theorem witness_sessions :
    (Asks conf req owner0 ∧ owner0.transfer = none)
    ∧ (findSession conf 2 = some operator0 ∧ operator0.transfer = none ∧ operator0.lastBell + 1000000 ≤ conf.bell)
    ∧ (linkDown.host.up = false ∧ serving linkDown = true ∧ linkDown.mod.startStep = 10 ∧ Calm linkDown)
    ∧ (conf.host.up = true ∧ conf.host.lastBell + 100000 ≤ conf.bell ∧ conf.host.sessions.length ≤ 64
        ∧ ∀ k ∈ conf.host.sessions, k.transfer = none) := by
  unfold Asks Calm; decide +kernel
theorem test_idle_session : next (.sessionIdleTimeout 2) conf (fun t => t.host.sessions.map (·.id) == [1]) = true
    ∧ next (.sessionIdleTimeout 1) conf (fun t => t.host.sessions.map (·.id) == [1, 2]) = true := by decide +kernel

/-- A flash write of four bytes to region 4 of device 1, all of them in. -/
def transfer0 : Transfer := { Transfer.start 3 1 4 4 with data := memWrite 0 [] 0 [1, 2, 3, 4], got := [(0, 4)] }
def flashing : State := transferring conf transfer0
/-- A plan that drains and has nothing left to run. -/
def idle0 : State := withPlan conf { plan0 with draining := true, jobId := 0, launched := false }
def draining0 : Draining := ⟨1, 5000000, none⟩

theorem witness_transfers :
    (Asks conf req owner0 ∧ owner0.role = 0 ∧ owner0.transfer = none
      ∧ regionSize 8 = 0x0CFFFC00 ∧ 0 ≤ freeHbmBytes conf)
    ∧ (Asks flashing req { owner0 with transfer := some transfer0 } ∧ Calm flashing ∧ transfer0.target = 3 ∧ transfer0.failed = none
      ∧ transfer0.device = (1 : Fin 2).val ∧ transfer0.whole = true ∧ typeFits transfer0.region transfer0.bytes = true
      ∧ 0 + [(1 : Byte), 2, 3, 4].length ≤ transfer0.total)
    ∧ (ready.plans[(0 : Fin 16)] = some plan0 ∧ Asks ready req owner0 ∧ Calm ready ∧ plan0.draining = false
      ∧ ∀ r ∈ plan0.requests, r.slot.isSome = true)
    ∧ (idle0.plans[(0 : Fin 16)] = some { plan0 with draining := true, jobId := 0, launched := false } ∧ Calm idle0
      ∧ plan0.requests = [] ∧ plan0.teardownCause = none ∧ ∀ r ∈ plan0.runs, r.ended = true ∧ r.endBell ≤ idle0.bell)
    ∧ (Asks conf req owner0 ∧ conf.draining = none ∧ (∀ i : Fin 16, conf.plans[i] = none) ∧ conf.reeve.role ≠ 1)
    ∧ (serving { conf with draining := some draining0 } = true ∧ draining0.shutdown = none)
    ∧ (5000000 + 10000000000 ≤ ({ conf with draining := some ⟨1, 0, some (3, 5000000)⟩, bell := 10005000000 } : State).bell) := by
  unfold Asks Calm; decide +kernel
theorem test_bulk_end : next (.bulkEnd req) flashing
    (fun t => memRead 0xFF t.flash[(1 : Fin 2)] (regionBase 4) 5 == [1, 2, 3, 4, 0xFF] && t.flash[(0 : Fin 2)] == []) = true := by
  decide +kernel

/-- A counter of core 575 one below its end, enabled, at event 0x040. -/
def nearEnd : Counter := ⟨0x040, true, false, BitVec.ofNat 48 (2 ^ 48 - 2)⟩
def stuck : Counter := ⟨0x040, true, true, BitVec.allOnes 48⟩
theorem witness_counters :
    (Asks conf req owner0 ∧ Calm conf ∧ owner0.role = 0 ∧ conf.counting.freeze = none
      ∧ (counterRef 1 575 7).isSome = true ∧ (counterRef 2 255 3).isSome = true ∧ (counterRef 3 31 3).isSome = true
      ∧ (counterRef 4 1 7).isSome = true ∧ (counterRef 5 0 15).isSome = true ∧ 0x143 ∈ eventsOf 1 ∧ 0x45F ∈ eventsOf 5
      ∧ counterRef 1 576 0 = none ∧ counterRef 5 1 0 = none
      ∧ (∀ r ∈ [counterRef 1 575 7, counterRef 3 31 3], (r.map (fun e => (getCounter conf e).enabled)) = some false))
    ∧ (nearEnd.enabled = true ∧ nearEnd.ovf = false ∧ nearEnd.value.toNat < 2 ^ 48 - 1 ∧ nearEnd.value.toNat + 0 < 2 ^ 48 - 1
      ∧ 2 ^ 48 - 1 ≤ nearEnd.value.toNat + 1)
    ∧ (stuck.ovf = true ∧ stuck.value = BitVec.allOnes 48 ∧ stuck.event.toNat ∉ untracked)
    ∧ (counterRef 1 575 7).map (fun r => (getCounter conf r).event.toNat ≠ 0x405) = some True
    ∧ (conf.bell + 100000 ≤ 5100000 ∧ 1005000000 ≤ conf.bell + 1000000000) := by
  refine ⟨?_, by decide +kernel, by decide +kernel, ?_, by decide +kernel⟩
  · unfold Asks Calm; decide +kernel
  · simp [counterRef]; decide +kernel
theorem test_counter_sticks : (nearEnd.count 0x040 1).ovf = true ∧ (nearEnd.count 0x040 1).value = BitVec.allOnes 48
    ∧ (nearEnd.count 0x041 1) = nearEnd ∧ stuck.count 0x040 5 = stuck := by decide +kernel
/-- A due freeze, a snapshot, and a due window. -/
def frozen0 : State := { conf with counting := { conf.counting with freeze := some 5000000, snapshot := some (9, List.replicate 8096 0) } }
def windowed : State := { conf with counting := { conf.counting with bwNext := some (1000, 5000), bwNumber := 5, bwWindow := 1000000 } }
theorem witness_windows : serving frozen0 = true ∧ Calm frozen0 ∧ frozen0.counting.freeze = some 5000000 ∧ 5000000 ≤ frozen0.bell
    ∧ frozen0.counting.snapshot = some (9, List.replicate 8096 0) ∧ 8095 + 1 ≤ (List.replicate 8096 (0 : BitVec 64)).length
    ∧ serving windowed = true ∧ Calm windowed ∧ windowed.counting.bwNext = some (1000, 5000) ∧ 1000 * 5000 ≤ windowed.bell
    ∧ windowed.bell < (windowed.counting.bwNumber + 1) * windowed.counting.bwWindow := by
  unfold Calm; decide +kernel

/-- The module of `conf` with its control rail up. -/
def railed : State := { conf with power := { conf.power with rails := conf.power.rails.set 14 ⟨1800, false⟩ } }
def staging0 : State := { railed with mgmt := { railed.mgmt with staging := some (2, { transfer0 with region := 2 }) } }
theorem witness_mgmt : Calm railed ∧ railed.power.inputOk = true ∧ railed.power.rails[(14 : Fin 16)].mv ≠ 0 ∧ serving railed = true
    ∧ railed.mod.startStep = 10 ∧ (∀ e ∈ railed.fuses.slots.toList, e.1 = 0) ∧ railed.mgmt.lastRestart = none
    ∧ railed.draining = none ∧ (∀ i : Fin 16, railed.plans[i] = none) ∧ railed.reeve.role ≠ 1
    ∧ (∀ e ∈ railed.fuses.slots.toList, e.1 ≠ 1) ∧ railed.mgmt.staging = none
    ∧ ¬ (∀ e ∈ ({ owned with power := railed.power } : State).fuses.slots.toList, e.1 = 0)
    ∧ Calm staging0 ∧ staging0.mgmt.staging = some (2, { transfer0 with region := 2 })
    ∧ typeFits 2 ({ transfer0 with region := 2 } : Transfer).bytes = true ∧ ({ transfer0 with region := 2 } : Transfer).whole = true := by
  unfold Calm; decide +kernel
theorem test_get_cap : next (.getCap true) railed (fun t => t.out == [.mgmt 0 (leBytes 2 railed.adm.capW ++ leBytes 2 600 ++ leBytes 2 1500)]) = true
    ∧ next (.getCap false) railed (fun t => t.out == []) = true := by decide +kernel

/-! ### The domain and its jobs -/

/-- A module that has joined, with `p` loaded; its primary is place 9. -/
def member (p : Plan) : State :=
  { withPlan conf p with domain := { conf.domain with joined := true, primary := 9, standby := 9 }, controlSeq := [(1, 7)] }
def fresh : Plan := { plan0 with jobId := 0, jobState := .none, launched := false, launchBell := none, stepOpen := false, step := 0 }
/-- INSTALL of job 1 has been acted on and answered; another has come since. -/
def answered : State := { member fresh with
  acted := [{ reeveMsg (member fresh) 1 0x10 3 false with answer := some ⟨[9], 0x11, 1, 6, 0, []⟩ }] }
def armed (held : Bool) (l : Nat) : Plan :=
  { plan0 with jobState := .armed, launchBell := some l, goHeld := held, launched := false, stepOpen := false, step := 0 }

theorem witness_members_launch :
    (Calm conf ∧ serving conf = true ∧ conf.domain.joined = false ∧ conf.autostart.stage = 0)
    ∧ (Calm (member fresh) ∧ serving (member fresh) = true ∧ (member fresh).domain.joined = true
      ∧ planOfDigest (member fresh) fresh.digest = some 0 ∧ (member fresh).plans[(0 : Fin 16)] = some fresh ∧ fresh.jobId = 0
      ∧ fresh.draining = false ∧ fresh.filled = true ∧ fresh.regionEntries = [] ∧ Fresh (member fresh) (reeveMsg (member fresh) 1 0x10 3 false))
    ∧ (answered.acted = [{ reeveMsg answered 1 0x10 3 false with answer := some ⟨[9], 0x11, 1, 6, 0, []⟩ }]
      ∧ Calm answered ∧ serving answered = true ∧ Fresh answered (reeveMsg answered 1 0x10 4 false))
    ∧ (let p : Plan := { fresh with jobId := 1, jobState := .installed }
       Calm (member p) ∧ planOfJob (member p) 1 = some (0, p) ∧ p.members = 1 ∧ p.treeA = ⟨none, [], [], false⟩
         ∧ p.treeB = ⟨none, [], [], false⟩ ∧ p.answers = [] ∧ p.launchBell = none ∧ p.jobState = .installed ∧ twinB (member p) = false ∧ (member p).domain.joined = true
         ∧ tearing (member p) = false ∧ Fresh (member p) (reeveMsg (member p) 1 0x12 9 true))
    ∧ (∀ l ∈ [5050000, 5049999], planOfJob (member (armed false l)) 1 = some (0, armed false l)
        ∧ (armed false l).launchBell = some l ∧ (armed false l).jobState = .armed ∧ ((armed false l).node false).children = []
        ∧ ((armed false l).node true).children = [] ∧ Calm (member (armed false l)) ∧ serving (member (armed false l)) = true
        ∧ Fresh (member (armed false l)) (reeveMsg (member (armed false l)) 1 0x16 9 false))
    ∧ ((member (armed true 5000000)).plans[(0 : Fin 16)] = some (armed true 5000000) ∧ (armed true 5000000).goHeld = true
        ∧ 5000000 ≤ (member (armed true 5000000)).bell ∧ (armed true 5000000).img.services = [])
    ∧ ((member (armed false 4000000)).plans[(0 : Fin 16)] = some (armed false 4000000) ∧ (armed false 4000000).goHeld = false
        ∧ 4000000 + 1000000 ≤ (member (armed false 4000000)).bell)
    ∧ (let s : State := { member fresh with mod := { (member fresh).mod with state := .stopped } }
       s.mod.state = .stopped ∧ Fresh s (reeveMsg s 1 0x12 0 false)) := by
  unfold Calm Fresh; decide +kernel
/-- A second INSTALL is answered as the first was. -/
theorem test_install_again : next (.install ⟨3, 1⟩ 0 1 (some 0) [5] [] [] [] false) answered
    (fun t => t.out == [.control ⟨[9], 0x11, 1, 6, 0, []⟩] && t.plans == answered.plans) = true := by decide +kernel
theorem test_launch : next (.launch 0) (member (armed true 5000000)) (fun t => (t.plans[(0 : Fin 16)]).map (·.jobState) == some .running
    && t.out == [.control ⟨[9], 0x17, 1, 7, 0, []⟩]) = true
    ∧ next (.launch 0) (member (armed true 5000001)) (fun t => t.out == [] && (t.plans[(0 : Fin 16)]).map (·.jobState) == some .armed) = true := by decide +kernel
theorem test_armed_timeout : next (.armedTimeout 0) (member (armed false 4000001)) 
    (fun t => t.out == [] && (t.plans[(0 : Fin 16)]).map (·.jobState) == some .armed) = true := by
  decide +kernel

/-- The double tree of six members (the example of 12): parents in trees A and B, and both roots. -/
theorem test_trees : (List.range 6).map (treeParent false 6) = [some 1, some 3, some 1, none, some 5, some 3]
    ∧ (List.range 6).map (treeParent true 6) = [some 2, some 0, none, some 4, some 2, some 0]
    ∧ treeChildren false 6 5 = [4] := by decide +kernel
/-- The example of 13: sixteen modules on four trays of one rack with the reeve in that rack. -/
theorem test_control_bound : controlBound 0 (List.range 16) = 1550 ∧ harvestBound (List.range 16) = 2100 := by decide +kernel

/-- Job 1 after its TEARDOWN, and in its wipe. -/
def fenced : Plan := { plan0 with jobState := .fenced, teardownCause := some 0x5001, stepOpen := false }
def wiping : Plan := { fenced with jobState := .wiping }
theorem witness_members_tear_down :
    (Calm ready ∧ serving ready = true ∧ planOfJob ready 1 = some (0, plan0) ∧ plan0.teardownCause = none
      ∧ ready.cores[0].plan = some 0 ∧ ready.cores[575].plan ≠ some 0 ∧ plan0.members ≤ 1
      ∧ Fresh ready (reeveMsg ready 1 0x21 5 false) ∧ planOfJob ready 2 = none ∧ Fresh ready (reeveMsg ready 2 0x23 5 false))
    ∧ (let s := withPlan ready fenced
       Calm s ∧ serving s = true ∧ s.plans[(0 : Fin 16)] = some fenced ∧ fenced.requests = [] ∧ fenced.jobId ≠ 0
         ∧ ∀ k ∈ planCores s 0, k.moves = [] ∧ k.copies = [])
    ∧ (let s := withPlan ready wiping
       s.plans[(0 : Fin 16)] = some wiping ∧ wiping.jobState = .wiping ∧ s.reforming = [] ∧ memWf 0 s.hbm = true)
    ∧ (6 ≠ cfgPlace conf ∧ Calm conf ∧ serving conf = true) := by
  unfold Calm Fresh; decide +kernel
/-- The wipe zeroes the plan's page 0 and its core's SRAM, and leaves page 1. -/
theorem test_wipe : (let t := wipePlan { withCore (withPlan ready wiping) (fun k => { k with sram := [(5, 1)] }) with
      hbm := [(7, 1), (2 ^ 21 - 1, 2), (2 ^ 21, 3)] } 0 wiping
    t.hbm == [(2 ^ 21, 3)] && t.cores[0].sram == []) = true := by decide +kernel

def job0 : ReeveJob := ⟨1, 0, [5], [5], 600, .installing, 0, [], [], [], [], none, 0, [], [], [], 0⟩
def going : ReeveJob := { job0 with phase := .going, launch := 5000000, installed := [5] }
def view0 : JobView := ⟨⟨1, 600, false, 0, 1, [], []⟩, true, true, [], true, 0, [], none, none⟩
/-- The primary reeve with the jobs `l`, place 5 joined. -/
def reeve (l : List ReeveJob) : State :=
  { conf with
    cfg := memWrite 0 conf.cfg 0x20 (leBytes 16 (2 * 2 ^ 26 + 5 * 2 ^ 40 + 6 * 2 ^ 62))
    reeve := { conf.reeve with role := 1, jobs := l, joined := [(5, 0, 512)] }
    domain := ⟨true, true, 5, 6⟩
    controlSeq := [(1, 7)] }
/-- The same of one side of a twin, whose other side's primary is place 700. -/
def twinned (sideB : Bool) (l : List ReeveJob) : State :=
  let word := 2 * 2 ^ 26 + 5 * 2 ^ 40 + 6 * 2 ^ 62 + 2 ^ 19 + sideB.toNat * 2 ^ 18 + 700 * 2 ^ 84
  { reeve l with cfg := memWrite 0 conf.cfg 0x20 (leBytes 16 word) }

theorem witness_reeve_starts_jobs :
    (Calm (reeve []) ∧ serving (reeve []) = true ∧ (reeve []).reeve.role = 1 ∧ (∀ e ∈ (reeve []).reeve.joined, e.1 ≠ 7)
      ∧ (reeve []).reeve.joined.length < cfgDomainSize (reeve []) ∧ Asks (reeve []) req owner0 ∧ owner0.role = 0
      ∧ Fresh (reeve []) ⟨7, 0, 0x01, 0, false, none⟩)
    ∧ (job0.phase = .installing ∧ job0.holders = [5] ∧ job0.installed = [] ∧ job0.busy = none ∧ (reeve [job0]).reeve.waits = []
      ∧ Calm (reeve [job0]) ∧ serving (reeve [job0]) = true)
    ∧ (cfgTwin (reeve []) = false ∧ (reeve []).bell + 200000 ≤ 5200000)
    ∧ (5200000 ≤ (reeve []).bell + 200000)
    ∧ (going.reports = [] ∧ going.places.length = 1)
    ∧ (let j : ReeveJob := { job0 with phase := .arming, launch := 5200000 }
       j.busy = none ∧ cfgTwin (reeve [j]) = false ∧ (reeve [j]).bell + 200000 ≤ j.launch ∧ twinB (twinned false [j]) = false
         ∧ cfgTwin (twinned false [j]) = true)
    ∧ (let j : ReeveJob := { job0 with phase := .installed }
       twinB (twinned true [j]) = true ∧ (twinned true [j]).reeve.jobs = [j] ∧ j.busy = none ∧ Calm (twinned true [j])
         ∧ serving (twinned true [j]) = true ∧ (twinned true [j]).reeve.role = 1 ∧ cfgTwinPrimary (twinned true [j]) = 700)
    ∧ (going.reports.length < going.places.length ∧ going.launch + 1000000 + going.boundA ≤ 6000600) := by
  unfold Asks Calm Fresh; decide +kernel
theorem find_first (n : Nat) (f : Nat → Bool) (h : f 1 = true) : ((List.range (n + 1)).map (· + 1)).find? f = some 1 := by
  rw [List.range_succ_eq_map]; simp [h]
theorem freeJobId_of {s : State} {l : List Nat} (h : s.reeve.jobs = []) (n : lapses s 1 = false) (m : 1 ∉ l) :
    freeJobId s l = some 1 := by
  have k : ¬ 4096 ≤ 0 := by decide
  simp only [freeJobId, h, List.length_nil, if_neg k]
  exact find_first 65534 _ (by simp [n, m])
/-- A plan of one member whose only region is page 0 of that member. -/
def planJ : Plan := { fresh with digest := 0x55 }
/-- This module at place 5 is the one member: a place that has not joined is refused, and a plan that it holds starts; side
B of a twin takes the id with which side A asks, or refuses it where a member has not joined. -/
theorem witness_job_start : startRefusal (reeve []) 0x55 [9] view0 = some 0x3017
    ∧ startRefusal (withPlan (reeve []) planJ) 0x55 [5] view0 = none ∧ startId (withPlan (reeve []) planJ) view0 = some 1
    ∧ view0.fromA = none ∧ 0x3017 < 2 ^ 16 := by
  have f : ∀ s : State, s.reeve.jobs = [] → lapses s 1 = false → cfgTwin s = false → startId s view0 = some 1 := fun s h n c => by
    unfold startId; rw [show view0.fromA = none from rfl]
    simp only [c]; exact freeJobId_of h n (by simp)
  refine ⟨?_, ?_, f _ rfl (by decide +kernel) (by decide +kernel), rfl, by decide⟩
  · unfold startRefusal; simp only [List.mergeSort_singleton, f (reeve []) rfl (by decide +kernel) (by decide +kernel)]; decide +kernel
  · unfold startRefusal
    simp only [List.mergeSort_singleton, f (withPlan (reeve []) planJ) rfl (by decide +kernel) (by decide +kernel)]; decide +kernel
theorem witness_job_start_twin : twinB (twinned true []) = true
    ∧ startRefusal (withPlan (twinned true []) planJ) 0x55 [5] { view0 with fromA := some 65535 } = none
    ∧ startRefusal (twinned true []) 0x55 [9] { view0 with fromA := some 65535 } = some 0x3017 := by
  refine ⟨by decide +kernel, ?_, ?_⟩
  all_goals unfold startRefusal; simp only [List.mergeSort_singleton]; decide +kernel

def waits0 : ControlWait := ⟨[5], 0x10, 1, 6, 0, [], 4980000, [5]⟩
theorem witness_reeve_ends_jobs :
    (Asks (reeve [going]) req owner0 ∧ Calm (reeve [going]) ∧ going.phase ≠ .teardown ∧ going.phase ≠ .removing)
    ∧ (let j : ReeveJob := { going with phase := .teardown }
       j.places = [5] ∧ j.done = [] ∧ j.busy = none ∧ (reeve [j]).reeve.jobs = [j] ∧ serving (reeve [j]) = true)
    ∧ (let j : ReeveJob := { going with phase := .removing }
       j.holders = [5] ∧ (reeve [j]).reeve.jobs = [j])
    ∧ (let s : State := { reeve [] with reeve := { (reeve []).reeve with lapsing := [(1, 4900000)], waits := [waits0], hasStandby := true, lastBeat := 4900000 } }
       (∀ e ∈ s.reeve.lapsing, e.1 = 1 → e.2 + 100000 ≤ s.bell) ∧ s.reeve.waits = [waits0] ∧ waits0.sent + 20000 ≤ s.bell
         ∧ waits0.msg ≠ 0x12 ∧ waits0.msg ≠ 0x16 ∧ waits0.msg ≠ 0x18 ∧ s.reeve.hasStandby = true
         ∧ s.reeve.lastBeat + 100000 ≤ s.bell ∧ serving s = true)
    ∧ (let s : State := { reeve [] with reeve := { (reeve []).reeve with role := 2, lastBeat := 4700000 } }
       s.reeve.role = 2 ∧ s.reeve.lastBeat + 300000 ≤ s.bell ∧ serving s = true)
    ∧ (going.cause = 0 ∧ cfgTwinSideB (reeve [going]) = false) := by
  unfold Asks Calm; decide +kernel
theorem test_job_stop : next (.jobStop req 1) (reeve [going]) (fun t => match t.out with
    | [.control ⟨[5], 0x21, 1, 7, 0x7003, []⟩, .host 1 0xAA 77 w []] => w % 2 ^ 16 == 0
    | _ => false) = true := by decide +kernel

/-! ### Fetches and the fabric -/

/-- Device 1 holds a resident plan image of three bytes. -/
def resident0 : State :=
  { conf with
    domain := { conf.domain with joined := true }
    flash := conf.flash.set 1 (memWrite 0xFF (memWrite 0xFF [] 0x03000000 (leBytes 16 (3 * 2 ^ 32 + 2 ^ 64))) 0x03000400 [7, 8, 9]) }
theorem test_resident : residentPlan resident0 (digestOf [7, 8, 9]) = some [7, 8, 9] := by decide +kernel

def fetched (s : State) (x : Transfer) (stage : Nat) : State :=
  { s with autostart := { s.autostart with next := 15, stage := stage, fetch := some (9, x, 4000000), readyBell := 0 }, allowed := [(0, 0)] }
def late : State := { conf with bell := 60000000000, autostart := { conf.autostart with next := 15, stage := 1, readyBell := 0 } }

theorem witness_fetches :
    (Calm resident0 ∧ serving resident0 = true ∧ resident0.domain.joined = true ∧ planOfDigest resident0 5 = none)
    ∧ (let s := member fresh
       s.domain.joined = true ∧ planOfDigest s fresh.digest = some 0 ∧ s.plans[(0 : Fin 16)] = some fresh ∧ fresh.packages = [])
    ∧ (let x := Transfer.start 1 0 0 4
       let s := fetched conf x 1
       s.autostart.fetch = some (9, x, 4000000) ∧ s.autostart.next = 15 ∧ Transfer.whole { x with total := 4 } = false ∧ Calm s
         ∧ serving s = true)
    ∧ (let s := { fetched conf (Transfer.start 1 0 0 4) 1 with bell := 1004000000 }
       4000000 + 1000000000 ≤ s.bell ∧ serving s = true)
    ∧ (let s := fetched (member fresh) (Transfer.start 2 0 0 0) 2
       s.autostart.stage = 2 ∧ s.plans[(0 : Fin 16)] = some fresh ∧ autoDigest s = some fresh.digest ∧ weightsPlan s fresh.digest = some 0)
    ∧ (late.autostart.stage ≠ 0 ∧ late.autostart.fetch = none ∧ late.domain.joined = false
        ∧ late.autostart.readyBell + 60000000000 ≤ late.bell ∧ late.autostart.next = 15 ∧ Calm late ∧ serving late = true) := by
  unfold Calm; decide +kernel

/-- Port 31 is up; `q` is its state besides. -/
def linked (q : Port → Port) : State :=
  { conf with ports := conf.ports.set 31 (q { Port.reset with state := 2, width := 3, secure := true, credits := .replicate 3 64, peerPlace := 6 }) }
def frame0 (typ cls : Nat) (content : Bytes) : Frame := ⟨1, 5, 6, BitVec.ofNat 4 typ, BitVec.ofNat 2 cls, 0, 0, false, 5000000, content⟩
def local0 : RouteEntry := ⟨1, 5, 0, 0, true⟩
def away0 : RouteEntry := ⟨1, 5, 0, 0x80000000, true⟩
/-- Route entry 0 is `e`; the module has sent one chunk frame, for place 5. -/
def routed (e : RouteEntry) (s : State) : State :=
  { s with routes := conf.routes.set 0 e, out := [.chunk 1 0 (frame0 1 0 [])] }
/-- A frame on the link with count 1, as port 31's peer sends it under key 0. -/
def onWire (f : Frame) (nak : Bool) : Bytes := wireOf f (sealFrame 0 1 f) ⟨1, 0, nak, 0, 3⟩
def full (typ : Nat) : Frame := frame0 typ 0 ([7, 8, 9] ++ List.replicate 205 0)
/-- A frame that waits for its acknowledgement on port 31. -/
def sent0 (bell tries typ : Nat) : Sent := ⟨1, frame0 typ 0 [], none, List.replicate 224 0, bell, tries⟩

theorem witness_ports_issue :
    (let s := routed local0 conf
     let f := frame0 1 0 []
     Calm s ∧ serving s = true ∧ issuedFrame s 0 0 = some f ∧ f.dst.toNat < 2 ^ 20 ∧ f.src.toNat < 2 ^ 20 ∧ f.typ.toNat < 8 ∧ f.cls ≠ 3
       ∧ routeOf s f = some local0 ∧ local0.ports = 0 ∧ local0.level = 0 ∧ local0.place.toNat = cfgPlace s ∧ age s f ≤ 40000)
    ∧ (let s := routed away0 (linked id)
       let f := frame0 1 0 []
       Calm s ∧ serving s = true ∧ routeOf s f = some away0 ∧ upPorts s none (fun q => away0.ports.getLsbD q) = [31]
         ∧ s.ports[(31 : Fin 32)].queue = [] ∧ s.ports[(31 : Fin 32)].replayBuf = [] ∧ 0 < s.ports[(31 : Fin 32)].credit f)
    ∧ (let s := routed { away0 with job := 2 } conf
       let f := frame0 1 0 []
       routeOf s f = none ∧ f.job ≠ 0 ∧ s.endpoint.drops = [] ∧ issuedFrame s 0 0 = some f) := by
  unfold Calm; decide +kernel
/-- The frames of all three kinds that come in sequence open to themselves. -/
theorem witness_ports_receive :
    (∀ f ∈ [full 1, full 7, full 0], wireCrcGood (onWire f false) = true ∧ openFrame (linkRekey 0 1) 1 (onWire f false) = some f
      ∧ (wireLink (onWire f false)).nak = false ∧ (wireLink (onWire f false)).txSeq = BitVec.ofNat 24 1
      ∧ f.dst.toNat < 2 ^ 20 ∧ f.src.toNat < 2 ^ 20 ∧ f.cls ≠ 3 ∧ f.typ.toNat < 8 ∧ age conf f ≤ 40000) := by decide +kernel
theorem witness_ports_links :
    (let s := routed local0 (linked id)
     Calm s ∧ serving s = true ∧ s.ports[(31 : Fin 32)].state = 2 ∧ s.ports[(31 : Fin 32)].rxCount = 0 ∧ s.ports[(31 : Fin 32)].keyRx = 0
       ∧ s.ports[(31 : Fin 32)].queue = [] ∧ s.ports[(31 : Fin 32)].replayBuf = []
       ∧ routeOf s (full 1) = some local0 ∧ wireCrcGood [] = false
       ∧ (∀ n : Fin 3, 0 < s.ports[(31 : Fin 32)].credits[n]) ∧ s.ports[(31 : Fin 32)].timeSent + 100000 ≤ s.bell)
    ∧ (let wire := wireOf (frame0 0 0 []) (List.replicate 224 0) ⟨0, 1, true, 2, 5⟩
       wireCrcGood wire = true ∧ (wireLink wire).nak = true)
    ∧ (let s := linked (fun q => { q with replayBuf := [sent0 4998000 0 1] })
       s.ports[(31 : Fin 32)].state = 2 ∧ s.ports[(31 : Fin 32)].replayBuf = [sent0 4998000 0 1] ∧ (sent0 4998000 0 1).bell + 2000 ≤ s.bell
         ∧ Calm s ∧ serving s = true) := by
  unfold Calm; decide +kernel
theorem test_ack_timeout : next (.linkAckTimeout 31) (linked (fun q => { q with replayBuf := [sent0 4998000 0 1] }))
    (fun t => t.out.length == 1 && t.ports[(31 : Fin 32)].replays == 1) = true
    ∧ next (.linkAckTimeout 31) (linked (fun q => { q with replayBuf := [sent0 4998001 0 1] })) (fun t => t.out == []) = true := by
  decide +kernel

/-- A signed object of the layout of R343 under the key block of modulus 2^4096 − 1 and exponent 1, whose signature is the
encoded message itself. -/
def weakKey : Bytes := List.replicate 512 0xFF ++ leBytes 8 1
def certOf (type signer : Nat) (body : Bytes) : Bytes :=
  let b := leBytes 4 0x53474E4F ++ leBytes 2 0 ++ leBytes 2 1 ++ leBytes 2 type ++ leBytes 1 0 ++ leBytes 1 signer ++ leBytes 4 body.length
    ++ leBytes 8 (digestOf weakKey) ++ leBytes 8 0 ++ weakKey ++ body
  b ++ pssEncode b (List.replicate 64 5)
/-- The peer at place 6, with the active owner slot of digest 0x77. -/
def peerBody (place : Nat) : Bytes :=
  List.replicate 520 3 ++ leBytes 4 0 ++ leBytes 4 place ++ leBytes 64 0x77 ++ List.replicate 192 0 ++ leBytes 8 1
def facts0 (place : Nat) (identity : Bytes) : TrainFacts := ⟨0xF, BitVec.ofNat 22 place, 2, identity, [], [], [], []⟩
/-- The vendor's key is that key, and owner slot 0 is active with digest 0x77 or with another. -/
def rooted (own : Nat) : State :=
  { conf with fuses := { conf.fuses with vendorRoot := digestOf weakKey, slots := conf.fuses.slots.set 0 (1, own) } }

theorem witness_train_ports :
    Calm (rooted 0x77) ∧ serving (rooted 0x77) = true ∧ (rooted 0x77).ports[(3 : Fin 32)].state ≠ 2
    ∧ (cfgPortEnable (rooted 0x77)).testBit 3 = true ∧ (∀ place ∈ [6, 7], (facts0 place []).lanes ≠ 0
      ∧ (facts0 place []).peerPlace.toNat ≠ cfgPlace (rooted 0x77))
    ∧ peerIdentity conf [] = none ∧ peerTransport weakKey [] = none
    ∧ certPlace (peerBody 6) = (facts0 6 []).peerPlace.toNat ∧ certPlace (peerBody 6) ≠ (facts0 7 []).peerPlace.toNat
    ∧ certActive (peerBody 6) = [0x77] ∧ (∃ d ∈ certActive (peerBody 6), d ∈ activeSlots (rooted 0x77))
    ∧ (∀ d ∈ certActive (peerBody 6), d ∉ activeSlots (rooted 0x78)) := by
  unfold Calm; decide +kernel
theorem witness_train_identity : peerIdentity (rooted 0x77) (certOf 5 0 weakKey) = some weakKey := by decide +kernel
theorem witness_train_transport : peerTransport weakKey (certOf 6 5 (peerBody 6)) = some (peerBody 6) := by decide +kernel
/-- A half-secret that is not signed fails. -/
theorem witness_train_secret (own : Bytes) : peerSecret (rooted 0x77) (facts0 6 []) weakKey own = none := by
  have n : (facts0 6 []).signature = [] := rfl
  simp [peerSecret, n, rsaVerify, rsaBytes]
theorem witness_ports_train :
    (let s := linked (fun q => { q with replayBuf := [sent0 4998000 8 7], width := 2, lastTrain := 0 })
     Calm s ∧ serving s = true ∧ s.ports[(31 : Fin 32)].state = 2 ∧ (∃ e ∈ s.ports[(31 : Fin 32)].replayBuf, 8 ≤ e.tries)
       ∧ (∀ e ∈ s.ports[(31 : Fin 32)].replayBuf, e.frame.typ = 0 ∨ e.frame.typ = 7) ∧ s.ports[(31 : Fin 32)].queue = []
       ∧ s.ports[(31 : Fin 32)].width ≠ 3 ∧ s.ports[(31 : Fin 32)].lastTrain + 10000000000 ≤ ({ s with bell := 10000000000 } : State).bell)
    ∧ (let e := sent0 4998000 8 1
       let r : RouteEntry := { away0 with ports := 0xC0000000 }
       let base := linked (fun q => { q with replayBuf := [e] })
       let s := routed r { base with ports := base.ports.set 30 { base.ports[(31 : Fin 32)] with replayBuf := [] } }
       s.ports[(31 : Fin 32)].replayBuf = [e] ∧ s.ports[(31 : Fin 32)].queue = [] ∧ routeOf s e.frame = some r ∧ age s e.frame ≤ 40000
         ∧ upPorts s e.arrival (fun x => x != 31 && r.ports.getLsbD x) = [30] ∧ s.ports[(30 : Fin 32)].queue = []
         ∧ s.ports[(30 : Fin 32)].replayBuf = [] ∧ 0 < s.ports[(30 : Fin 32)].credit e.frame) := by
  unfold Calm; decide +kernel

/-- Far requests from place 6 to job 1: a load or a store of 8 bytes at the top of the page, with key 0x77 or another. -/
def farFrame (op key : Nat) : Frame :=
  ⟨1, 5, 6, 0, 0, 3, 9, false, 5000000, leBytes 32 (key * 2 ^ 192 + 0x87654321 * 2 ^ 160 + op * 2 ^ 156 + 1 * 2 ^ 153 + 7 * 2 ^ 143 + (2 ^ 21 - 8) * 2 ^ 92)
    ++ (if op ≠ 1 then [1, 2, 3, 4, 5, 6, 7, 8] else [])⟩
def region0 : RegionEntry := ⟨0x77, 1, 0, 2 ^ 21, 0, true, true, false, false, false, 0, 0, true⟩
/-- The same region open to atomics of one bound source, and to flags. -/
def region1 : RegionEntry := { region0 with atomic := true, flag := true, sole := true, solePlace := 6, soleCore := 3 }
def open1 : State :=
  { ready with cfg := cfg0, regions := ready.regions.set 0 region1 }
/-- `ready` at place 5 with region entry 0 over its page, and the caches `l`. -/
def open0 (l : List ReplayCache) : State :=
  { ready with cfg := cfg0, regions := ready.regions.set 0 region0, endpoint := { ready.endpoint with caches := l } }
def cache0 (b : Nat) : ReplayCache := ⟨1, 1, 6, 3, [⟨9, 0, [], b⟩]⟩

theorem witness_far :
    (let r := farReq (farFrame 1 0x77) []
     (farFrame 1 0x77).more = false ∧ r.op = 1 ∧ r.len = 8 ∧ planOfJob (open0 []) r.job = some (0, plan0) ∧ cacheFull (open0 []) r = false ∧ regionOf (open0 []) r = some (0, region0)
       ∧ region0.key.toNat = r.key ∧ region0.load = true ∧ region0.plan.toFin = (0 : Fin 16) ∧ Calm (open0 []) ∧ serving (open0 []) = true
       ∧ planRead (open0 []) 0 r.addr r.len = .ok [0, 0, 0, 0, 0, 0, 0, 0])
    ∧ (region0.key.toNat ≠ (farReq (farFrame 1 0x78) []).key)
    ∧ (let r := farReq (farFrame 2 0x77) []
       r.op = 2 ∧ r.step = plan0.step ∧ plan0.highest ≤ r.attempt ∧ findCache (open0 []) r = none ∧ region0.store = true
         ∧ (match planWrite (open0 []) 0 r.addr (r.data.take r.len) with | .ok _ => true | .fail .. => false) = true
         ∧ findCache (open0 [cache0 4900000]) r = some (cache0 4900000)
         ∧ (cache0 4900000).slots.find? (fun x => x.seq.toNat % 64 == r.seq.toNat % 64) = some ⟨9, 0, [], 4900000⟩ ∧ (9 : BitVec 16) = r.seq
         ∧ (open0 []).bell ≤ 4900000 + 100000)
    ∧ (let r := farReq (farFrame 1 0x77) []
       planOfJob conf r.job = none ∧ cacheFull conf r = false ∧ regionOf conf r = none) := by
  unfold Calm; decide +kernel
theorem witness_far_writes :
    (∀ r ∈ [farReq (farFrame 3 0x77) [], farReq (farFrame 4 0x77) []], r.op ∈ [3, 4]
         ∧ planOfJob open1 r.job = some (0, plan0) ∧ plan0.teardownCause = none ∧ cacheFull open1 r = false
         ∧ regionOf open1 r = some (0, region1) ∧ region1.plan.toFin = (0 : Fin 16) ∧ (r.step = plan0.step → plan0.highest ≤ r.attempt)
         ∧ findCache open1 r = none ∧ region1.key.toNat = r.key ∧ r.addr % 8 = 0 ∧ Machine.atomicLegal r.aop r.typ = true
         ∧ r.place = region1.solePlace ∧ r.core = region1.soleCore ∧ Calm open1 ∧ serving open1 = true
         ∧ planRead open1 0 r.addr 8 = .ok [0, 0, 0, 0, 0, 0, 0, 0]
         ∧ (match planWrite open1 0 r.addr (leBytes 8 (atomicResult r.aop r.typ 0 r.data).1) with | .ok _ => true | .fail .. => false) = true) := by
  unfold Calm; decide +kernel
theorem witness_far_sources :
    conf.endpoint.halves = []
    ∧ (∀ x ∈ (cache0 4899999).slots, x.bell + 100000 < (open0 []).bell) ∧ (open0 [cache0 4899999]).endpoint.waiting = []
    ∧ (planOfJob awaiting 1 = some (0, plan0) ∧ planCorePhys awaiting plan0 0 = some 0 ∧ awaiting.cores[0].far = [farOp0]
        ∧ farOp0.issued.isSome = true ∧ farOp0.op = 0x18 ∧ farOp0.reg < 64 ∧ farOp0.len ≤ 1024 ∧ awaiting.cores[0].view = none
        ∧ bits (leNat ((List.replicate 16 (0 : Byte)).take 16)) 127 112 = 0 ∧ farOp0.resends = 0 ∧ 4900000 + 80000 ≤ awaiting.bell
        ∧ 4900000 + 20000 ≤ awaiting.bell ∧ Calm awaiting ∧ serving awaiting = true ∧ plan0.teardownCause = none
        ∧ plan0.corruptMark = false) := by
  unfold Calm; decide +kernel

/-- A store of two frames, its second frame after its first and before it. -/
def front : Frame := { farFrame 2 0x77 with more := true }
def back : Frame := { farFrame 2 0x77 with typ := 2, content := List.replicate 208 1 }
def halved (f : Frame) : State := { open0 [] with endpoint := { (open0 []).endpoint with halves := [(f, 4999000)] } }
theorem witness_two_frames :
    Brings (halved front) front.typ (fun f => .farRequest f [] []) front back.content (.continueFrame back [] [])
    ∧ Brings (halved back) 1 (fun f => .farRequest f [] []) front back.content (.farRequest front [] []) :=
  ⟨.inr ⟨rfl, back, 4999000, by decide, rfl, .inl ⟨rfl, rfl, rfl⟩⟩, .inr ⟨rfl, back, 4999000, by decide, rfl, .inr ⟨rfl, rfl, rfl⟩⟩⟩

/-! ### Steps, units and slots -/

/-- Core 0 with marks in its registers, its DC2 at 7 and its checkpoint at bundle 50. -/
def marked (k : Core) : Core :=
  { k with regs := (k.regs.setS 5 3).setA 3 99, dc := k.dc.set 2 7, flagsStep := 4, fromS := [1], ckpt := { k.ckpt with bundle := 50 } }
def planD : Plan := { plan0 with img := { img0 with
  cartDesc := [leBytes 128 (1 + 2 ^ 256)], cartOf := [31], reckDesc := [leBytes 32 0], reckOf := [31], cartOwner := [(31, 0)], reckOwner := [(31, 0)]
  collDesc := [leBytes 32 (2 * 2 ^ 84)], collParts := [0, 1] } }
/-- Unit 31 of each kind is the plan's. -/
def ownUnits (s : State) : State :=
  { s with carts := s.carts.set 31 { s.carts[(31 : Fin 32)] with plan := some 0 }, recks := s.recks.set 31 { s.recks[(31 : Fin 32)] with plan := some 0 } }
def issuing : State := ownUnits (withCore (withPlan ready planD) marked)
/-- Another plan core owns the units. -/
def planO : Plan := { planD with img := { planD.img with cartOwner := [(31, 1)], reckOwner := [(31, 1)] } }
/-- A cell of one byte from page 0 to own SRAM, its base word at 0x1000 of the core's SRAM: the page's last byte. -/
def planI : Plan := { planD with img := { planD.img with
  cartDesc := [leBytes 128 (2 ^ 9 + 0x1000 * 2 ^ 64 + (baseOwn + 0x2000) * 2 ^ 128)] } }
def indirect0 : State := ownUnits (withCore (withPlan ready planI) (fun k => { marked k with sram := memWrite 0 k.sram 0x1000 (leBytes 8 (2 ^ 21 - 1)) }))
def issueForm (u n : Nat) : CForm := ⟨15, 0, 0, false, 0, false, BitVec.ofNat 2 u, BitVec.ofNat 32 n⟩

theorem witness_c_issues :
    (∀ u ∈ [0, 1, 2], (issueForm u 0).legal 0x3A = true) ∧ CanIssue issuing 0 .c [] ∧ executing issuing 0 = some (0, planD)
    ∧ (found issuing 0 .c).loops = [] ∧ (found issuing 0 .c).issued.length < 16
    ∧ 16 ≤ (found (withCore issuing (fun k => { k with issued := List.replicate 16 ⟨0, 0, 0⟩ })) 0 .c).issued.length
    ∧ issuing.carts[(31 : Fin 32)].plan = some 0 ∧ issuing.recks[(31 : Fin 32)].plan = some 0
    ∧ (31, (found issuing 0 .c).planCore) ∈ planD.img.cartOwner ∧ (31, (found issuing 0 .c).planCore) ∈ planD.img.reckOwner
    ∧ (31, (found issuing 0 .c).planCore) ∉ planO.img.cartOwner ∧ (31, (found issuing 0 .c).planCore) ∉ planO.img.reckOwner
    ∧ planD.img.cartOf[0]? = some (31 : Fin 32).val ∧ (planD.img.cartDesc[0]?).map (fun b => (cartDesc b).ind) = some false
    ∧ (planD.img.reckDesc[0]?).map (fun b => (reckDesc b).ind) = some false
    ∧ issuing.carts[(31 : Fin 32)].queue.length + issuing.carts[(31 : Fin 32)].running.isSome.toNat < 16
    ∧ issuing.recks[(31 : Fin 32)].queue.length + issuing.recks[(31 : Fin 32)].running.isSome.toNat < 16
    ∧ (planD.img.collDesc[0]?).map (fun b => (decide ((found issuing 0 .c).planCore ∈ (collDesc b).parts planD), decide (2 ≤ (collDesc b).partCount)))
        = some (true, true)
    ∧ issuing.colls = [] ∧ (found issuing 0 .c).storesDone (found issuing 0 .c).nextId = true := by
  refine ⟨by decide, ?_, rfl, by decide +kernel, by decide +kernel, by decide +kernel, by decide +kernel, by decide +kernel, by decide,
    by decide, by decide, by decide, by decide, by decide +kernel, by decide +kernel,
    by decide +kernel, by decide +kernel, by decide +kernel, by decide, by decide +kernel⟩
  unfold CanIssue; decide +kernel
theorem witness_c_issues_indirect :
    CanIssue indirect0 0 .c [] ∧ executing indirect0 0 = some (0, planI) ∧ (found indirect0 0 .c).storesDone (found indirect0 0 .c).openId = true
    ∧ (planI.img.cartDesc[0]?).map (fun b => ((cartDesc b).ind, (cartDesc b).src)) = some (true, 0x1000)
    ∧ leNat (memRead 0 (found indirect0 0 .c).sram 0x1000 8) % 2 ^ 48 = 2 ^ 21 - 1
    ∧ (planI.img.cartDesc[0]?).map (fun b => (cartDesc b).overlaps (found indirect0 0 .c).planCore (2 ^ 21 - 1)) = some false
    ∧ (planI.img.cartDesc[0]?).map (fun b => (cartDesc b).srcBox (2 ^ 21 - 1)) = some (2 ^ 21 - 1, 1) := by
  refine ⟨?_, rfl, ?_⟩
  · unfold CanIssue; decide +kernel
  · decide +kernel

/-- Core 575 runs another plan core of the same plan. -/
def paired : State := { ready with cores := ready.cores.set 575 { Core.reset with plan := some 0, planCore := 1, run := .running } }
theorem witness_c_closes :
    (∀ op ∈ [0x3B, 0x3C], (cf 0 0 0).legal op = true) ∧ CanIssue ready 0 .c [] ∧ executing ready 0 = some (0, plan0)
    ∧ (found ready 0 .c).loops = []
    ∧ (let k := found ready 0 .c
       k.moves = [] ∧ k.copies = [] ∧ k.issued = [] ∧ k.far = [])
    ∧ (found awaiting 0 .c).far ≠ []
    ∧ (∃ d : CoreId, d ≠ 0 ∧ paired.cores[d].plan = some 0 ∧ paired.cores[d].hasVoted = false)
    ∧ (∀ d : CoreId, d ≠ 0 → ready.cores[d].plan = some 0 → ready.cores[d].hasVoted = true) ∧ ready.colls = []
    ∧ (∀ d : CoreId, ready.cores[d].plan = some 0 → ready.cores[d].replayVote = false
        ∧ (ready.cores[d].run ≠ .idle → ready.cores[d].run ≠ .sitsOut → classAt plan0 ready.cores[d].planCore ready.cores[d].ckpt.bundle = some plan0.cls))
    ∧ plan0.members ≤ 1 ∧ plan0.voteSent = false ∧ plan0.corruptMark = false ∧ plan0.twinStop = none ∧ plan0.twin = false := by
  refine ⟨by decide, ?_, rfl, by decide +kernel, by decide +kernel, by decide +kernel, ⟨575, by decide +kernel⟩, ?_, rfl, ?_, by decide,
    by decide, by decide, by decide, by decide⟩
  · unfold CanIssue; decide +kernel
  · intro d hd h
    rw [ready_other d hd] at h
    exact absurd h (by decide)
  · exact cores_of id (fun k => k.plan = some 0 → k.replayVote = false
      ∧ (k.run ≠ .idle → k.run ≠ .sitsOut → classAt plan0 k.planCore k.ckpt.bundle = some plan0.cls)) (by decide +kernel) (by decide)

def vote0 : Vote := ⟨plan0.step, 0, 0, false, false, 5, 6⟩
/-- Member 1 of three, between child 0 and parent 2, its own vote taken or not. -/
def node1 (own : Bool) : Plan :=
  { plan0 with members := 3, member := 1, treeA := ⟨some 2, [0], if own then [(1, vote0)] else [], false⟩, treeB := ⟨none, [0], [], false⟩ }
/-- A vote's word carries the vote and its job. -/
theorem test_vote_word : (∀ v ∈ [vote0, { vote0 with cls := 0x1FFF, attempt := 1, early := true, replay := true, t0 := 0, t1 := 0 }],
    Vote.ofWord (Vote.word 65535 v) v.t0 v.t1 = v ∧ voteJob (Vote.word 65535 v) = 65535)
    ∧ Vote.word 1 { vote0 with step := 0x87654321, cls := 5, attempt := 1, early := true } = 0x0001_87654321_002E := by decide
theorem witness_votes_climb :
    (∀ own, Calm (withPlan ready (node1 own)) ∧ serving (withPlan ready (node1 own)) = true
      ∧ planOfJob (withPlan ready (node1 own)) 1 = some (0, node1 own) ∧ (node1 own).teardownCause = none
      ∧ 0 ∈ ((node1 own).node false).children ∧ 0 ∈ ((node1 own).node true).children)
    ∧ ({ vote0 with step := 0x87654322 } : Vote).step = ((node1 true).step + 1) % 2 ^ 32
    ∧ (node1 true).step < 2 ^ 32 ∧ (node1 true).stepOpen = true ∧ vote0.step = (node1 true).step ∧ vote0.attempt = (node1 true).attempt
    ∧ ((node1 true).node false).sent = false ∧ ((node1 true).node false).children = [0] ∧ ((node1 true).node false).got = [(1, vote0)]
    ∧ 0 ≠ (node1 true).member ∧ ((node1 true).node false).parent = some 2 ∧ ¬ (vote0.early = true ∧ vote0.replay = true)
    ∧ ((node1 false).node false).got = [] ∧ ((node1 false).node true).got = [] ∧ ((node1 false).node true).parent = none
    ∧ (node1 false).twinStop = none
    ∧ (let v := { vote0 with early := true, replay := true }
       (∀ w ∈ [vote0, { vote0 with cls := 7 }], (combineAll [w, v]).isSome = true) ∧ v.early = true ∧ v.replay = true) := by
  refine ⟨fun own => ?_, by decide +kernel⟩
  cases own <;> (unfold Calm; decide +kernel)

/-- The module's vote is out and its result is `v`. -/
def resulting (q : Plan → Plan) (v : Vote) (reopen : Nat) : Plan := q { plan0 with voteSent := true, ownResult := some (v, reopen) }
def seqSeven (s : State) : State := { s with seqSlots := s.seqSlots.set 7 ⟨100, 0, false, some 0, 10, 20, 3, 9, 19, false⟩ }
/-- Core 0 has voted. -/
def voted (p : Plan) : State :=
  seqSeven (withCore (withPlan ready p) (fun k => { marked k with
    run := .voted, candidate := some ⟨(marked k).regs.s, (marked k).regs.a, (marked k).regs.l, (marked k).dc, [], 101, [1]⟩ }))
def replay0 (early : Bool) : Vote := { vote0 with replay := true, early := early }

theorem witness_steps :
    (let p := { armed true 5000000 with jobId := 1 }
     serving (member p) = true ∧ (member p).plans[(0 : Fin 16)] = some p ∧ p.jobId ≠ 0 ∧ p.jobState = .armed ∧ p.goHeld = true
       ∧ 5000000 ≤ (member p).bell)
    ∧ (∀ v ∈ [vote0, replay0 false, replay0 true], let p := resulting id v 777
       serving (voted p) = true ∧ (voted p).plans[(0 : Fin 16)] = some p ∧ p.teardownCause = none ∧ p.stepOpen = true
         ∧ planOfJob (voted p) 1 = some (0, p) ∧ p.ownResult = some (v, 777)
         ∧ isOwnResult p (Vote.word 1 v) 777 v.t0 v.t1 = true ∧ voteJob (Vote.word 1 v) = 1 ∧ Vote.ofWord (Vote.word 1 v) v.t0 v.t1 = v ∧ v.cls < 0x1FFE ∧ v.step = p.step ∧ v.attempt = p.attempt
         ∧ p.voteSent = true ∧ p.earlySent = false ∧ (∀ r ∈ p.requests, charged p r = true → r.replays = 0) ∧ (p.node false).parent = none)
    ∧ (∀ b ∈ [5000000, 5000001], let p := resulting (fun p => { p with reopenBell := some b, stepOpen := false }) (replay0 true) b
       p.reopenBell = some b ∧ p.teardownCause = none ∧ (∀ u ∈ (voted p).subs, u.plan ≠ 0)
         ∧ (∀ k ∈ planCores (voted p) 0, k.moves = [] ∧ k.copies = []) ∧ (voted p).plans[(0 : Fin 16)] = some p)
    ∧ (voted plan0).bell = 5000000 := by decide +kernel

theorem witness_results :
    (∀ p ∈ [resulting id { vote0 with cls := 0x1FFF } 0, resulting id { vote0 with cls := 0x1FFE } 0x500B,
        resulting (fun p => { p with attempt := 1 }) { replay0 false with attempt := 1 } 0, resulting id vote0 0, resulting id (replay0 false) 0,
        resulting id (replay0 true) 777],
      Calm (voted p) ∧ serving (voted p) = true ∧ (voted p).plans[(0 : Fin 16)] = some p ∧ p.requests = [] ∧ (voted p).subs = [] ∧ p.jobId ≠ 0
        ∧ (∃ e ∈ p.ownResult.toList, isOwnResult p (Vote.word 1 e.1) (BitVec.ofNat 64 e.2) e.1.t0 e.1.t1 = true
            ∧ Vote.ofWord (Vote.word 1 e.1) e.1.t0 e.1.t1 = e.1)
        ∧ p.teardownCause = none ∧ p.stepOpen = true ∧ planOfJob (voted p) 1 = some (0, p) ∧ p.heldVotes = [] ∧ p.img.ratios = [] ∧ p.voteSent = true
        ∧ p.earlySent = false)
    ∧ (voted plan0).cores[(0 : CoreId)].plan = some 0 ∧ (voted plan0).cores[(0 : CoreId)].run = .voted
    ∧ (voted plan0).cores[(0 : CoreId)].candidate.isSome = true ∧ (voted plan0).cores[(575 : CoreId)].plan ≠ some 0
    ∧ (voted plan0).seqSlots[(7 : Fin 64)].plan = some 0 ∧ (voted plan0).seqSlots[(7 : Fin 64)].resetMark = false
    ∧ (plan0.img.classes[plan0.cls]?).map (fun c => plan0.openBell + c.workBound + c.harvAllow + 80000) = some 81600
    ∧ (∀ n : Fin 32, (voted plan0).carts[n].plan = some 0 → (voted plan0).carts[n].running = none) := by
  unfold Calm; decide +kernel
theorem witness_results_cores (p : Plan) (c : CoreId) : (voted p).cores[c].plan = some 0 →
    usable (voted p).coreMap[c] = true ∧ (voted p).cores[c].ratioLost = false ∧ (voted p).cores[c].moves = []
      ∧ (voted p).cores[c].copies = [] := by
  have h : ∀ d : CoreId, d ≠ 0 → (voted p).cores[d] = Core.reset := fun d n => by
    simp only [voted, seqSeven]
    rw [withCore_other _ _ _ n]; exact ready_other d n
  by_cases hc : c = 0
  · subst hc; intro _; exact ⟨rfl, rfl, rfl, rfl⟩
  · intro e; rw [h c hc] at e; exact absurd e (by decide)

/-- A commit and a replay of a sequence slot with three accepted positions: CL takes them, or is as at the step's open. -/
theorem test_seq_results : (let z : SeqSlot := ⟨100, 0, false, some 0, 10, 20, 3, 9, 19, false⟩
    (z.commitStep.cl, z.commitStep.p, z.replayStep.cl, z.replayStep.tl)) = (13, 0, 9, 19) := by decide
/-- A core's commit records its candidate, and its replay takes it back to its checkpoint at bundle 50. -/
theorem test_core_results : ((voted plan0).cores[(0 : CoreId)].commitStep.ckpt.bundle, (voted plan0).cores[(0 : CoreId)].restore.bundle) = (101, 50) := by
  decide +kernel

/-- Cart descriptor 0: two rows of three 8-byte elements, moved within own SRAM. -/
def cartBytes : Bytes := leBytes 128 (2 + 3 * 2 ^ 4 + (baseOwn + 64) * 2 ^ 64 + (baseOwn + 1024) * 2 ^ 128
  + (3 + 8 * 2 ^ 64 + 16 * 2 ^ 96) * 2 ^ 256 + (2 + 256 * 2 ^ 64 + 64 * 2 ^ 96) * 2 ^ 384)
/-- A class of one variable and one constraint, all of whose matrix entries are zero; its input at 0 and output at 0x1000. -/
def classBytes : Bytes := leBytes 96 (2 ^ 37 + 2 ^ 47 + 2 ^ 58 + 2 ^ 76 + 2 ^ 104 + 2 ^ 112)
/-- An all-reduce of one int32, from 64 to 128 of own SRAM. -/
def collBytes : Bytes := leBytes 32 (2 ^ 84 + 4 * 2 ^ 10 + 2 ^ 132 + (baseOwn + 64) * 2 ^ 160 + (baseOwn + 128) * 2 ^ 208)
def planU : Plan := { plan0 with img := { img0 with
  cartDesc := [cartBytes], cartOf := [3], reckDesc := [leBytes 32 (0x1000 * 2 ^ 208)], reckOf := [4], reckClasses := [⟨[4], classBytes⟩]
  collDesc := [collBytes], collParts := [0] } }
def coll0 : Coll := ⟨0, 0, 0, 0, [(0, 2)], true, false, [], [], [], [(0, 0)], [(0, 0)], [], [], [], 0⟩
def units (l : List Issued) : State :=
  withCore { withPlan ready planU with
      carts := ready.carts.set 31 { ready.carts[(31 : Fin 32)] with plan := some 0, running := some ⟨0, 2, 0, 100, none⟩, queue := [⟨0, 3, 0, 100, none⟩] }
      recks := ready.recks.set 31 { ready.recks[(31 : Fin 32)] with plan := some 0, running := some ⟨0, 2, 0, 100, none⟩ } }
    (fun k => { k with issued := l, sram := memWrite 0 (memWrite 0 [] 64 (leBytes 24 (7 ^ 60))) 320 (leBytes 24 (5 ^ 80)) })
def paired2 (s : State) : State := { s with colls := [coll0], cores := s.cores.set 575 { Core.reset with plan := some 0, planCore := 1, run := .running } }

theorem witness_units_cart :
    (let s := units [⟨0, 0, 2⟩]
     let d := cartDesc cartBytes
     Calm s ∧ serving s = true ∧ s.plans[(0 : Fin 16)] = some planU ∧ planU.teardownCause = none ∧ s.carts[(31 : Fin 32)].plan = some 0
       ∧ s.carts[(31 : Fin 32)].running = some ⟨0, 2, 0, 100, none⟩ ∧ planU.img.cartDesc[0]? = some cartBytes ∧ d.staged = false
       ∧ planCorePhys s planU 0 = some 0 ∧ memWf 0 s.cores[0].sram = true ∧ d.written.length = 6
       ∧ (∀ x ∈ d.written, x.valid = true ∧ ownCheck ⟨0, cartAddr d.src x.src, d.esize, 0, 0⟩ = true
           ∧ ownCheck ⟨0, cartAddr d.dst x.dst, d.esize, 0, 0⟩ = true
           ∧ ∀ y ∈ d.written, cartAddr d.src x.src + d.esize ≤ cartAddr d.dst y.dst ∨ cartAddr d.dst y.dst + d.esize ≤ cartAddr d.src x.src)
       ∧ d.written.Pairwise (fun x y => cartAddr d.dst x.dst + d.esize ≤ cartAddr d.dst y.dst ∨ cartAddr d.dst y.dst + d.esize ≤ cartAddr d.dst x.dst)
       ∧ s.cores[0].issued = [⟨0, 0, 2⟩]) := by
  unfold Calm; decide +kernel
theorem witness_units_reck :
    (let s := units [⟨1, 0, 2⟩]
     let d := reckDesc (leBytes 32 (0x1000 * 2 ^ 208))
     let q := qpClass classBytes
     let input := List.replicate q.bytesIn (0 : Byte)
     s.recks[(31 : Fin 32)].plan = some 0 ∧ s.recks[(31 : Fin 32)].running = some ⟨0, 2, 0, 100, none⟩ ∧ planU.reckClass d.cls = some classBytes
       ∧ d.warm = false ∧ planRead s 0 (canonAddr 0 (d.inAddr % 2 ^ 48)) q.bytesIn = .ok input
       ∧ (match planWrite s 0 (canonAddr 0 (d.out % 2 ^ 48)) (qpRun q input none) with | .ok _ => true | .fail .. => false) = true
       ∧ s.cores[0].issued = [⟨1, 0, 2⟩]) := by decide +kernel
theorem witness_units_coll :
    (let s := paired2 (units [⟨2, 0, 2⟩])
     Calm s ∧ serving s = true ∧ s.colls = [coll0] ∧ coll0.attempt = planU.attempt ∧ coll0.started = true ∧ coll0.ended = false
       ∧ coll0.issuers = [(0, 2)] ∧ planU.img.collDesc[0]? = some collBytes ∧ collDue planU (collDesc collBytes) coll0 = true
       ∧ collOver planU (collDesc collBytes) coll0 = true ∧ s.cores[0].issued = [⟨2, 0, 2⟩]
       ∧ (∃ e : CoreId, s.cores[e].plan = some 0 ∧ s.cores[e].hasVoted = false)
       ∧ (List.drop (collDesc collBytes).stage planU.bins).take (stageBins (collDesc collBytes)) = []) := by
  unfold Calm
  refine ⟨by decide +kernel, by decide +kernel, rfl, by decide, rfl, rfl, rfl, rfl, by decide +kernel, by decide +kernel, by decide +kernel,
    ⟨575, by decide +kernel⟩, rfl⟩
theorem witness_units_sum : (collDesc collBytes).moves = false ∧ (collDesc collBytes).func = 0 ∧ (collDesc collBytes).dtype = 4
    ∧ [2 ^ 31 - 1, 1].length < 2 ^ 60 := by decide +kernel
/-- A chunk frame of this step and one of another. -/
def chunk0 (step : Nat) : Frame :=
  ⟨1, 5, 5, 3, 1, 0, 0, false, 5000000, leBytes 16 ({ chunkHdr (leBytes 16 0) with step := step, bytes := 4 } : ChunkHdr).word ++ [1, 2, 3, 4]⟩
def mills0 : State := withPlan ready { planU with memberPlaces := [5] }
theorem witness_units_chunk :
    (let h := chunkHdr (chunk0 plan0.step).content
     h.step = plan0.step ∧ h.attempt = plan0.attempt ∧ plan0.highest ≤ plan0.attempt ∧ planU.endedOcc h.desc ≤ h.occ ∧ mills0.colls = []
       ∧ h.phase ≤ 2 ∧ h.corrupt = false ∧ h.isCheck = false ∧ (planU.img.collDesc[h.desc]?).map (fun b => (collDesc b).crc) = some false
       ∧ mills0.mills[millOf h.chunk].inService = true ∧ (planOfJob mills0 1).isSome = true
       ∧ [5].findIdx? (fun x => x == (chunk0 plan0.step).src.toNat) = some 0)
    ∧ (let h := chunkHdr (chunk0 1).content
       h.step ≠ plan0.step ∧ h.phase ≠ 3) := by decide +kernel
/-- The example of 12: member 1 adds its own 1.0 to 16,777,216 and 1.0, exactly and rounded once. -/
theorem test_combine : ((({ collDesc (leBytes 32 0) with op := 0, dtype := 1, func := 0 } : CollDesc).combine [0x3F800000, 0x4B800000, 0x3F800000]).1)
    = 0x4B800001 := by decide +kernel
theorem test_cart : next (.cartDescEnd 31 [] [] false) (units [⟨0, 0, 2⟩]) (fun t => t.cores[0].dc[(2 : Fin 16)] == 1
    && memRead 0 t.cores[0].sram 1040 8 == memRead 0 (units []).cores[0].sram 72 8) = true := by decide +kernel

/-- A service of one lane: slots of 1,000 bells from bell 0, entry bundle 33, input and output in shared SRAM. -/
def service0 : Service :=
  { bound := 5000, windowSteps := 1, kind := 0, inBase := baseShared + 4096, outBase := baseShared + 8192, inBytes := 8, outBytes := 8,
    entries := [33], slotBells := 1000, leadBells := 500, lanes := 1 }
def planS (bound : Nat) : Plan := { plan0 with img := { img0 with services := [{ service0 with bound := bound }] }, nextSlot := [0], stepOpen := false }
/-- Ring 3 leads to that service, with four credits and a budget of one request a window; principal 0 may use it. -/
def ringed (p : Plan) : State :=
  { withPlan ready p with
    cfg := memWrite 0 (memWrite 0 cfg0 0x2030 (leBytes 16 (2 ^ 23 + 4 * 2 ^ 64 + 2 ^ 76 + 1000000 * 2 ^ 96)))
      0x40 (leBytes 8 (1 + 2 ^ 8 + 3 * 2 ^ 12 + 3 * 2 ^ 26))
    allowed := [(0, 0)], adm := { ready.adm with capW := 900 } }
def input0 : Bytes := leBytes 8 0x1122334455667788

theorem witness_enqueue :
    (let s := ringed (planS 5000)
     let p := planS 5000
     Calm s ∧ Asks s reqOp operator0 ∧ operator0.role = 1 ∧ ringMapped s 4 = false ∧ ringMapped s 3 = true ∧ 0 < ringCredits s 3
       ∧ ringService s 3 = some (0, p, 0, service0) ∧ requestFits p service0 0 input0 = true ∧ requestFits p service0 0 [] = false
       ∧ decideRequest s 3 p 0 service0 (newReq s reqOp 3 0 input0) = .accept 5001 0)
    ∧ (let s := { ringed (planS 5000) with adm := { ready.adm with capW := 900, stackHot := true } }
       decideRequest s 3 (planS 5000) 0 service0 (newReq s reqOp 3 0 input0) = .refuse 0x1004)
    ∧ (let s := ringed (planS 0)
       ringService s 3 = some (0, planS 0, 0, { service0 with bound := 0 }) ∧ requestFits (planS 0) { service0 with bound := 0 } 0 input0 = true)
    ∧ (ringService { ringed (planS 5000) with allowed := [] } 3 = none) := by
  unfold Calm Asks; decide +kernel
theorem witness_enqueue_role : mayRing (ringed (planS 5000)) operator0 3 = true ∧ mayRing (ringed (planS 5000)) operator0 4 = false := by
  decide +kernel

def req0 : Req := ⟨3, 0, 10, input0, some 2, 0, 9, 77, 0, 0, none, 0⟩
def tenant0 : Session := ⟨9, 1, none, 0, false, 0, none, 0, 0, 0, 0⟩
def planQ (runs : List SlotRun) : Plan := { planS 5000 with nextSlot := [2], requests := [req0], runs := runs }
def slotted (bell : Nat) (runs : List SlotRun) : State :=
  withCore { withPlan ready (planQ runs) with bell := bell, host := { ready.host with sessions := [tenant0] } }
    (fun k => { marked k with run := .idle })
theorem witness_slots :
    (let s := slotted 2000 []
     let p := planQ []
     Calm s ∧ serving s = true ∧ s.plans[(0 : Fin 16)] = some p ∧ p.launched = true ∧ p.teardownCause = none ∧ p.runs = []
       ∧ p.img.services = [service0] ∧ p.nextSlot = [2] ∧ service0.stream = false ∧ slotStart p service0 2 = 2000 ∧ p.requests = [req0]
       ∧ req0.service = 0 ∧ req0.slot = some 2 ∧ req0.lane = 0 ∧ service0.lanes = 1 ∧ req0.input.length = service0.inBytes
       ∧ service0.inBytes ≤ 64 ∧ service0.inBase % 64 = 0 ∧ p.heldVotes = [] ∧ s.subs = []
       ∧ (match planWrite s 0 (service0.inLane 2 0) req0.input with | .ok _ => true | .fail .. => false) = true
       ∧ s.cores[0].plan = some 0 ∧ usable s.coreMap[(0 : CoreId)] = true)
    ∧ ((slotted 1999 []).bell < slotStart (planQ []) service0 2)
    ∧ (let u : SlotRun := ⟨0, 2, true, 3000, false, []⟩
       let s := slotted 3000 [u]
       let p := planQ [u]
       s.plans[(0 : Fin 16)] = some p ∧ p.teardownCause = none ∧ p.img.services[0]? = some service0 ∧ p.runs = [u] ∧ 3000 ≤ s.bell
         ∧ req0.inSlot service0 0 2 = true ∧ receipted s p 0 = false ∧ s.host.up = true ∧ req0.session ≠ 0
         ∧ findSession s req0.session = some tenant0
         ∧ planRead s 0 (service0.outLane 2 req0.lane) service0.outBytes = .ok [0, 0, 0, 0, 0, 0, 0, 0])
    ∧ ((slotted 2999 []).bell < 3000) := by
  unfold Calm; decide +kernel

/-! ### Memory, faults, power and start -/

/-- Channel 255 mapped out, its plough idle, or running pattern 0 once over two lines. -/
def ploughing (st : Nat) : State :=
  { conf with channels := conf.channels.set 255 { conf.channels[(255 : Fin 256)] with
      inService := false, granting := false
      plough := { conf.channels[(255 : Fin 256)].plough with state := BitVec.ofNat 2 st, active := (BitVec.ofNat 64 (2 ^ 32), 0) } } }
theorem witness_memory :
    (Calm (ploughing 0) ∧ Asks (ploughing 0) req owner0 ∧ owner0.role = 0 ∧ serving (ploughing 0) = true
      ∧ (ploughing 0).channels[(255 : Fin 256)].inService = false ∧ (ploughing 0).channels[(255 : Fin 256)].granting = false
      ∧ conf.channels[(255 : Fin 256)].inService = true ∧ (ploughing 0).channels[(255 : Fin 256)].plough.state ≠ 1
      ∧ (BitVec.ofNat 64 (2 ^ 32 + 1)).getLsbD 0 = true
      ∧ bits (75497470 : BitVec 64).toNat 26 0 + (bits (BitVec.ofNat 64 (2 ^ 32 + 1)).toNat 58 32 + 1) ≤ 75497472
      ∧ ¬ bits (75497471 : BitVec 64).toNat 26 0 + (bits (BitVec.ofNat 64 (2 ^ 32 + 1)).toNat 58 32 + 1) ≤ 75497472
      ∧ bits (BitVec.ofNat 64 (2 ^ 32 + 1)).toNat 26 24 < 6 ∧ bits (BitVec.ofNat 64 (2 ^ 32 + 1)).toNat 19 18 ≠ 3)
    ∧ (let g := (ploughing 1).channels[(255 : Fin 256)].plough
       g.state = 1 ∧ bits g.active.1.toNat 19 18 = 0 ∧ bits g.active.1.toNat 23 22 ≤ 1)
    ∧ ((lineOf conf (64 * 7)).map (fun e => e.1) = some (0 : Fin 256).val ∧ inService conf 0 = true ∧ 7 ∉ conf.hbmBad ∧ Calm conf)
    ∧ (0x1000 / 8 ∉ conf.cores[(575 : CoreId)].sramBad ∧ 0x1000 / 8 ∉ conf.bins[(511 : Fin 512)].bad)
    ∧ (let s : State := { conf with reforming := [3] }
       (3 : Fin 4).val ∈ s.reforming ∧ mapOutDue s 3 = false ∧ s.autostart.stage ≤ 2 ∧ (2 : Fin 4).val ∉ s.reforming)
    ∧ (let s : State := { conf with
         reforming := [3], health := { conf.health with pending := [healthEntry conf.mod.startCount 0 1 (12 * 16)] } }
       (3 : Fin 4).val ∈ s.reforming ∧ mapOutDue s 3 = true)
    ∧ ((member fresh).plans[(0 : Fin 16)] = some fresh) := by
  unfold Calm Asks; decide +kernel

/-- The example of 08: window offset 0x7D00_1234 with all channels, with HS04.C00 mapped out, and in window 1 of home mode. -/
def packaged (s : State) : State := { s with cfg := memWrite 0 s.cfg 8 [1] }
theorem test_channel_mapping : lineOf (packaged conf) 0x7D001234 = some (64, 128008)
    ∧ lineOf (packaged { conf with channels := conf.channels.set 64 { conf.channels[(64 : Fin 256)] with inService := false, granting := false } })
        0x7D001234 = some (6 * 16 + 13, 128456)
    ∧ lineOf conf (windowSpan + 0x7D001234) = some (5 * 16, 512008) := by decide +kernel

/-- Core 1 is mapped, core 2 is a spare of its die; core 0 runs the plan. -/
def sparing : State :=
  { ready with
    coreMap := ((((Vector.replicate 576 .spare).set 0 (.mapped 0)).set 1 (.mapped 1)).set 2 .spare).set 3 .fenced
    logicalCount := 4 }
def sub0 : Substitution := ⟨0, 2, 0, 0⟩
theorem witness_fences :
    (Calm sparing ∧ serving sparing = true ∧ sparing.coreMap[(1 : CoreId)] = .mapped 1 ∧ sparing.coreMap[(0 : CoreId)] = .mapped 0
      ∧ spareOn sparing (dieOf 1) = some 2 ∧ sparing.cores[(1 : CoreId)].plan = none ∧ sparing.cores[(0 : CoreId)].plan = some 0
      ∧ sparing.plans[(0 : Fin 16)] = some plan0 ∧ sparing.cores[(0 : CoreId)].run = .running ∧ plan0.stepOpen = true ∧ plan0.attempt = 0
      ∧ plan0.voteSent = false ∧ plan0.earlySent = false ∧ plan0.members ≤ 1 ∧ plan0.twinStop = none ∧ plan0.teardownCause = none
      ∧ (∀ e ∈ plan0.img.cartOwner, e.2 ≠ sparing.cores[(0 : CoreId)].planCore) ∧ sparing.coreMap[(3 : CoreId)] = .fenced
      ∧ sparing.cores[(0 : CoreId)].sramCorrected.2 < 4096 ∧ sparing.coreMap[(2 : CoreId)] = .spare ∧ sparing.subs = [] ∧ sparing.cores[(2 : CoreId)].plan = none
      ∧ sparing.mod.startStep = 10)
    ∧ (let s : State := { sparing with subs := [sub0] }
       s.subs = [sub0] ∧ s.cores[(0 : CoreId)].sramBad = [] ∧ (0 : CoreId) ≠ 2
         ∧ ({ s with cores := (voted plan0).cores } : State).cores[(0 : CoreId)].castVote = true)
    ∧ (sparing.host.up = true ∧ linkDown.host.up = false) := by
  unfold Calm; decide +kernel
theorem witness_spares : supports sparing sparing.logicalCount = true ∧ sparing.logicalCount / 4 < (usableOn sparing (dieOf 2)).length := by
  decide +kernel

def later : State := { conf with bell := 2500000000 }
theorem witness_summaries :
    (Calm later ∧ serving later = true ∧ later.counting.correctedStart + 1000000000 ≤ later.bell ∧ (∀ n : Fin 7, later.counting.corrected[n] = 0)
      ∧ later.adm.secondStart + 1000000000 ≤ later.bell ∧ later.adm.byCode = [] ∧ later.endpoint.dropStart + 1000000000 ≤ later.bell
      ∧ later.endpoint.drops = [])
    ∧ (let s : State := { later with bell := 999999999 }
       s.bell < s.counting.correctedStart + 1000000000 ∧ s.bell < s.adm.secondStart + 1000000000 ∧ s.bell < s.endpoint.dropStart + 1000000000)
    ∧ (let s : State := { later with
         counting := { later.counting with corrected := later.counting.corrected.set 6 1 }
         adm := { later.adm with byCode := [(0x1001, 3)], byRing := [(5, 3)] }
         endpoint := { later.endpoint with drops := [(1, 7, 2)] } }
       (∃ n : Fin 7, s.counting.corrected[n] ≠ 0) ∧ s.adm.byCode = [(0x1001, 3)] ∧ s.adm.byRing = [(5, 3)] ∧ s.endpoint.drops = [(1, 7, 2)])
    ∧ (let s : State := { later with health := { later.health with pending := [7] } }
       s.health.pending ≠ [] ∧ 6 ≤ s.mod.startStep ∧ memWf 0xFF s.flash[(0 : Fin 2)] = true ∧ memWf 0xFF s.flash[(1 : Fin 2)] = true
         ∧ (healthBytes { s.health with generation := s.health.generation + 1, entries := s.health.entries ++ s.health.pending, pending := [] }).length
             ≤ 0x20000)
    ∧ later.health.pending = [] := by
  unfold Calm; decide +kernel

def startFacts (power reference : Bool) : StartFacts := ⟨power, reference, 0xF, [], [], 900, 0, 1⟩
def starting (step code : Nat) : State :=
  { conf with mod := { conf.mod with state := .starting, startStep := step, failCode := code }, host := { conf.host with up := false } }
theorem witness_starts :
    (State.reset.mod.state = .off ∧ State.reset.mod.failCode = 0 ∧ State.reset.power.fuseOpen = false ∧ State.reset.power.dark = false)
    ∧ ((starting 1 0).mod.state = .starting ∧ (starting 1 0).mod.startStep ≤ 1 ∧ (starting 1 0).mod.failCode = 0)
    ∧ ((startFacts false true).powerOk = false ∧ (startFacts true false).referenceOk = false ∧ (startFacts true true).referenceOk = true)
    ∧ ((starting 3 8).mod.state = .starting ∧ (starting 3 8).mod.failCode = 8)
    ∧ (Calm (starting 8 0) ∧ (starting 8 0).mod.startStep = 8 ∧ (starting 8 0).host.up = false ∧ cfgAutostart (starting 8 0) = false)
    ∧ conf.mod.state ≠ .starting := by
  unfold Calm; decide +kernel

/-- The module with every rail at 750 mV, its cap at 900 W. -/
def powered0 : State :=
  { conf with
    adm := { conf.adm with capW := 900 }
    power := { conf.power with rails := .replicate 16 ⟨750, false⟩, surgeTicks := 10, dieStop := .replicate 64 9, stackStop := .replicate 16 9 } }
/-- A reading of the core rails' lowest voltage `vf` and the input power `w`. -/
def reading (vf w1 w5 now : Nat) : PowerReading :=
  ⟨.replicate 32 0, .replicate 4 (BitVec.ofNat 16 vf), 0, 0, BitVec.ofNat 16 w1, BitVec.ofNat 16 w5, BitVec.ofNat 16 now, .replicate 16 0, .replicate 16 0⟩
theorem witness_power :
    powered0.power.inputOk = true ∧ Calm powered0 ∧ serving powered0 = true ∧ powered0.mod.startStep = 10
    ∧ 4300 < (reading 700 901 3600 4301).inputWNow.toNat ∧ 10 ≤ powered0.power.surgeTicks
    ∧ (reading 700 901 3600 4300).inputW5ms.toNat ≤ 3600 ∧ (reading 700 901 3600 4300).inputWNow.toNat ≤ 4300
    ∧ powered0.adm.capW < (reading 700 901 3600 4300).inputW1ms.toNat
    ∧ (∀ r : Fin 16, powered0.power.rails[r].mv ≠ 0 ∧ 550 ≤ powered0.power.rails[r].mv ∧ powered0.power.rails[r].mv ≤ 850)
    ∧ (∀ f ∈ [691, 741, 750], ((reading f 901 0 0).vf[(3 : Fin 4)].toNat + 9) / 10 * 10 ≤ 750)
    ∧ (∀ d : Fin 64, 9 ≤ powered0.power.dieStop[d]) ∧ (∀ k : Fin 16, 9 ≤ powered0.power.stackStop[k])
    ∧ 16 * 115 < (1841 : BitVec 16).toInt ∧ 16 * 105 < (1681 : BitVec 16).toInt ∧ (1840 : BitVec 16).toInt ≤ 16 * 115
    ∧ (1632 : BitVec 16).toInt ≤ 16 * 102 ∧ (1760 : BitVec 16).toInt ≤ 16 * 110 ∧ 16 * 110 < (1761 : BitVec 16).toInt
    ∧ 16 * 95 ≤ (1520 : BitVec 16).toInt ∧ 16 * 85 ≤ (1360 : BitVec 16).toInt ∧ (1359 : BitVec 16).toInt < 16 * 85
    ∧ (∀ e : Fin 256, powered0.channels[e].refresh = 0)
    ∧ powered0.adm.railThermal = false ∧ powered0.adm.stackHot = false := by
  unfold Calm; decide +kernel
theorem test_power_tick : next (.powerManagerTick (reading 691 901 3600 4300)) powered0
    (fun t => t.power.rails[(0 : Fin 16)].mv == 740 && t.power.rails[(4 : Fin 16)].mv == 750) = true := by decide +kernel
theorem test_dip : next (.inputDip 501) powered0 (fun t => t.power.flags == powered0.power.flags) = true
    ∧ next (.inputDip 500) powered0 (fun t => t.power.flags == powered0.power.flags ||| 4) = true := by decide +kernel

theorem witness_test_access : powered0.power.inputOk = true ∧ powered0.tap.debugOpen = false ∧ State.reset.power.inputOk = false
    ∧ (starting 3 0).mod.startStep < 10 ∧ 3 ≤ (starting 3 0).mod.startStep ∧ 10 ≤ powered0.mod.startStep := by decide +kernel
/-- The state of a module whose debug is open. -/
def debugging : State := { powered0 with tap := { powered0.tap with debugOpen := true } }
theorem witness_vendor_debug : debugging.power.inputOk = true ∧ debugging.tap.debugOpen = true
    ∧ 0x20 ≤ (0x20 : BitVec 8).toNat ∧ (0xFE : BitVec 8).toNat ≤ 0xFE := by decide +kernel
theorem test_idcode : next .idcode { powered0 with mod := { powered0.mod with stepping := 1 } } (fun t => t.tap.tdo == (32, 0x1641656B)) = true := by
  decide +kernel

/-! ### The whole block -/

theorem witness_step : (ready.withCommand (.cNop 0)).pending = [.cNop 0] ∧ ready.pending = [] ∧ ready.bellRunning = true
    ∧ State.reset.pending = [] ∧ State.reset.bellRunning = false := by decide +kernel
theorem test_step_order : (match step { ready with pending := [.cNop 0, .cHarv 0 (cf 0 0 0)] } with
    | .next t => t.cores[0].bundle == 101 && t.pending == [.cHarv 0 (cf 0 0 0)]
    | _ => false) = true := by decide +kernel
theorem witness_invariant : Inv State.reset := by
  refine ⟨rfl, rfl, fun c => ?_, fun b => ?_, fun d => ?_⟩
  · have e : State.reset.cores[c] = Core.reset := Vector.getElem_replicate _
    rw [e]; exact ⟨rfl, Nat.le_refl _⟩
  · have e : State.reset.bins[b] = Bin.reset := Vector.getElem_replicate _
    rw [e]; rfl
  · have e : State.reset.flash[d] = [] := Vector.getElem_replicate _
    rw [e]; rfl
theorem witness_encoding : (Instr.cAdd 7 ⟨3, 1, 2, true, 0, false, 0, 0⟩).wellFormed = true
    ∧ encode (.cAdd 7 ⟨3, 1, 2, true, 0, false, 0, 0⟩) = some 0x0118450000000000
    ∧ slotOf (.cAdd 7 ⟨3, 1, 2, true, 0, false, 0, 0⟩) = some .c := by decide

end Sys2Proof.Tests
end

section
/-! SUPPORT. What a step's end changes: a relation that says of a plan's cores and sequence slots what becomes of them and
leaves the memories alone, composed of one lemma for each update, and what the module reports beside it. -/

namespace Sys2Proof.Machine
open Sys2Proof

/-! ### The stages of a step's end -/

/-- From `s` to `t` the cores of plan `i` go through `f`, its sequence slots through `g`, and its entry becomes `q`; other
cores, slots and plans and every memory stay. -/
structure Became (i : Fin 16) (f : Core → Core) (g : SeqSlot → SeqSlot) (s t : State) (q : Plan) : Prop where
  cores : ∀ c : CoreId, t.cores[c] = if s.cores[c].plan = some i then f s.cores[c] else s.cores[c]
  slots : ∀ x : Fin 64, t.seqSlots[x] = if s.seqSlots[x].plan = some i then g s.seqSlots[x] else s.seqSlots[x]
  plans : t.plans = s.plans.set i (some q)
  corePlan : ∀ c : CoreId, t.cores[c].plan = s.cores[c].plan
  slotPlan : ∀ x : Fin 64, t.seqSlots[x].plan = s.seqSlots[x].plan
  memory : t.hbm = s.hbm ∧ t.bins = s.bins
  around : t.bell = s.bell ∧ t.coreMap = s.coreMap ∧ t.subs = s.subs ∧ t.domain = s.domain

/-- The same, the journal gaining at most `n` records: one stage of a step's end. -/
structure Stepped (n : Nat) (i : Fin 16) (f : Core → Core) (g : SeqSlot → SeqSlot) (s t : State) (q : Plan) : Prop
    extends Became i f g s t q where
  journal : t.journal.mode = s.journal.mode ∧ t.journal.records.length ≤ s.journal.records.length + n

/-- Apply to every sequence slot held by a plan. -/
def State.modSlots (s : State) (i : Fin 16) (g : SeqSlot → SeqSlot) : State :=
  { s with seqSlots := s.seqSlots.map (fun k => if k.plan = some i then g k else k) }

/-- The collectives that the module holds, replaced. -/
def State.withColls (s : State) (l : List Coll) : State := { s with colls := l }

section
variable {m n : Nat} {i : Fin 16} {f f' : Core → Core} {g g' : SeqSlot → SeqSlot} {s u t : State} {p q : Plan}

theorem Became.plan (h : Became i f g s t q) : t.plans[i] = some q := by
  rw [h.plans]; simp

theorem Stepped.trans (h : Stepped m i f g s u p) (h' : Stepped n i f' g' u t q) :
    Stepped (m + n) i (f' ∘ f) (g' ∘ g) s t q where
  cores c := by
    rw [h'.cores, h.corePlan, h.cores]
    split <;> rfl
  slots x := by
    rw [h'.slots, h.slotPlan, h.slots]
    split <;> rfl
  plans := by rw [h'.plans, h.plans, Vector.set_set]
  corePlan c := (h'.corePlan c).trans (h.corePlan c)
  slotPlan x := (h'.slotPlan x).trans (h.slotPlan x)
  memory := ⟨h'.memory.1.trans h.memory.1, h'.memory.2.trans h.memory.2⟩
  around := by
    obtain ⟨b, m, u, d⟩ := h.around
    obtain ⟨b', m', u', d'⟩ := h'.around
    exact ⟨b'.trans b, m'.trans m, u'.trans u, d'.trans d⟩
  journal := by
    obtain ⟨hm, hl⟩ := h.journal
    obtain ⟨hm', hl'⟩ := h'.journal
    exact ⟨hm'.trans hm, by omega⟩

/-- What a step's end does not look at: units, outputs, and what the module reports. -/
theorem stepped_aside (hp : s.plans[i] = some p)
    (h : t = { s with carts := t.carts, recks := t.recks, colls := t.colls, controlSeq := t.controlSeq, out := t.out,
                      journal := t.journal, counting := t.counting, free := t.free })
    (hj : t.journal.mode = s.journal.mode ∧ t.journal.records.length ≤ s.journal.records.length + n) :
    Stepped n i id id s t p where
  cores c := by rw [h]; simp
  slots x := by rw [h]; simp
  plans := by rw [h, ← hp]; simp
  corePlan c := by rw [h]
  slotPlan x := by rw [h]
  memory := by rw [h]; exact ⟨rfl, rfl⟩
  around := by rw [h]; exact ⟨rfl, rfl, rfl, rfl⟩
  journal := hj

theorem withColls_stepped (l : List Coll) (hp : s.plans[i] = some p) : Stepped 0 i id id s (s.withColls l) p :=
  stepped_aside hp rfl ⟨rfl, Nat.le_refl _⟩

theorem modPlanCores_stepped (f : Core → Core) (hf : ∀ k, (f k).plan = k.plan) (hp : s.plans[i] = some p) :
    Stepped 0 i f id s (s.modPlanCores i f) p where
  cores c := by simp
  slots x := by simp
  plans := by simp [← hp]
  corePlan c := by
    simp only [State.modPlanCores_cores, Fin.getElem_fin, Vector.getElem_map]
    split
    · exact hf _
    · rfl
  slotPlan _ := rfl
  memory := ⟨rfl, rfl⟩
  around := ⟨rfl, rfl, rfl, rfl⟩
  journal := ⟨rfl, Nat.le_refl _⟩

theorem modSlots_stepped (g : SeqSlot → SeqSlot) (hg : ∀ k, (g k).plan = k.plan) (hp : s.plans[i] = some p) :
    Stepped 0 i id g s (s.modSlots i g) p where
  cores c := by simp [State.modSlots]
  slots x := by simp [State.modSlots]
  plans := by simp [State.modSlots, ← hp]
  corePlan _ := rfl
  slotPlan x := by
    simp only [State.modSlots, Fin.getElem_fin, Vector.getElem_map]
    split
    · exact hg _
    · rfl
  memory := ⟨rfl, rfl⟩
  around := ⟨rfl, rfl, rfl, rfl⟩
  journal := ⟨rfl, Nat.le_refl _⟩

theorem modPlan_stepped (f : Plan → Plan) (hp : s.plans[i] = some p) : Stepped 0 i id id s (s.modPlan i f) (f p) where
  cores c := by simp
  slots x := by simp
  plans := by rw [State.modPlan_plans, hp]; rfl
  corePlan _ := rfl
  slotPlan _ := rfl
  memory := ⟨rfl, rfl⟩
  around := ⟨rfl, rfl, rfl, rfl⟩
  journal := ⟨rfl, Nat.le_refl _⟩

theorem Became.sameMemory (h : Became i f g s t q) (hf : ∀ k, (f k).sram = k.sram) : SameMemory s t := by
  obtain ⟨hhbm, hbins⟩ := h.memory
  refine ⟨fun a => by rw [hhbm], fun c a => ?_, fun b a => by rw [hbins]⟩
  rw [h.cores]
  split
  · rw [hf]
  · rfl

theorem Stepped.room (h : Stepped n i f g s t q) (hc : Calm s) (hn : n ≤ 250) : Room t := by
  obtain ⟨hm, hl⟩ := h.journal
  obtain ⟨cm, cl⟩ := hc
  exact ⟨hm.trans cm, by omega⟩

/-! ### What is reported beside it -/

theorem Noted.cores (h : Noted u t) : t.cores = u.cores := by rw [h.1]
theorem Noted.seqSlots (h : Noted u t) : t.seqSlots = u.seqSlots := by rw [h.1]
theorem Noted.plans (h : Noted u t) : t.plans = u.plans := by rw [h.1]
theorem Noted.carts (h : Noted u t) : t.carts = u.carts := by rw [h.1]
theorem Noted.recks (h : Noted u t) : t.recks = u.recks := by rw [h.1]
theorem Noted.out (h : Noted u t) : t.out = u.out := by rw [h.1]

/-- What the module reports by itself is no part of what a step's end does. -/
theorem Became.noted (h : Became i f g s u q) (hN : Noted u t) : Became i f g s t q where
  cores := by rw [hN.cores]; exact h.cores
  slots := by rw [hN.seqSlots]; exact h.slots
  plans := by rw [hN.plans]; exact h.plans
  corePlan := by rw [hN.cores]; exact h.corePlan
  slotPlan := by rw [hN.seqSlots]; exact h.slotPlan
  memory := by rw [hN.1]; exact h.memory
  around := by rw [hN.1]; exact h.around

/-- An event of a module in service that ends a step so. -/
theorem happen_stepped {body : State → State} (hc : Calm s) (hs : serving s = true) (hn : n ≤ 250)
    (h : Stepped n i f g s (body s) q) : ∃ t, happen s body = .next t ∧ Noted (body s) t ∧ Became i f g s t q := by
  obtain ⟨t, ht, hN⟩ := happen_noted s body hs (h.room hc hn)
  exact ⟨t, ht, hN, h.noted hN⟩

/-- An event that changes nothing is not reported. -/
theorem attend_self (s : State) : attend s s = s := by
  have job (i : Fin 16) (r : State) : attendJob s.plans[i] s.plans[i] r = r := by simp [attendJob, attentionIf]
  have plan (i : Fin 16) (r : State) : attendPlan i s.plans[i] s.plans[i] r = r := by
    unfold attendPlan
    cases s.plans[i] <;> simp [attentionIf]
  simp only [attend, job, plan]
  simp [attentionIf, instanceFields]

/-- `t` is `s` after at most `n` records of the journal, counts on the control die, free values taken, and the outputs
`o`. -/
def Reported (n : Nat) (o : List Out) (s t : State) : Prop :=
  t = { s with journal := t.journal, counting := t.counting, free := t.free, out := s.out ++ o }
  ∧ t.journal.mode = s.journal.mode ∧ t.journal.records.length ≤ s.journal.records.length + n

theorem Reported.stepped {o : List Out} (h : Reported n o s t) (hp : s.plans[i] = some p) : Stepped n i id id s t p := by
  obtain ⟨e, hj⟩ := h
  exact stepped_aside hp (by rw [e]) hj

theorem Reported.plans {o : List Out} (h : Reported n o s t) : t.plans = s.plans := by rw [h.1]

theorem Reported.trans {o o' : List Out} (h : Reported m o s u) (h' : Reported n o' u t) : Reported (m + n) (o ++ o') s t := by
  obtain ⟨e, hm, hl⟩ := h
  obtain ⟨e', hm', hl'⟩ := h'
  refine ⟨?_, hm'.trans hm, by omega⟩
  rw [e', e]
  simp

theorem reported_refl (s : State) : Reported 0 [] s s := ⟨by simp, rfl, Nat.le_refl _⟩

theorem countControl_reported (s : State) (event k : Nat) : Reported 0 [] s (countControl s event k) :=
  ⟨by simp [countControl], rfl, Nat.le_refl _⟩

theorem takeFree_reported (s : State) : Reported 0 [] s (takeFree s).2 := ⟨by simp [takeFree], rfl, Nat.le_refl _⟩

theorem freezeLatch_reported (s : State) : Reported 0 [] s (freezeLatch s) := by
  unfold freezeLatch
  split
  · split
    · exact ⟨by simp, rfl, Nat.le_refl _⟩
    · exact reported_refl s
  · exact reported_refl s

theorem emit_reported (s : State) (o : Out) : Reported 0 [o] s (s.emit o) := ⟨rfl, rfl, Nat.le_refl _⟩

theorem foldl_emit_reported {α : Type} (o : α → Out) (l : List α) (s : State) :
    Reported 0 (l.map o) s (l.foldl (fun s a => s.emit (o a)) s) := by
  induction l generalizing s with
  | nil => exact reported_refl s
  | cons a l ih => exact (emit_reported s (o a)).trans (ih _)

/-- A journal that stands `n` records into the margin of a calm one takes another. -/
theorem journalPlan_reported {o : List Out} (hc : Calm s) (h : Reported n o s u) (hn : n ≤ 200) (i : Fin 16) (type : Nat)
    (b : Bytes) : Reported (n + 2) o s (journalPlan u i type b) := by
  obtain ⟨hm, hl⟩ := h.2
  obtain ⟨cm, cl⟩ := hc
  have raw (job member k : Nat) : Reported 2 [] u (journalRaw u type job member k b) := by
    obtain ⟨l, c, ch, cps, n', f, hlen, e⟩ := journalRaw_spec u type job member k b (hm.trans cm) (by omega)
    rw [e]
    exact ⟨by simp, (hm.trans cm).symm, by simp [hlen]⟩
  have both : Reported 2 [] u (journalPlan u i type b) := by
    unfold journalPlan
    split <;> exact raw ..
  simpa using h.trans both

end
end Sys2Proof.Machine
end

section
/-! SUPPORT. The ends of a step: a job fault, the open of an attempt, a commit, a replay and its reopening, and the result
that brings them. -/

namespace Sys2Proof.Machine
open Sys2Proof

section
variable {n : Nat} {i : Fin 16} {s u : State} {p : Plan} {o : List Out}

/-! ### A job fault (13 R308, R309) -/

/-- The plan's entry once its job is fenced for a cause. -/
def Plan.fenced (p : Plan) (cause : Nat) (bell : Bell) : Plan :=
  { p with jobState := if p.jobId = 0 then p.jobState else .fenced, teardownCause := some cause, teardownBell := bell,
           stepOpen := false, goHeld := false, reopenBell := none }

theorem fenceJob_stepped (cause : Nat) (hp : s.plans[i] = some p) (ht : p.teardownCause = none) :
    Stepped 0 i Core.stop id s (fenceJob s i cause) (p.fenced cause s.bell) := by
  have e : fenceJob s i cause = (stopUnits (s.modPlanCores i Core.stop) i).modPlan i (fun q => q.fenced cause s.bell) := by
    simp [fenceJob, hp, ht, Plan.fenced]
  have cores := modPlanCores_stepped Core.stop (fun _ => rfl) hp
  have units : Stepped 0 i id id (s.modPlanCores i Core.stop) (stopUnits (s.modPlanCores i Core.stop) i) p :=
    stepped_aside cores.plan rfl ⟨rfl, Nat.le_refl _⟩
  rw [e]
  exact (cores.trans units).trans (modPlan_stepped (fun q => q.fenced cause s.bell) units.plan)

theorem fenceJob_out (s : State) (i : Fin 16) (cause : Nat) : (fenceJob s i cause).out = s.out := by
  unfold fenceJob
  split
  · rfl
  · split <;> rfl

/-- A member that raises a job fault after reporting `o`: its memories stay, the job is fenced for the cause, and the reeves
are told after `o`. -/
theorem happen_jobFault {body : State → State} {cause : Nat} (hc : Calm s) (hs : serving s = true) (hp : s.plans[i] = some p)
    (hj : p.jobId ≠ 0) (ht : p.teardownCause = none) (hr : Reported n o s u) (hn : n ≤ 200)
    (hb : body s = jobFault u i cause 0 FaultRec.reset) :
    ∃ t, happen s body = .next t ∧ SameMemory s t
      ∧ (∃ q, t.plans = s.plans.set i (some q) ∧ q.teardownCause = some cause ∧ q.jobState = .fenced ∧ q.step = p.step)
      ∧ t.out = s.out ++ o ++ [.control ⟨reeves s, 0x20, p.jobId, nextControl s p.jobId, cause, []⟩] := by
  have hu : u.plans[i] = some p := by rw [hr.plans, hp]
  obtain ⟨v, hv, e⟩ : ∃ v, Reported (n + 2) o s v
      ∧ jobFault u i cause 0 FaultRec.reset = fenceJob (sendControl v (reeves v) 0x20 p.jobId cause []) i cause :=
    ⟨_, journalPlan_reported hc hr hn i _ _, by simp only [jobFault, hu, ht, hj]; rfl⟩
  have told : Stepped 0 i id id v (sendControl v (reeves v) 0x20 p.jobId cause []) p :=
    stepped_aside (hv.stepped hp).plan rfl ⟨rfl, Nat.le_refl _⟩
  have whole := ((hv.stepped hp).trans told).trans (fenceJob_stepped cause told.plan ht)
  rw [← e, ← hb] at whole
  obtain ⟨t, hx, hN, hB⟩ := happen_stepped hc hs (by omega) whole
  refine ⟨t, hx, hB.sameMemory (fun _ => rfl), ⟨_, hB.plans, rfl, by simp [Plan.fenced, hj], rfl⟩, ?_⟩
  rw [hN.out, hb, e, fenceJob_out, sendControl_out, hv.1]
  rfl

/-! ### The open of an attempt (03 R61, 09 R205) -/

/-- A core at the open of an attempt of a class. -/
def Core.opened (p : Plan) (cls att : Nat) (k : Core) : Core := (k.openStep.sitOut p cls).countOpen att

/-- What it does at the open (09 R199, R201). -/
def Core.openedRun (p : Plan) (cls : Nat) (k : Core) : RunState :=
  if k.run = .idle then .idle else if rangeEmpty p cls k.planCore then .sitsOut else .running

theorem opened_eq (p : Plan) (cls att : Nat) (k : Core) :
    k.opened p cls att = { k.openStep with run := k.openedRun p cls, counters := (k.opened p cls att).counters } := by
  by_cases hi : k.run = .idle
  · simp [Core.opened, Core.sitOut, Core.countOpen, Core.openStep, Core.openedRun, hi]
  · by_cases hr : rangeEmpty p cls k.planCore = true
    · simp [Core.opened, Core.sitOut, Core.countOpen, Core.openStep, Core.openedRun, hi, hr]
    · simp [Core.opened, Core.sitOut, Core.countOpen, Core.openStep, Core.openedRun, hi, hr, Core.count]

section
variable (q : Plan) (cls att : Nat) (k : Core)
@[simp] theorem opened_regs : (k.opened q cls att).regs =
    { k.regs with v := .replicate 64 0, t := .replicate 8 0, k := Regs.reset.k } := by rw [opened_eq]; rfl
@[simp] theorem opened_run : (k.opened q cls att).run = k.openedRun q cls := by rw [opened_eq]
@[simp] theorem opened_dc : (k.opened q cls att).dc = k.dc := by rw [opened_eq]; rfl
@[simp] theorem opened_loops : (k.opened q cls att).loops = k.loops := by rw [opened_eq]; rfl
@[simp] theorem opened_bundle : (k.opened q cls att).bundle = k.bundle := by rw [opened_eq]; rfl
@[simp] theorem opened_ckpt : (k.opened q cls att).ckpt = k.ckpt := by rw [opened_eq]; rfl
@[simp] theorem opened_flagsCommitted : (k.opened q cls att).flagsCommitted = k.flagsCommitted := by rw [opened_eq]; rfl
@[simp] theorem opened_flagsStep : (k.opened q cls att).flagsStep = k.flagsStep := by rw [opened_eq]; rfl
@[simp] theorem opened_sram : (k.opened q cls att).sram = k.sram := by rw [opened_eq]; rfl
end

/-- No core of the plan waits for a spare, and no vote has come ahead: nothing stands in the way of an open. -/
def Unhindered (i : Fin 16) (s : State) (p : Plan) : Prop :=
  (∀ c : CoreId, s.cores[c].plan = some i → usable s.coreMap[c] = true) ∧ s.subs = [] ∧ p.heldVotes = []

theorem Unhindered.stepped {f : Core → Core} {g : SeqSlot → SeqSlot} {q : Plan} (h : Unhindered i s p)
    (hS : Stepped n i f g s u q) (hv : q.heldVotes = p.heldVotes) : Unhindered i u q := by
  obtain ⟨usableCores, noSubs, noVotes⟩ := h
  obtain ⟨-, hmap, hsubs, -⟩ := hS.around
  refine ⟨fun c hc => ?_, hsubs.trans noSubs, hv.trans noVotes⟩
  rw [hmap]
  exact usableCores c ((hS.corePlan c).symm.trans hc)

theorem parkFenced_eq (h : ∀ c : CoreId, s.cores[c].plan = some i → usable s.coreMap[c] = true) : parkFenced s i = s := by
  have e : Vector.ofFn (fun c : CoreId =>
      if s.cores[c].plan = some i ∧ !usable s.coreMap[c] ∧ s.cores[c].run ≠ .idle then { s.cores[c] with run := .stopped }
      else s.cores[c]) = s.cores := by
    ext c hc : 1
    rw [Vector.getElem_ofFn, if_neg]
    · rfl
    · rintro ⟨hp, hu, -⟩
      exact absurd (h ⟨c, hc⟩ hp) (by simpa using hu)
  rw [parkFenced, e]

/-- The plan's entry at the open of an attempt: what 09 R198 and R201 say of the new attempt. -/
structure PlanOpened (bell : Bell) (step att : Nat) (q : Plan) : Prop where
  step : q.step = step
  attempt : q.attempt = att
  stepOpen : q.stepOpen = true
  openBell : q.openBell = bell
  reopenBell : q.reopenBell = none
  voteSent : q.voteSent = false
  replayed : q.replayed = (att == 1)

theorem replayHeld_stepped (step att : Nat) (hp : s.plans[i] = some p) (hv : p.heldVotes = []) :
    Stepped 0 i id id s (replayHeld s i step att) p := by
  obtain ⟨w, e⟩ : ∃ w : Bool × Nat × Vote → Bool,
      replayHeld s i step att = s.modPlan i (fun q => { q with heldVotes := q.heldVotes.filter w }) :=
    ⟨_, by simp only [replayHeld, hp, hv, List.filter_nil, List.foldl_nil]; rfl⟩
  have same : ({ p with heldVotes := p.heldVotes.filter w } : Plan) = p := by rw [hv, List.filter_nil, ← hv]
  have h := modPlan_stepped (fun q => { q with heldVotes := q.heldVotes.filter w }) hp
  rw [e]
  rwa [same] at h

/-- The plan's entry at the open of an attempt. -/
def Plan.openedAs (p : Plan) (att cls : Nat) (bell : Bell) (corrupt : Bool) : Plan :=
  { p with
    attempt := att, cls := cls, openBell := bell, stepOpen := true, reopenBell := none, replayed := att == 1,
    voteSent := false, earlySent := false, corruptMark := corrupt, occs := [], ownResult := none, replayCause := 0,
    treeA := { p.treeA with got := [], sent := false }, treeB := { p.treeB with got := [], sent := false },
    highest := max p.highest att, tallies := p.img.tallies.map (fun _ => (0, 0)) }

/-- A plan without a hindrance opens an attempt in four stages: its cores open, some sit out, its entry and its slots follow. -/
theorem openAttempt_eq (att : Nat) (hp : s.plans[i] = some p) (h : Unhindered i s p) :
    ∃ cls corrupt colls,
      let cores := (s.modPlanCores i Core.openStep).modPlanCores i (fun k => (k.sitOut p cls).countOpen att)
      let entry := cores.modPlan i (fun q => q.openedAs att cls s.bell corrupt)
      openAttempt s i att = replayHeld ((entry.modSlots i SeqSlot.openStep).withColls colls) i p.step att := by
  have fence := parkFenced_eq (h.stepped (modPlanCores_stepped Core.openStep (fun _ => rfl) hp) rfl).1
  refine ⟨(openClass p ((planCores (s.modPlanCores i Core.openStep) i).filter (fun k => k.run != .idle))).getD p.cls,
    s.colls.any (fun k => k.plan == i && k.attempt == att && k.bufs.any (·.corrupt)),
    s.colls.filter (fun k => k.plan != i || k.attempt == att), ?_⟩
  unfold openAttempt
  rw [hp]
  dsimp only
  rw [fence, if_neg (by simp [h.2.1])]
  rfl

/-- The open of an attempt: every core of the plan is as `Core.opened` has it, and the sequence slots keep their values for a
replay. -/
theorem openAttempt_stepped (att : Nat) (hp : s.plans[i] = some p) (h : Unhindered i s p) :
    ∃ q, Stepped 0 i (Core.opened p q.cls att) SeqSlot.openStep s (openAttempt s i att) q ∧ PlanOpened s.bell p.step att q := by
  obtain ⟨cls, corrupt, colls, e⟩ := openAttempt_eq att hp h
  have opens := modPlanCores_stepped Core.openStep (fun _ => rfl) hp
  have sits := opens.trans (modPlanCores_stepped (fun k => (k.sitOut p cls).countOpen att)
    (fun k => by simp only [Core.countOpen, Core.sitOut]; split <;> split <;> rfl) opens.plan)
  have entry := sits.trans (modPlan_stepped (fun q => q.openedAs att cls s.bell corrupt) sits.plan)
  have slots := entry.trans (modSlots_stepped SeqSlot.openStep (fun _ => rfl) entry.plan)
  have whole := slots.trans ((withColls_stepped colls slots.plan).trans
    (replayHeld_stepped p.step att slots.plan h.2.2))
  rw [← e] at whole
  exact ⟨p.openedAs att cls s.bell corrupt, whole, ⟨rfl, rfl, rfl, rfl, rfl, rfl, rfl⟩⟩

/-! ### A step that opens again (03 R61; 14 R334) -/

theorem opened_of_img {p q : Plan} (h : q.img = p.img) (cls att : Nat) : Core.opened q cls att = Core.opened p cls att := by
  have ranges : rangeEmpty q = rangeEmpty p := by
    funext cls planCore
    rw [rangeEmpty, h, ← rangeEmpty]
  funext k
  rw [Core.opened, Core.sitOut, ranges, ← Core.sitOut, ← Core.opened]

/-- The plan's entry with the widths of attempt 1. -/
def Plan.widened (p : Plan) (w : BitVec 64) (up : List (Nat × Nat × Nat)) : Plan :=
  { p with widen := w, widenCkpt := w, raised := up, slotWidened := p.slotWidened || !up.isEmpty }

theorem raiseWidths_eq (hp : s.plans[i] = some p) :
    ∃ w up, raiseWidths s i = s.modPlan i (fun q => q.widened w up) := by
  unfold raiseWidths
  rw [hp]
  exact ⟨_, _, rfl⟩

/-- Attempt 1: every core of the plan opens from its checkpoint. -/
theorem reopen_stepped (hp : s.plans[i] = some p) (h : Unhindered i s p) :
    ∃ q, Stepped 0 i (Core.opened p q.cls 1 ∘ Core.restore) SeqSlot.openStep s (reopen s i) q ∧ PlanOpened s.bell p.step 1 q := by
  have restores := modPlanCores_stepped Core.restore (fun _ => rfl) hp
  obtain ⟨w, up, e⟩ := raiseWidths_eq restores.plan
  have widths := restores.trans (modPlan_stepped (fun q => q.widened w up) restores.plan)
  obtain ⟨q, opens, hq⟩ := openAttempt_stepped 1 widths.plan (h.stepped widths rfl)
  rw [opened_of_img (q := p.widened w up) (p := p) rfl] at opens
  have whole := widths.trans opens
  rw [← e] at whole
  exact ⟨q, whole, hq⟩

/-! ### A commit (02 R48; 03 R87; 09 R205) -/

theorem mem_planCores {k : Core} : k ∈ planCores s i ↔ ∃ c : CoreId, s.cores[c] = k ∧ k.plan = some i := by
  simp only [planCores, List.mem_filter, Vector.mem_toList_iff, Vector.mem_iff_getElem, beq_iff_eq]
  constructor
  · rintro ⟨⟨c, hc, rfl⟩, hi⟩
    exact ⟨⟨c, hc⟩, rfl, hi⟩
  · rintro ⟨c, rfl, hi⟩
    exact ⟨⟨c.val, c.isLt, rfl⟩, hi⟩

theorem journalRatios_none (ks : List Core) (h : ∀ k ∈ ks, k.ratioLost = false) : journalRatios s i p ks [] = s := by
  have noneLost : ks.filter (·.ratioLost) = [] := List.filter_eq_nil_iff.mpr (fun k hk => by simp [h k hk])
  simp [journalRatios, noneLost]

theorem journalWidened_reported (hc : Calm s) : Reported 2 [] s (journalWidened s i p) := by
  unfold journalWidened
  split
  · exact journalPlan_reported hc (reported_refl s) (by omega) i _ _
  · exact ⟨by simp, rfl, by omega⟩

theorem reportTally_stepped (v : Vote) (hp : s.plans[i] = some p) : Stepped 0 i id id s (reportTally s p v) p := by
  unfold reportTally
  split
  · exact stepped_aside hp rfl ⟨rfl, Nat.le_refl _⟩
  · exact stepped_aside hp rfl ⟨rfl, Nat.le_refl _⟩

/-- The plan's entry once a step has committed, with its history and requests after it. -/
def Plan.recorded (p : Plan) (history : List TallyRec) (requests : List Req) : Plan :=
  { p with history := history, widenCkpt := p.widen, raised := [], requests := requests }

@[simp] theorem Plan.recorded_img (p : Plan) (l : List TallyRec) (r : List Req) : (p.recorded l r).img = p.img := rfl
@[simp] theorem Plan.recorded_step (p : Plan) (l : List TallyRec) (r : List Req) : (p.recorded l r).step = p.step := rfl
@[simp] theorem Plan.recorded_heldVotes (p : Plan) (l : List TallyRec) (r : List Req) :
    (p.recorded l r).heldVotes = p.heldVotes := rfl
@[simp] theorem Plan.recorded_teardownCause (p : Plan) (l : List TallyRec) (r : List Req) :
    (p.recorded l r).teardownCause = p.teardownCause := rfl

/-- The entry as its next step opens. -/
def Plan.atStep (q : Plan) (step : Nat) : Plan :=
  { q with step := step, attempt := 0, highest := 0, foundBy := (false, false), corruptMark := false }

@[simp] theorem Plan.atStep_img (p : Plan) (n : Nat) : (p.atStep n).img = p.img := rfl
@[simp] theorem Plan.atStep_step (p : Plan) (n : Nat) : (p.atStep n).step = n := rfl
@[simp] theorem Plan.atStep_heldVotes (p : Plan) (n : Nat) : (p.atStep n).heldVotes = p.heldVotes := rfl
@[simp] theorem Plan.atStep_teardownCause (p : Plan) (n : Nat) : (p.atStep n).teardownCause = p.teardownCause := rfl

/-- What a commit without a finding of the ratio monitor records. -/
def commitRecorded (s : State) (i : Fin 16) (p : Plan) (v : Vote) : State :=
  (((reportTally (journalWidened s i p) p v).modPlanCores i Core.commitStep).modSlots i SeqSlot.commitStep).modPlan i
    (fun q => q.recorded (addHistory q.history (tallyEntries q)) (q.requests.map (Req.stepDone p)))

theorem commitSlot_plan (k : SeqSlot) : k.commitStep.plan = k.plan := by
  unfold SeqSlot.commitStep
  split <;> rfl

theorem commitRecorded_stepped (v : Vote) (hc : Calm s) (hp : s.plans[i] = some p) :
    ∃ l r, Stepped 2 i Core.commitStep SeqSlot.commitStep s (commitRecorded s i p v) (p.recorded l r) := by
  have widened := (journalWidened_reported (i := i) (p := p) hc).stepped hp
  have told := widened.trans (reportTally_stepped v widened.plan)
  have cores := told.trans (modPlanCores_stepped Core.commitStep (fun _ => rfl) told.plan)
  have slots := cores.trans (modSlots_stepped SeqSlot.commitStep commitSlot_plan cores.plan)
  exact ⟨_, _, slots.trans (modPlan_stepped
    (fun q => q.recorded (addHistory q.history (tallyEntries q)) (q.requests.map (Req.stepDone p))) slots.plan)⟩

theorem nextStep_stepped (hp : s.plans[i] = some p) : Stepped 0 i id id s (nextStep s i) (p.atStep ((p.step + 1) % 2 ^ 32)) :=
  have colls := withColls_stepped (s.colls.filter (fun k => k.plan != i)) hp
  colls.trans (modPlan_stepped (fun q => q.atStep ((q.step + 1) % 2 ^ 32)) colls.plan)

/-- What follows a commit without a finding: the slot ends with its cores' programs, or the next step opens. -/
def afterCommit (w : State) (i : Fin 16) : State :=
  let ends := (planCores w i).all (fun k => k.run == .idle)
  let u := nextStep (if ends then endSlot w i else w) i
  match u.plans[i] with
  | some q => if ends || q.teardownCause.isSome then u else openAttempt u i 0
  | none => u

theorem commitStep_eq (v : Vote) (hp : s.plans[i] = some p) (hr : p.img.ratios = [])
    (hl : ∀ c : CoreId, s.cores[c].plan = some i → s.cores[c].ratioLost = false) :
    commitStep s i v = afterCommit (commitRecorded s i p v) i := by
  have noFinding : ratioFindings p (planCores s i) = [] := by simp [ratioFindings, hr]
  have monitored : journalRatios (journalWidened s i p) i p (planCores s i) [] = journalWidened s i p :=
    journalRatios_none _ (fun k hk => by
      obtain ⟨c, rfl, hi⟩ := mem_planCores.mp hk
      exact hl c hi)
  unfold commitStep
  rw [hp]
  dsimp only
  rw [noFinding, monitored]
  rfl

theorem afterCommit_opens (hp : s.plans[i] = some p) (ht : p.teardownCause = none)
    (hv : ∃ c : CoreId, s.cores[c].plan = some i ∧ s.cores[c].run ≠ .idle) :
    afterCommit s i = openAttempt (nextStep s i) i 0 := by
  obtain ⟨c, hi, hrun⟩ := hv
  have goesOn : (planCores s i).all (fun k => k.run == .idle) = false :=
    List.all_eq_false.mpr ⟨_, mem_planCores.mpr ⟨c, rfl, hi⟩, by simpa using hrun⟩
  unfold afterCommit
  rw [goesOn]
  dsimp only
  rw [if_neg Bool.false_ne_true, (nextStep_stepped hp).plan]
  simp [ht]

/-- While a core has more of its program to run, a commit opens the next step. -/
theorem commitStep_stepped (v : Vote) (hc : Calm s) (hp : s.plans[i] = some p) (ht : p.teardownCause = none)
    (hr : p.img.ratios = []) (hl : ∀ c : CoreId, s.cores[c].plan = some i → s.cores[c].ratioLost = false)
    (hv : ∃ c : CoreId, s.cores[c].plan = some i ∧ s.cores[c].run = .voted) (h : Unhindered i s p) :
    ∃ q, Stepped 2 i (Core.opened p q.cls 0 ∘ Core.commitStep) (SeqSlot.openStep ∘ SeqSlot.commitStep) s
        (commitStep s i v) q ∧ PlanOpened s.bell ((p.step + 1) % 2 ^ 32) 0 q := by
  obtain ⟨l, r, recorded⟩ := commitRecorded_stepped v hc hp
  have goesOn : ∃ c : CoreId, (commitRecorded s i p v).cores[c].plan = some i
      ∧ (commitRecorded s i p v).cores[c].run ≠ .idle := by
    obtain ⟨c, hi, hrun⟩ := hv
    refine ⟨c, (recorded.corePlan c).trans hi, ?_⟩
    rw [recorded.cores, if_pos hi]
    simp only [Core.commitStep, hrun]
    decide
  have passed := recorded.trans (nextStep_stepped recorded.plan)
  obtain ⟨q, opens, hq⟩ := openAttempt_stepped 0 passed.plan (h.stepped passed (by simp))
  rw [opened_of_img (p := p) (by simp)] at opens
  have whole := passed.trans opens
  rw [← afterCommit_opens recorded.plan (by simpa using ht) goesOn, ← commitStep_eq v hp hr hl] at whole
  rw [passed.around.1, Plan.atStep_step, Plan.recorded_step] at hq
  exact ⟨q, whole, hq⟩

/-! ### A replay (09 R205, R211) -/

theorem journalReplayed_reported (early : Bool) (hc : Calm s) : Reported 2 [] s (journalReplayed s i p early) := by
  have taken : Reported 0 [] s (takeFree s).2 := takeFree_reported s
  have twice : Reported 0 [] s (takeFree (takeFree s).2).2 := taken.trans (takeFree_reported _)
  obtain ⟨u, b, hu, e⟩ : ∃ u b, Reported 0 [] s u ∧ journalReplayed s i p early = journalPlan u i 0x0401 b := by
    unfold journalReplayed
    cases hv : firstVoter p with
    | none => exact ⟨_, _, twice, rfl⟩
    | some m =>
      by_cases hm : m = p.member
      · simp only [hm, if_true]
        exact ⟨_, _, reported_refl s, rfl⟩
      · simp only [Option.some.injEq, hm, if_false]
        exact ⟨_, _, taken, rfl⟩
  rw [e]
  exact journalPlan_reported hc hu (by omega) i _ _

/-- The plan's entry for a replay: the widths of its checkpoint. -/
def Plan.rewound (p : Plan) (requests : List Req) : Plan := { p with widen := p.widenCkpt, requests := requests }

/-- The entry of a plan that awaits REOPEN_BELL. -/
def Plan.awaiting (p : Plan) (bell : Bell) : Plan := { p with stepOpen := false, reopenBell := some bell }

@[simp] theorem Plan.rewound_img (p : Plan) (r : List Req) : (p.rewound r).img = p.img := rfl
@[simp] theorem Plan.rewound_heldVotes (p : Plan) (r : List Req) : (p.rewound r).heldVotes = p.heldVotes := rfl
@[simp] theorem Plan.rewound_step (p : Plan) (r : List Req) : (p.rewound r).step = p.step := rfl
@[simp] theorem Plan.rewound_attempt (p : Plan) (r : List Req) : (p.rewound r).attempt = p.attempt := rfl
@[simp] theorem Plan.awaiting_stepOpen (p : Plan) (b : Bell) : (p.awaiting b).stepOpen = false := rfl
@[simp] theorem Plan.awaiting_reopenBell (p : Plan) (b : Bell) : (p.awaiting b).reopenBell = some b := rfl
@[simp] theorem Plan.awaiting_attempt (p : Plan) (b : Bell) : (p.awaiting b).attempt = p.attempt := rfl

/-- What every first replay records. -/
def replayRecorded (s : State) (i : Fin 16) (p : Plan) (early : Bool) : State :=
  ((journalReplayed s i p early).modPlan i (fun q => q.rewound p.requests)).modSlots i SeqSlot.replayStep

theorem replayRecorded_stepped (early : Bool) (hc : Calm s) (hp : s.plans[i] = some p) :
    Stepped 2 i id SeqSlot.replayStep s (replayRecorded s i p early) (p.rewound p.requests) := by
  have told := (journalReplayed_reported (i := i) (p := p) early hc).stepped hp
  have entry := told.trans (modPlan_stepped (fun q => q.rewound p.requests) told.plan)
  exact entry.trans (modSlots_stepped SeqSlot.replayStep (fun _ => rfl) entry.plan)

/-- A core at an early replay's result: its local operations go on, and what it has issued is forgotten. -/
def Core.cut (k : Core) : Core := { k.discardAhead with far := [], issued := [], view := none }

/-- Carts and reckoners of the plan stop, and its collectives of the attempt go. -/
def unitsCut (s : State) (i : Fin 16) : State :=
  let u := cutCarts s i (fun _ => true)
  { u with recks := u.recks.map (fun k => if k.plan = some i then k.stop else k),
           colls := u.colls.filter (fun k => k.plan != i || k.attempt == 1) }

theorem replayStep_late (v : Vote) (bell : Bell) (hp : s.plans[i] = some p) (hq : p.requests = []) (ha : p.attempt = 0)
    (he : v.early = false) : replayStep s i v bell = reopen (replayRecorded s i p false) i := by
  unfold replayStep
  rw [hp]
  simp only [ha, hq, he, List.any_nil, List.map_nil, replayRecorded]
  rfl

theorem replayStep_early (v : Vote) (bell : Bell) (hp : s.plans[i] = some p) (hq : p.requests = []) (ha : p.attempt = 0)
    (he : v.early = true) : replayStep s i v bell =
      ((unitsCut (replayRecorded s i p true) i).modPlanCores i Core.cut).modPlan i (fun q => q.awaiting bell) := by
  unfold replayStep
  rw [hp]
  simp only [ha, hq, he, List.any_nil, List.map_nil, replayRecorded]
  rfl

/-- The second replay of a step is a job fault. -/
theorem replayStep_again (v : Vote) (bell : Bell) (hp : s.plans[i] = some p) (ha : p.attempt = 1) :
    replayStep s i v bell = replayLimit s i p := by
  unfold replayStep
  rw [hp]
  simp [ha]

/-! ### The units of a step that an early replay stops (06 R147) -/

/-- What `cutCarts` does to one cart, its test picking every cart. -/
def cutCart (i : Fin 16) (s : State) (n : Fin 32) : State :=
  if s.carts[n].plan = some i ∧ true = true then
    let s := cartCut s n
    { s with carts := s.carts.set n s.carts[n].stop }
  else s

theorem cutCart_eq (n : Fin 32) (h : s.carts[n].plan = some i → s.carts[n].running = none) :
    cutCart i s n = { s with carts := s.carts.set n (if s.carts[n].plan = some i then s.carts[n].stop else s.carts[n]) } := by
  unfold cutCart
  by_cases hi : s.carts[n].plan = some i
  · have still : cartCut s n = s := by simp only [cartCut, hi, h hi]
    rw [if_pos ⟨hi, rfl⟩, if_pos hi, still]
  · rw [if_neg (fun e => hi e.1), if_neg hi]
    simp

theorem foldl_cutCart (l : List (Fin 32)) (s : State)
    (h : ∀ n : Fin 32, s.carts[n].plan = some i → s.carts[n].running = none) :
    ∃ v : Vector Cart 32, l.foldl (cutCart i) s = { s with carts := v }
      ∧ ∀ n : Fin 32, v[n] = if s.carts[n].plan = some i ∧ n ∈ l then s.carts[n].stop else s.carts[n] := by
  induction l generalizing s with
  | nil => exact ⟨s.carts, rfl, fun n => by simp⟩
  | cons a l ih =>
    have first (n : Fin 32) : (cutCart i s a).carts[n]
        = if s.carts[n].plan = some i ∧ n = a then s.carts[n].stop else s.carts[n] := by
      rw [cutCart_eq a (h a)]
      by_cases hn : n = a
      · subst hn; simp
      · have : a.val ≠ n.val := fun e => hn (Fin.ext e.symm)
        simp [hn, this]
    obtain ⟨v, hv, hl⟩ := ih (cutCart i s a) (fun n => by
      rw [first]
      split
      · exact fun _ => rfl
      · exact h n)
    refine ⟨v, ?_, fun n => ?_⟩
    · rw [List.foldl_cons, hv, cutCart_eq a (h a)]
    · rw [hl, first]
      by_cases hi : s.carts[n].plan = some i
      · by_cases ha : n = a
        · have taken : s.carts[n].plan = some i ∧ n ∈ a :: l := ⟨hi, List.mem_cons.mpr (.inl ha)⟩
          rw [if_pos (And.intro hi ha : s.carts[n].plan = some i ∧ n = a), if_pos taken]
          split <;> rfl
        · simp only [hi, ha, and_false, if_false, List.mem_cons, false_or]
      · simp only [hi, false_and, if_false]

/-- Carts that hold no descriptor stop without a trace in memory. -/
theorem cutCarts_idle (h : ∀ n : Fin 32, s.carts[n].plan = some i → s.carts[n].running = none) :
    ∃ v : Vector Cart 32, cutCarts s i (fun _ => true) = { s with carts := v }
      ∧ ∀ n : Fin 32, s.carts[n].plan = some i → v[n].queue = [] := by
  obtain ⟨v, hv, hl⟩ := foldl_cutCart (List.finRange 32) s h
  refine ⟨v, hv, fun n hi => ?_⟩
  rw [hl, if_pos ⟨hi, List.mem_finRange n⟩]
  rfl

/-! ### Results (09 R202-R205) -/

theorem planOfJob_of_plans {t : State} (h : t.plans = s.plans) (job : Nat) : planOfJob t job = planOfJob s job := by
  simp only [planOfJob, h]

/-- What a module sends down for a result from its parent. -/
def resultsDown (p : Plan) (b : Bool) (word reopen : BitVec 64) (t0 t1 : Nat) : List Out :=
  if (p.node b).parent.isSome then (p.node b).children.map (fun m => Out.result b m word reopen t0 t1) else []

/-- A result of the open step goes down to the children and is applied, counted on the control die. -/
theorem harvestResult_applies {b : Bool} {word reopen : BitVec 64} {t0 t1 : Nat}
    (hj : planOfJob s (voteJob word) = some (i, p))
    (ho : (p.node b).parent = none → isOwnResult p word reopen t0 t1 = true) :
    ∃ u, Reported 0 (resultsDown p b word reopen t0 t1) s u
      ∧ harvestResult (freezeLatch s) b word reopen t0 t1 = applyResult u i (Vote.ofWord word t0 t1) reopen.toNat := by
  have latch := freezeLatch_reported s
  have hj' : planOfJob (freezeLatch s) (voteJob word) = some (i, p) := by rw [planOfJob_of_plans latch.plans, hj]
  unfold harvestResult resultsDown
  rw [hj']
  dsimp only
  cases hn : (p.node b).parent with
  | none => exact ⟨_, latch, by simp only [ho hn, if_true]⟩
  | some m =>
    exact ⟨_, latch.trans (foldl_emit_reported (fun m => .result b m word reopen t0 t1) (p.node b).children _), rfl⟩

section
variable {v : Vote} {bell : Nat} (hp : s.plans[i] = some p) (ht : p.teardownCause = none) (ho : p.stepOpen = true)
include hp ht ho

theorem applyResult_mismatch (hv : v.cls = 0x1FFF) : applyResult s i v bell =
    jobFault (journalPlan (countControl s 0x404 1) i 0x0404 (leBytes 4 p.step)) i 0x5008 0 FaultRec.reset := by
  simp [applyResult, hp, ht, ho, hv, clsMismatch]

theorem applyResult_twinStop (hv : v.cls = 0x1FFE) : applyResult s i v bell =
    jobFault (countControl s 0x404 1) i (bell % 65536) 0 FaultRec.reset := by
  simp [applyResult, hp, ht, ho, hv, clsMismatch, clsTwinStop]

section
variable (hv : v.cls < 0x1FFE) (hstep : v.step = p.step) (hatt : v.attempt = p.attempt)
include hv hstep hatt

theorem applyResult_replay (hr : v.replay = true) : applyResult s i v bell = replayStep (countControl s 0x404 1) i v bell := by
  have h1 : v.cls ≠ clsMismatch := by unfold clsMismatch; omega
  have h2 : v.cls ≠ clsTwinStop := by unfold clsTwinStop; omega
  simp [applyResult, hp, ht, ho, h1, h2, hstep, hatt, hr]

theorem applyResult_commit (hr : v.replay = false) (hs : p.voteSent = true) (he : p.earlySent = false) :
    applyResult s i v bell = commitStep (countControl s 0x404 1) i v := by
  have h1 : v.cls ≠ clsMismatch := by unfold clsMismatch; omega
  have h2 : v.cls ≠ clsTwinStop := by unfold clsTwinStop; omega
  simp [applyResult, hp, ht, ho, h1, h2, hstep, hatt, hr, hs, he]

end
end

theorem Reported.calm (h : Reported 0 o s u) (hc : Calm s) : Calm u := by
  obtain ⟨hm, hl⟩ := h.2
  obtain ⟨cm, cl⟩ := hc
  exact ⟨hm.trans cm, by omega⟩

theorem Reported.cores (h : Reported n o s u) : u.cores = s.cores := by rw [h.1]
theorem Reported.carts (h : Reported n o s u) : u.carts = s.carts := by rw [h.1]
theorem Reported.recks (h : Reported n o s u) : u.recks = s.recks := by rw [h.1]

/-- The result as it is counted: what the module has reported before it applies it. -/
theorem Reported.counted (h : Reported n o s u) : Reported n o s (countControl u 0x404 1) := by
  simpa using h.trans (countControl_reported u 0x404 1)

/-- An event that reports, and then ends the step. -/
theorem happen_after {body : State → State} {f : Core → Core} {g : SeqSlot → SeqSlot} {q : Plan} (hc : Calm s)
    (hs : serving s = true) (hp : s.plans[i] = some p) (hr : Reported 0 o s u) (hn : n ≤ 250)
    (h : Stepped n i f g u (body s) q) : ∃ t, happen s body = .next t ∧ Noted (body s) t ∧ Became i f g s t q := by
  have whole := (hr.stepped hp).trans h
  exact happen_stepped hc hs (by omega) whole

/-- The units stop with empty queues; where no cart held a descriptor, nothing is written. -/
theorem unitsCut_spec (hp : s.plans[i] = some p) (hi : ∀ n : Fin 32, s.carts[n].plan = some i → s.carts[n].running = none) :
    Stepped 0 i id id s (unitsCut s i) p
    ∧ (∀ n : Fin 32, s.carts[n].plan = some i → (unitsCut s i).carts[n].queue = [])
    ∧ (∀ n : Fin 32, s.recks[n].plan = some i →
        (unitsCut s i).recks[n].running = none ∧ (unitsCut s i).recks[n].queue = []) := by
  obtain ⟨v, cut, empty⟩ := cutCarts_idle hi
  unfold unitsCut
  rw [cut]
  refine ⟨stepped_aside hp rfl ⟨rfl, Nat.le_refl _⟩, empty, fun n hn => ?_⟩
  simp only [Fin.getElem_fin, Vector.getElem_map]
  rw [if_pos (c := s.recks[n.val].plan = some i) hn]
  exact ⟨rfl, rfl⟩

/-- An early replay stops the plan's units, and its cores but for their local operations, until REOPEN_BELL. -/
theorem replayStep_early_stepped (v : Vote) (bell : Bell) (hc : Calm s) (hp : s.plans[i] = some p) (hq : p.requests = [])
    (ha : p.attempt = 0) (he : v.early = true)
    (hi : ∀ n : Fin 32, s.carts[n].plan = some i → s.carts[n].running = none) :
    (∃ q, Stepped 2 i Core.cut SeqSlot.replayStep s (replayStep s i v bell) q
      ∧ q.stepOpen = false ∧ q.reopenBell = some bell ∧ q.attempt = p.attempt)
    ∧ (∀ n : Fin 32, s.carts[n].plan = some i → (replayStep s i v bell).carts[n].queue = [])
    ∧ (∀ n : Fin 32, s.recks[n].plan = some i → (replayStep s i v bell).recks[n].running = none
        ∧ (replayStep s i v bell).recks[n].queue = []) := by
  have told := journalReplayed_reported (i := i) (p := p) true hc
  have hcarts : (replayRecorded s i p true).carts = s.carts := told.carts
  have hrecks : (replayRecorded s i p true).recks = s.recks := told.recks
  have recorded := replayRecorded_stepped true hc hp
  obtain ⟨units, carts, recks⟩ := unitsCut_spec recorded.plan (by rw [hcarts]; exact hi)
  rw [hcarts] at carts
  rw [hrecks] at recks
  have cores := (recorded.trans units).trans (modPlanCores_stepped Core.cut (fun _ => rfl) units.plan)
  rw [replayStep_early v bell hp hq ha he]
  simp only [State.modPlan_carts, State.modPlanCores_carts, State.modPlan_recks, State.modPlanCores_recks]
  exact ⟨⟨_, cores.trans (modPlan_stepped (fun q => q.awaiting bell) cores.plan),
    by simp, by simp, by simp⟩, carts, recks⟩

/-- Another replay starts from the checkpoint. -/
theorem replayStep_late_stepped (v : Vote) (bell : Bell) (hc : Calm s) (hp : s.plans[i] = some p) (hq : p.requests = [])
    (ha : p.attempt = 0) (he : v.early = false) (h : Unhindered i s p) :
    ∃ q, Stepped 2 i (Core.opened p q.cls 1 ∘ Core.restore) (SeqSlot.openStep ∘ SeqSlot.replayStep) s (replayStep s i v bell) q
      ∧ PlanOpened s.bell p.step 1 q := by
  have recorded := replayRecorded_stepped false hc hp
  obtain ⟨q, opens, hq'⟩ := reopen_stepped recorded.plan (h.stepped recorded (by simp))
  rw [opened_of_img (p := p) (by simp)] at opens
  have whole := recorded.trans opens
  rw [← replayStep_late v bell hp hq ha he] at whole
  rw [recorded.around.1, Plan.rewound_step] at hq'
  exact ⟨q, whole, hq'⟩

/-- A core after a replay: its checkpoint's registers, counters, loops and place (03 R61). -/
theorem restore_opened (q : Plan) (cls : Nat) (k : Core) :
    let r := Core.opened q cls 1 k.restore
    r.bundle = k.ckpt.bundle ∧ r.dc = k.ckpt.dc ∧ r.loops = k.ckpt.loops ∧ r.flagsStep = 0
      ∧ r.flagsCommitted = k.flagsCommitted ∧ r.regs.s = k.ckpt.s ∧ r.regs.a = k.ckpt.a ∧ r.regs.l = k.ckpt.l
      ∧ r.regs.v = .replicate 64 0 ∧ r.run = k.openedRun q cls := by
  simp only [opened_bundle, opened_dc, opened_loops, opened_flagsStep, opened_flagsCommitted, opened_regs, opened_run,
    true_and]
  exact ⟨rfl, rfl, rfl, rfl, rfl, rfl, rfl, rfl, rfl⟩

/-- A core after a commit: the candidate is its checkpoint, the step's flags are kept, and its scalar registers stay
(02 R48; 09 R205). -/
theorem commit_opened (q : Plan) (cls : Nat) {k : Core} {x : Ckpt} (hx : k.candidate = some x) :
    let r := Core.opened q cls 0 k.commitStep
    r.ckpt = x ∧ r.flagsCommitted = k.flagsCommitted ||| k.flagsStep ∧ r.flagsStep = 0 ∧ r.regs.s = k.regs.s
      ∧ r.regs.a = k.regs.a ∧ r.regs.l = k.regs.l ∧ r.regs.v = .replicate 64 0 ∧ r.bundle = k.bundle
      ∧ (k.run = .voted → r.run = if rangeEmpty q cls k.planCore then .sitsOut else .running)
      ∧ (k.run = .halting → r.run = .idle) := by
  simp only [opened_ckpt, opened_flagsCommitted, opened_flagsStep, opened_regs, opened_bundle, opened_run, true_and]
  refine ⟨by simp [Core.commitStep, hx], rfl, rfl, rfl, rfl, rfl, rfl, fun hr => ?_, fun hr => ?_⟩
  · simp [Core.openedRun, Core.commitStep, hr]
  · simp [Core.openedRun, Core.commitStep, hr]

/-- A sequence slot after a commit (03 R87). -/
theorem commit_slot (k : SeqSlot) :
    k.commitStep.openStep.p = 0
      ∧ (k.resetMark = false → k.commitStep.openStep.cl = k.cl + k.p ∧ k.commitStep.openStep.tl = k.tl)
      ∧ (k.resetMark = true → k.commitStep.openStep.cl = 0 ∧ k.commitStep.openStep.tl = 0) := by
  unfold SeqSlot.commitStep SeqSlot.openStep
  cases hk : k.resetMark <;> simp

end
end Sys2Proof.Machine
end

section
/-! What HARVEST_RESULT, STEP_TIMEOUT and ATTEMPT_REOPEN do (09 R205, R207, R211), and the statement about them. -/

namespace Sys2Proof.Machine
open Sys2Proof

theorem exec_harvestResult (b : Bool) (word reopen : BitVec 64) (t0 t1 : Nat) (s : State) :
    exec (.harvestResult b word reopen (t0, t1)) s
      = happen s (fun s => harvestResult (freezeLatch s) b word reopen t0 t1) := rfl
theorem exec_attemptReopen (i : Fin 16) (s : State) : exec (.attemptReopen i) s = happen s (fun s => attemptReopen s i) := rfl
theorem exec_stepTimeout (i : Fin 16) (s : State) : exec (.stepTimeout i) s = happen s (fun s => stepTimeout s i) := rfl

section
variable {i : Fin 16} {s : State} {p : Plan}

/-! ### What HARVEST_RESULT does in each case -/

section
variable {b : Bool} {word reopen : BitVec 64} {t0 t1 : Nat}
  (hc : Calm s) (hs : serving s = true) (hp : s.plans[i] = some p) (ht : p.teardownCause = none)
  (hj : planOfJob s (voteJob word) = some (i, p))
  (hown : (p.node b).parent = none → isOwnResult p word reopen t0 t1 = true)
include hc hs hp ht hj hown

/-- A result that the model applies as a job fault, once it has reported. -/
theorem harvestResult_faults {cause m : Nat} (hid : p.jobId ≠ 0) (hm : m ≤ 2)
    (h : ∀ u : State, Calm u → u.plans[i] = some p → ∃ w, Reported m [] u w
      ∧ applyResult u i (Vote.ofWord word t0 t1) reopen.toNat = jobFault w i cause 0 FaultRec.reset) :
    ∃ t, exec (.harvestResult b word reopen (t0, t1)) s = .next t ∧ SameMemory s t
      ∧ (∃ q, t.plans = s.plans.set i (some q) ∧ q.teardownCause = some cause ∧ q.jobState = .fenced ∧ q.step = p.step)
      ∧ t.out = s.out ++ resultsDown p b word reopen t0 t1
          ++ [.control ⟨reeves s, 0x20, p.jobId, nextControl s p.jobId, cause, []⟩] := by
  obtain ⟨u, hu, e⟩ := harvestResult_applies hj hown
  obtain ⟨w, hw, e'⟩ := h u (hu.calm hc) (by rw [hu.plans, hp])
  have reported := hu.trans hw
  rw [List.append_nil] at reported
  rw [exec_harvestResult]
  exact happen_jobFault hc hs hp hid ht reported (by omega) (e.trans e')

variable (ho : p.stepOpen = true) (hv : (Vote.ofWord word t0 t1).cls < 0x1FFE)
  (hstep : (Vote.ofWord word t0 t1).step = p.step) (hatt : (Vote.ofWord word t0 t1).attempt = p.attempt)
include ho hv hstep hatt

theorem harvestResult_commits (h : Unhindered i s p) (hr : (Vote.ofWord word t0 t1).replay = false)
    (hsent : p.voteSent = true) (he : p.earlySent = false) (hra : p.img.ratios = [])
    (hl : ∀ c : CoreId, s.cores[c].plan = some i → s.cores[c].ratioLost = false)
    (hvoted : ∃ c : CoreId, s.cores[c].plan = some i ∧ s.cores[c].run = .voted) :
    ∃ t q, exec (.harvestResult b word reopen (t0, t1)) s = .next t
      ∧ Became i (Core.opened p q.cls 0 ∘ Core.commitStep) (SeqSlot.openStep ∘ SeqSlot.commitStep) s t q
      ∧ PlanOpened s.bell ((p.step + 1) % 2 ^ 32) 0 q := by
  obtain ⟨u, hu, e⟩ := harvestResult_applies hj hown
  have counted := hu.counted
  have hpw := (counted.stepped hp).plan
  obtain ⟨q, commits, hq⟩ := commitStep_stepped (Vote.ofWord word t0 t1) (counted.calm hc) hpw ht hra
    (by rw [counted.cores]; exact hl) (by rw [counted.cores]; exact hvoted) (h.stepped (counted.stepped hp) rfl)
  rw [← applyResult_commit (hu.stepped hp).plan ht ho hv hstep hatt hr hsent he (bell := reopen.toNat), ← e] at commits
  rw [(counted.stepped hp).around.1] at hq
  obtain ⟨t, hx, -, hB⟩ := happen_after (body := fun s => harvestResult (freezeLatch s) b word reopen t0 t1) hc hs hp
    counted (by omega) commits
  exact ⟨t, q, (exec_harvestResult ..).trans hx, hB, hq⟩

theorem harvestResult_replays (h : Unhindered i s p) (hreq : p.requests = [])
    (hr : (Vote.ofWord word t0 t1).replay = true) (he : (Vote.ofWord word t0 t1).early = false) (ha : p.attempt = 0) :
    ∃ t q, exec (.harvestResult b word reopen (t0, t1)) s = .next t
      ∧ Became i (Core.opened p q.cls 1 ∘ Core.restore) (SeqSlot.openStep ∘ SeqSlot.replayStep) s t q
      ∧ PlanOpened s.bell p.step 1 q := by
  obtain ⟨u, hu, e⟩ := harvestResult_applies hj hown
  have counted := hu.counted
  have hpw := (counted.stepped hp).plan
  obtain ⟨q, replays, hq⟩ := replayStep_late_stepped (Vote.ofWord word t0 t1) reopen.toNat (counted.calm hc) hpw hreq ha he
    (h.stepped (counted.stepped hp) rfl)
  rw [← applyResult_replay (hu.stepped hp).plan ht ho hv hstep hatt hr, ← e] at replays
  rw [(counted.stepped hp).around.1] at hq
  obtain ⟨t, hx, -, hB⟩ := happen_after (body := fun s => harvestResult (freezeLatch s) b word reopen t0 t1) hc hs hp
    counted (by omega) replays
  exact ⟨t, q, (exec_harvestResult ..).trans hx, hB, hq⟩

theorem harvestResult_stops (hreq : p.requests = [])
    (hr : (Vote.ofWord word t0 t1).replay = true) (he : (Vote.ofWord word t0 t1).early = true) (ha : p.attempt = 0)
    (hi : ∀ n : Fin 32, s.carts[n].plan = some i → s.carts[n].running = none) :
    ∃ t q, exec (.harvestResult b word reopen (t0, t1)) s = .next t
      ∧ Became i Core.cut SeqSlot.replayStep s t q
      ∧ q.stepOpen = false ∧ q.reopenBell = some reopen.toNat ∧ q.attempt = p.attempt
      ∧ (∀ n : Fin 32, s.carts[n].plan = some i → t.carts[n].queue = [])
      ∧ (∀ n : Fin 32, s.recks[n].plan = some i → t.recks[n].running = none ∧ t.recks[n].queue = []) := by
  obtain ⟨u, hu, e⟩ := harvestResult_applies hj hown
  have counted := hu.counted
  have hpw := (counted.stepped hp).plan
  obtain ⟨⟨q, stops, hq⟩, carts, recks⟩ := replayStep_early_stepped (Vote.ofWord word t0 t1) reopen.toNat
    (counted.calm hc) hpw hreq ha he (by rw [counted.carts]; exact hi)
  rw [← applyResult_replay (hu.stepped hp).plan ht ho hv hstep hatt hr, ← e] at stops carts recks
  rw [counted.carts] at carts
  rw [counted.recks] at recks
  obtain ⟨t, hx, hN, hB⟩ := happen_after (body := fun s => harvestResult (freezeLatch s) b word reopen t0 t1) hc hs hp
    counted (by omega) stops
  obtain ⟨hopen, hbell, hatt'⟩ := hq
  refine ⟨t, q, (exec_harvestResult ..).trans hx, hB, hopen, hbell, hatt', ?_, ?_⟩
  · rw [hN.carts]; exact carts
  · rw [hN.recks]; exact recks

end

/-! ### What STEP_TIMEOUT and ATTEMPT_REOPEN do -/

section
variable (hc : Calm s) (hs : serving s = true) (hp : s.plans[i] = some p) (ht : p.teardownCause = none)
include hc hs hp ht

theorem stepTimeout_faults (hid : p.jobId ≠ 0) (ho : p.stepOpen = true) (hd : stepDeadline p ≤ s.bell) :
    ∃ t, exec (.stepTimeout i) s = .next t ∧ SameMemory s t
      ∧ (∃ q, t.plans = s.plans.set i (some q) ∧ q.teardownCause = some 0x5007 ∧ q.jobState = .fenced ∧ q.step = p.step)
      ∧ t.out = s.out ++ [] ++ [.control ⟨reeves s, 0x20, p.jobId, nextControl s p.jobId, 0x5007, []⟩] := by
  have e : stepTimeout s i = jobFault (journalPlan s i 0x0403
      (leBytes 4 p.step ++ leBytes 1 p.attempt ++ leBytes 8 (stepDeadline p))) i 0x5007 0 FaultRec.reset := by
    simp [stepTimeout, hp, ho, ht, hd]
  rw [exec_stepTimeout]
  exact happen_jobFault hc hs hp hid ht (journalPlan_reported hc (reported_refl s) (by omega) ..) (by omega) e

theorem attemptReopen_opens {b : Bell} (hb : p.reopenBell = some b) (hle : b ≤ s.bell) (h : Unhindered i s p)
    (hm : ∀ c : CoreId, s.cores[c].plan = some i → s.cores[c].moves = [] ∧ s.cores[c].copies = []) :
    ∃ t q, exec (.attemptReopen i) s = .next t
      ∧ Became i (Core.opened p q.cls 1 ∘ Core.restore) SeqSlot.openStep s t q ∧ PlanOpened s.bell p.step 1 q := by
  have done : (planCores s i).any (fun k => !k.moves.isEmpty || !k.copies.isEmpty) = false := by
    refine List.any_eq_false.mpr (fun k hk => ?_)
    obtain ⟨c, rfl, hi⟩ := mem_planCores.mp hk
    obtain ⟨moves, copies⟩ := hm c hi
    rw [moves, copies]
    decide
  obtain ⟨q, opens, hq⟩ := reopen_stepped hp h
  have e : attemptReopen s i = reopen s i := by
    simp [attemptReopen, hp, hb, hle, ht, h.2.1, done]
  rw [← e] at opens
  obtain ⟨t, hx, -, hB⟩ := happen_stepped (body := fun s => attemptReopen s i) hc hs (by omega) opens
  exact ⟨t, q, (exec_attemptReopen ..).trans hx, hB, hq⟩

end

theorem attemptReopen_waits (hs : serving s = true) (hp : s.plans[i] = some p) {b : Bell} (hb : p.reopenBell = some b)
    (hlt : s.bell < b) : exec (.attemptReopen i) s = .next s := by
  have e : attemptReopen s i = s := by simp [attemptReopen, hp, hb, hlt]
  rw [exec_attemptReopen, happen, hs, if_pos rfl, e, attend_self]

end
end Sys2Proof.Machine

open Sys2Proof Sys2Proof.Machine

/-- Settles O48: each result leads to a job fault or to a chain of stages that `Became` sums up; the cores' and slots' parts
of it are `commit_opened`, `restore_opened` and `commit_slot`. That memory stays as it is at a replay, and that a reopening
waits for moves and copies, is the model's choice (notes/assumptions/33.md). -/
theorem resultsApply : Obligations.ResultsApply := by
  unfold Obligations.ResultsApply
  intro s i p hc hs hp hreq hsubs hid ht faulted
  refine ⟨?results, ?deadline, ?early, ?reopens⟩
  case results =>
    intro b word reopen t0 t1 v cmd down ho hj hown
    refine ⟨fun hv => ?mismatch, fun hv => ?twinStop, fun hv hstep hatt hr ha => ?again,
      fun hv hstep hatt hheld hratios hcores => ⟨fun hr hsent hearly hvoted => ?commit, fun hr he ha => ?replay⟩⟩
    case mismatch =>
      exact harvestResult_faults hc hs hp ht hj hown hid (by omega) (fun u hcu hpu =>
        ⟨_, journalPlan_reported hcu (countControl_reported u 0x404 1) (by omega) .., applyResult_mismatch hpu ht ho hv⟩)
    case twinStop =>
      exact harvestResult_faults hc hs hp ht hj hown hid (by omega) (fun u _ hpu =>
        ⟨_, countControl_reported u 0x404 1, applyResult_twinStop hpu ht ho hv⟩)
    case again =>
      exact harvestResult_faults hc hs hp ht hj hown hid (by omega) (fun u hcu hpu =>
        ⟨_, journalPlan_reported hcu (countControl_reported u 0x404 1) (by omega) ..,
          (applyResult_replay hpu ht ho hv hstep hatt hr).trans (replayStep_again v _ hpu ha)⟩)
    case commit =>
      have hu : Unhindered i s p := ⟨fun c hi => (hcores c hi).1, hsubs, hheld⟩
      obtain ⟨t, q, hx, hB, hq⟩ := harvestResult_commits hc hs hp ht hj hown ho hv hstep hatt hu hr hsent hearly hratios
        (fun c hi => (hcores c hi).2) hvoted
      refine ⟨t, q, hx, hB.sameMemory (fun k => by rw [Function.comp, opened_sram]; rfl), hB.plan, hq.stepOpen,
        hq.openBell, hq.voteSent, fun c hi x hx => ?_, fun c hi => ?_, fun n hi => ?_⟩
      · rw [hB.cores, if_pos hi]
        exact commit_opened p q.cls hx
      · rw [hB.cores, if_neg hi]
      · rw [hB.slots, if_pos hi]
        exact commit_slot _
    case replay =>
      have hu : Unhindered i s p := ⟨fun c hi => (hcores c hi).1, hsubs, hheld⟩
      obtain ⟨t, q, hx, hB, hq⟩ := harvestResult_replays hc hs hp ht hj hown ho hv hstep hatt hu hreq hr he ha
      refine ⟨t, q, hx, hB.sameMemory (fun k => by rw [Function.comp, opened_sram]; rfl), hB.plan, hq.stepOpen,
        hq.openBell, hq.voteSent, hq.replayed, fun c hi => ?_, fun n hi => ?_⟩
      · rw [hB.cores, if_pos hi]
        obtain ⟨bundle, dc, loops, step, committed, rs, ra, rl, rv, -⟩ := restore_opened p q.cls s.cores[c]
        exact ⟨bundle, dc, loops, step, committed, rs, ra, rl, rv⟩
      · rw [hB.slots, if_pos hi]
        exact ⟨rfl, rfl, rfl⟩
  case deadline =>
    intro c ho hcls hd
    exact stepTimeout_faults hc hs hp ht hid ho (by simpa only [stepDeadline, hcls] using hd)
  case early =>
    intro b word reopen t0 t1 v cmd ho hj hown hv hstep hatt hr he ha hi
    obtain ⟨t, q, hx, hB, hopen, hbell, hqa, carts, recks⟩ :=
      harvestResult_stops hc hs hp ht hj hown ho hv hstep hatt hreq hr he ha hi
    refine ⟨t, q, hx, hB.sameMemory (fun _ => rfl), hB.plan, hopen, hbell, hqa.trans ha, fun c hi => ?_, carts, recks⟩
    rw [hB.cores, if_pos hi]
    exact ⟨rfl, rfl, rfl, rfl, rfl⟩
  case reopens =>
    intro b hb hheld
    refine ⟨fun hlt => ⟨s, attemptReopen_waits hs hp hb hlt, rfl⟩, fun hle hcores => ?_⟩
    have hu : Unhindered i s p := ⟨fun c hi => (hcores c hi).2.2, hsubs, hheld⟩
    obtain ⟨t, q, hx, hB, hq⟩ := attemptReopen_opens hc hs hp ht hb hle hu (fun c hi => ⟨(hcores c hi).1, (hcores c hi).2.1⟩)
    refine ⟨t, q, hx, hB.sameMemory (fun k => by rw [Function.comp, opened_sram]; rfl), hB.plan, hq.step, hq.attempt,
      hq.stepOpen, hq.openBell, hq.reopenBell, fun c hi => ?_, fun c hi => by rw [hB.cores, if_neg hi]⟩
    rw [hB.cores, if_pos hi]
    obtain ⟨bundle, dc, loops, step, -, rs, ra, rl, rv, run⟩ := restore_opened p q.cls s.cores[c]
    exact ⟨bundle, dc, loops, step, rs, ra, rl, rv, run⟩

end

section
/-! SUPPORT. Issue of an X-, V- or M-slot instruction that changes only its core, and no watch of the plan on its bundle
(03 R56; 14 R332). -/

namespace Sys2Proof.Machine
open Sys2Proof

section
variable {s : State} {c : CoreId} {sl : Slot} {op : Nat} {uses : List RegRef} {body : State → Issue → Option State}

theorem setRegs_modCore (s : State) (c : CoreId) (k : Core) (f : Regs → Regs) :
    setRegs (s.modCore c (fun _ => k)) c f = s.modCore c (fun _ => { k with regs := f k.regs }) :=
  modCore_modCore ..

theorem found_sram (s : State) (c : CoreId) (sl : Slot) : (found s c sl).sram = s.cores[c].sram := intoBundle_sram ..

theorem begin_fields (k : Core) (sl : Slot) (op : Nat) :
    (k.begin sl op).regs = k.regs ∧ (k.begin sl op).sram = k.sram ∧ (k.begin sl op).planCore = k.planCore
    ∧ (k.begin sl op).bundle = k.bundle ∧ (k.begin sl op).subFlush = k.subFlush := by
  cases sl <;> exact ⟨rfl, rfl, rfl, rfl, rfl⟩

/-- An instruction that can issue, and whose body changes of the core in its bundle only registers, step flags and
counters, leaves the bundle open. -/
theorem issue_staysOpen (h : CanIssue s c sl uses) (r : Regs) (fl : NumFlags)
    (hb : ∀ i p, executing s c = some (i, p) → ∀ k, k = (found s c sl).begin sl op → ∃ counters,
      body (s.modCore c (fun _ => k)) ⟨c, i, p, operands s c sl⟩
        = some (s.modCore c (fun _ =>
            { k with regs := r, flagsStep := k.flagsStep ||| fl, counters := counters }))) :
    StaysOpen s (issue s c sl op uses body) c sl op r fl := by
  obtain ⟨i, p, he, issued⟩ := issue_eq (op := op) (body := body) h
  obtain ⟨counters, hbody⟩ := hb i p he _ rfl
  obtain ⟨-, sram, -⟩ := begin_fields (found s c sl) sl op
  rw [issued, hbody, Option.getD_some]
  have only := onlyCore_modCore s c (fun _ => { (found s c sl).begin sl op with
    regs := r, flagsStep := ((found s c sl).begin sl op).flagsStep ||| fl, counters := counters })
  refine ⟨⟨only, sameMemory_of _ _ c only ?_⟩, ?_⟩
  · rw [modCore_cores_self]
    exact sram.trans (found_sram s c sl)
  · rw [modCore_cores_self]

/-- The same of a body that only writes registers. -/
theorem issue_writesRegs (h : CanIssue s c sl uses) (f : Regs → Regs → Regs)
    (hb : ∀ u x, body u x = some (setRegs u c (f x.rd))) :
    StaysOpen s (issue s c sl op uses body) c sl op (f (operands s c sl) (found s c sl).regs) 0 := by
  refine issue_staysOpen h _ _ (fun i p _ k hk => ⟨k.counters, ?_⟩)
  obtain ⟨regs, -⟩ := begin_fields (found s c sl) sl op
  have unflagged : k.flagsStep ||| 0 = k.flagsStep := BitVec.or_zero
  rw [hb, setRegs_modCore, unflagged, hk, regs]

/-- A bundle that no watch covers fires none, whatever flags are set. -/
theorem firedWatches_unwatched (h : Unwatched s c sl) {i : Fin 16} {p : Plan} (he : executing s c = some (i, p)) {k : Core}
    (hc : k.planCore = (found s c sl).planCore) (hb : k.bundle = (found s c sl).bundle) (fl : NumFlags) :
    firedWatches p k fl = [] := by
  have none : p.img.watches.filter (fun w => w.cls == p.cls && w.planCore == k.planCore && w.first ≤ k.bundle
      && k.bundle ≤ w.last && (w.trigger &&& fl) != 0 && w.from_ + p.level w.watch < 2) = [] := by
    refine List.filter_eq_nil_iff.mpr (fun w hw covers => h i p he w hw ?_)
    simp only [Bool.and_eq_true, beq_iff_eq, decide_eq_true_eq] at covers
    obtain ⟨⟨⟨⟨⟨cls, core⟩, first⟩, last⟩, -⟩, -⟩ := covers
    exact ⟨cls, core.trans hc, hb ▸ first, hb ▸ last⟩
  rw [firedWatches, none]
  rfl

/-- Where no watch fires, the flags are set in the step flags and nothing else happens. -/
theorem raiseIn_quiet (i : Fin 16) {p : Plan} {k : Core} {fl : NumFlags} (h : firedWatches p (k.flag fl) fl = []) :
    raiseIn (s.modCore c (fun _ => k)) c i p fl = s.modCore c (fun _ => k.flag fl) := by
  simp only [raiseIn, modCore_modCore, modCore_cores_self, Function.comp_apply, h, List.isEmpty_nil, if_true]
  rfl

/-- A write of registers, a count and flags that fire no watch are one update of the core. -/
theorem raiseIn_written {i : Fin 16} {p : Plan} {fl : NumFlags} (k : Core) (g : Regs → Regs)
    (event n : Nat)
    (quiet : ∀ k' : Core, k'.planCore = k.planCore → k'.bundle = k.bundle → firedWatches p k' fl = []) :
    raiseIn ((setRegs (s.modCore c (fun _ => k)) c g).modCore c (·.count event n)) c i p fl
      = s.modCore c (fun _ => { k with regs := g k.regs, flagsStep := k.flagsStep ||| fl,
                                       counters := (k.count event n).counters }) := by
  rw [setRegs_modCore, modCore_modCore]
  exact raiseIn_quiet i (quiet _ rfl rfl)

end
end Sys2Proof.Machine
end

section
/-! SUPPORT. Tiles and groups of long registers, bit by bit (04 R91, R94; 05 R105). -/

namespace Sys2Proof.Machine
open Sys2Proof

section
variable (r : Regs) (first : Nat)

theorem add_toNat_mul_lt {a m n : Nat} (ha : a < 2 ^ m) (v : BitVec n) : a + v.toNat * 2 ^ m < 2 ^ (m + n) :=
  calc a + v.toNat * 2 ^ m < (v.toNat + 1) * 2 ^ m := by rw [Nat.succ_mul]; omega
    _ ≤ 2 ^ n * 2 ^ m := Nat.mul_le_mul_right _ v.isLt
    _ = 2 ^ (m + n) := by rw [Nat.mul_comm, Nat.pow_add]

theorem setT_get (d : BitVec 3) (v : TReg) (i : Fin 8) : (r.setT d v).t[i] = if i = d.toFin then v else r.t[i] := by
  simp only [Regs.setT, Fin.getElem_fin, Vector.getElem_set, Fin.ext_iff, eq_comm]

theorem setT_frame (d : BitVec 3) (v : TReg) : r.setT d v = { r with t := (r.setT d v).t } := rfl

theorem group_lt (g : Nat) : r.group first g < 2 ^ (8192 * g) := by
  induction g with
  | zero => exact Nat.one_pos
  | succ g ih => exact add_toNat_mul_lt ih (r.v.getD (first + g) 0)

/-- Bit `b` of a group stands in its register `b / 8192`. -/
theorem group_testBit {g b : Nat} (hb : b < 8192 * g) :
    (r.group first g).testBit b = (r.v.getD (first + b / 8192) 0).getLsbD (b % 8192) := by
  induction g with
  | zero => omega
  | succ g ih =>
    rw [Regs.group, Nat.add_comm, Nat.mul_comm, Nat.testBit_two_pow_mul_add _ (group_lt r first g)]
    split
    next low => exact ih low
    next high =>
      rw [show b / 8192 = g by omega, show b % 8192 = b - 8192 * g by omega]
      rfl

theorem setGroup_frame (g val : Nat) : r.setGroup first g val = { r with v := (r.setGroup first g val).v } := by
  induction g with
  | zero => rfl
  | succ g ih => rw [Regs.setGroup, ih]; rfl

theorem setV_getD (i n : Nat) (v : VReg) (hn : n < 64) : (r.setV i v).v.getD n 0 = if n = i then v else r.v.getD n 0 := by
  by_cases h : n = i
  · subst h; simp [Regs.setV, Vector.getD, hn]
  · simp [Regs.setV, Vector.getD, hn, h, Ne.symm h]

theorem setGroup_getD (g val n : Nat) (hn : n < 64) :
    (r.setGroup first g val).v.getD n 0 =
      if first ≤ n ∧ n < first + g then BitVec.ofNat 8192 (val / 2 ^ (8192 * (n - first))) else r.v.getD n 0 := by
  induction g with
  | zero => rw [if_neg (by omega)]; rfl
  | succ g ih =>
    rw [Regs.setGroup, setV_getD _ _ _ _ hn, ih]
    by_cases h : n = first + g
    · subst h; simp
    · simp only [h, if_false]
      congr 1
      simp only [eq_iff_iff]
      omega

end

section
variable {t : TReg} {row g : Nat}

/-- Register `j` of the rows that X.TRD moves. -/
theorem tileRows_register {j : Nat} (hj : j < g) :
    BitVec.ofNat 8192 (tileRows t row g / 2 ^ (8192 * j)) = t.extractLsb' (2048 * row + 8192 * j) 8192 := by
  apply BitVec.eq_of_getLsbD_eq
  intro b hb
  have inside : b + 8192 * j < 8192 * g := by omega
  simp only [BitVec.getLsbD_ofNat, BitVec.getLsbD_extractLsb', tileRows, Nat.testBit_div_two_pow, Nat.testBit_mod_two_pow,
    hb, inside, decide_true, Bool.true_and]
  rw [BitVec.getLsbD]
  congr 1
  omega

/-- Bit `b` of a tile whose rows X.TWR has replaced. -/
theorem setTileRows_getLsbD {v b : Nat} (hb : b < 131072) :
    (setTileRows t row g v).getLsbD b =
      if 2048 * row ≤ b ∧ b < 2048 * row + 8192 * g then v.testBit (b - 2048 * row) else t.getLsbD b := by
  have parts : t.toNat % 2 ^ (2048 * row) + v % 2 ^ (8192 * g) * 2 ^ (2048 * row)
        + t.toNat / 2 ^ (2048 * row + 8192 * g) * 2 ^ (2048 * row + 8192 * g)
      = 2 ^ (2048 * row) * (2 ^ (8192 * g) * (t.toNat / 2 ^ (2048 * row + 8192 * g)) + v % 2 ^ (8192 * g))
        + t.toNat % 2 ^ (2048 * row) := by
    rw [Nat.pow_add]
    ring
  rw [setTileRows, parts, BitVec.getLsbD_ofNat, decide_eq_true hb, Bool.true_and,
    Nat.testBit_two_pow_mul_add _ (Nat.mod_lt _ (Nat.two_pow_pos _)),
    Nat.testBit_two_pow_mul_add _ (Nat.mod_lt _ (Nat.two_pow_pos _)), Nat.testBit_mod_two_pow, Nat.testBit_mod_two_pow,
    Nat.testBit_div_two_pow, BitVec.getLsbD]
  by_cases below : b < 2048 * row
  · rw [if_pos below, if_neg (by omega), decide_eq_true below, Bool.true_and]
  · by_cases inside : b - 2048 * row < 8192 * g
    · rw [if_neg below, if_pos inside, if_pos (by omega), decide_eq_true inside, Bool.true_and]
    · rw [if_neg below, if_neg inside, if_neg (by omega)]
      congr 1
      omega

end
end Sys2Proof.Machine
end

section
/-! SUPPORT. What the tile forms of the X slot do (04 R94). -/

namespace Sys2Proof.Machine
open Sys2Proof

section
variable {s : State} {c : CoreId} {f : XForm}

theorem whenLegal_of {legal : Bool} (h : legal = true) (s : State) : whenLegal legal s = .next s := by
  rw [h]; rfl

theorem xNop_stays (h : CanIssue s c .x []) :
    ∃ t, exec (.xNop c) s = .next t ∧ StaysOpen s t c .x 0x00 (found s c .x).regs 0 := by
  refine ⟨_, rfl, issue_staysOpen h _ _ (fun i p _ k hk => ⟨k.counters, ?_⟩)⟩
  obtain ⟨regs, -⟩ := begin_fields (found s c .x) .x 0x00
  have unflagged : k.flagsStep ||| 0 = k.flagsStep := BitVec.or_zero
  rw [unflagged, ← regs, ← hk]

theorem xZero_writes (hl : f.legal 0x02 = true) (h : CanIssue s c .x [.t f.td.toNat]) :
    ∃ t, exec (.xZero c f) s = .next t ∧ StaysOpen s t c .x 0x02 ((found s c .x).regs.setT f.td 0) 0 :=
  ⟨_, whenLegal_of hl _, issue_writesRegs h (fun _ r => r.setT f.td 0) (fun _ _ => rfl)⟩

theorem xTmov_writes (hl : f.legal 0x03 = true) (h : CanIssue s c .x [.t f.td.toNat, .t f.ta.toNat]) :
    ∃ t, exec (.xTmov c f) s = .next t
      ∧ StaysOpen s t c .x 0x03 ((found s c .x).regs.setT f.td (operands s c .x).t[f.ta.toFin]) 0 :=
  ⟨_, whenLegal_of hl _, issue_writesRegs h (fun rd r => r.setT f.td rd.t[f.ta.toFin]) (fun _ _ => rfl)⟩

theorem xTrd_writes (hl : f.legal 0x04 = true) (h : CanIssue s c .x (xMoveUses f)) :
    ∃ t, exec (.xTrd c f) s = .next t
      ∧ StaysOpen s t c .x 0x04 ((found s c .x).regs.setGroup f.vr.toNat (grpSize f.grp)
          (tileRows (operands s c .x).t[f.td.toFin] f.row.toNat (grpSize f.grp))) 0 :=
  ⟨_, whenLegal_of hl _, issue_writesRegs h (fun rd r => r.setGroup f.vr.toNat (grpSize f.grp)
    (tileRows rd.t[f.td.toFin] f.row.toNat (grpSize f.grp))) (fun _ _ => rfl)⟩

theorem xTwr_writes (hl : f.legal 0x05 = true) (h : CanIssue s c .x (xMoveUses f)) :
    ∃ t, exec (.xTwr c f) s = .next t
      ∧ StaysOpen s t c .x 0x05 ((found s c .x).regs.setT f.td (setTileRows (operands s c .x).t[f.td.toFin] f.row.toNat
          (grpSize f.grp) ((operands s c .x).group f.vr.toNat (grpSize f.grp)))) 0 :=
  ⟨_, whenLegal_of hl _, issue_writesRegs h (fun rd r => r.setT f.td (setTileRows rd.t[f.td.toFin] f.row.toNat
    (grpSize f.grp) (rd.group f.vr.toNat (grpSize f.grp)))) (fun _ _ => rfl)⟩

end
end Sys2Proof.Machine

open Sys2Proof Sys2Proof.Machine

/-- Settles O9: each form writes one tile or one group of long registers (`setT_get`, `setGroup_getD`), with the bits that
`tileRows_register` and `setTileRows_getLsbD` give. -/
theorem xTileMoves : Obligations.XTileMoves := by
  unfold Obligations.XTileMoves
  intro s c f
  refine ⟨fun h => xNop_stays h, fun e he => ?wholeTile, fun hl h => ?reads, fun hl h => ?writes⟩
  case wholeTile =>
    rw [List.mem_cons, List.mem_singleton] at he
    obtain rfl | rfl := he
    · intro hl h
      obtain ⟨t, hx, stays⟩ := xZero_writes hl h
      exact ⟨t, _, hx, stays, setT_frame .., setT_get _ _ _⟩
    · intro hl h
      obtain ⟨t, hx, stays⟩ := xTmov_writes hl h
      exact ⟨t, _, hx, stays, setT_frame .., setT_get _ _ _⟩
  case reads =>
    obtain ⟨t, hx, stays⟩ := xTrd_writes hl h
    refine ⟨t, _, hx, stays, setGroup_frame .., fun n hn => ?_⟩
    rw [setGroup_getD _ _ _ _ _ hn]
    split
    next inGroup => exact tileRows_register (by omega)
    next => rfl
  case writes =>
    obtain ⟨t, hx, stays⟩ := xTwr_writes hl h
    refine ⟨t, _, hx, stays, setT_frame .., fun i hi => (setT_get ..).trans (if_neg hi), fun b hb => ?_⟩
    rw [setT_get, if_pos rfl, setTileRows_getLsbD hb]
    split
    next inRows => exact group_testBit _ _ (by omega)
    next => rfl

end

section
/-! SUPPORT. The int32 tile product of X.MMA (04 R98, R100): codes of an operand and of the accumulator, the sum over the
groups, and the outputs packed into a tile. -/

namespace Sys2Proof.Machine
open Sys2Proof

/-! ### Codes in bit strings -/

section
variable {N : Nat}

/-- The codes of a segment of a bit string. -/
theorem codesOf_extract (x : BitVec N) (a w n : Nat) :
    codesOf w n (x.extractLsb' a (w * n)).toNat = (List.range n).map (fun k => (x.extractLsb' (a + w * k) w).toNat) := by
  refine List.map_congr_left (fun k hk => ?_)
  have inside : w * k + w ≤ w * n := by
    rw [← Nat.mul_succ]; exact Nat.mul_le_mul_left w (List.mem_range.mp hk)
  apply Nat.eq_of_testBit_eq
  intro b
  rw [Nat.testBit_mod_two_pow, Nat.testBit_div_two_pow, ← BitVec.getLsbD, ← BitVec.getLsbD, BitVec.getLsbD_extractLsb',
    BitVec.getLsbD_extractLsb']
  by_cases hb : b < w
  · rw [decide_eq_true hb, decide_eq_true (by omega), Bool.true_and, Bool.true_and]
    congr 1
    omega
  · rw [decide_eq_false hb, Bool.false_and, Bool.false_and]

theorem codesOf_getElem? {w n k : Nat} (hk : k < n) (v : Nat) : (codesOf w n v)[k]? = some (v / 2 ^ (w * k) % 2 ^ w) := by
  simp [codesOf, hk]

theorem packCodes_code (w : Nat) : ∀ (l : List Nat) (i : Nat), packCodes w l / 2 ^ (w * i) % 2 ^ w = l.getD i 0 % 2 ^ w
  | [], i => by simp [packCodes]
  | c :: l, 0 => by simp [packCodes]
  | c :: l, i + 1 => by
    rw [packCodes, Nat.mul_succ, Nat.add_comm (w * i), Nat.pow_add, ← Nat.div_div_eq_div_mul,
      Nat.add_mul_div_left _ _ (Nat.two_pow_pos w), Nat.div_eq_of_lt (Nat.mod_lt _ (Nat.two_pow_pos w)), Nat.zero_add,
      packCodes_code w l i, List.getD_cons_succ]

/-- A code of a packed string is read back, as far as the string keeps it. -/
theorem packCodes_extract (w : Nat) (l : List Nat) {i : Nat} (h : w * i + w ≤ N) :
    (BitVec.ofNat N (packCodes w l)).extractLsb' (w * i) w = BitVec.ofNat w (l.getD i 0) := by
  apply BitVec.eq_of_toNat_eq
  rw [BitVec.toNat_ofNat, ← packCodes_code]
  apply Nat.eq_of_testBit_eq
  intro b
  rw [Nat.testBit_mod_two_pow, Nat.testBit_div_two_pow, ← BitVec.getLsbD, BitVec.getLsbD_extractLsb', BitVec.getLsbD_ofNat,
    Nat.add_comm (w * i)]
  by_cases hb : b < w
  · rw [decide_eq_true hb, decide_eq_true (by omega), Bool.true_and, Bool.true_and]
  · rw [decide_eq_false hb, Bool.false_and, Bool.false_and]

end

/-! ### Lists of rows and columns -/

theorem zipIdx_map_range {α : Type} (f : Nat → α) (n : Nat) :
    ((List.range n).map f).zipIdx = (List.range n).map (fun k => (f k, k)) := by
  refine List.ext_getElem? (fun i => ?_)
  by_cases h : i < n
  · simp [h]
  · simp [h]

theorem flatMap_range_getElem? {α : Type} (h : Nat → Nat → α) {b n : Nat} (hn : n < b) :
    ∀ {a m : Nat}, m < a → ((List.range a).flatMap (fun m => (List.range b).map (h m)))[m * b + n]? = some (h m n)
  | a + 1, m, hm => by
    have len : ((List.range a).flatMap (fun m => (List.range b).map (h m))).length = a * b := by simp
    rw [List.range_succ, List.flatMap_append]
    by_cases hma : m < a
    · have : m * b + n < a * b := by
        calc m * b + n < (m + 1) * b := by rw [Nat.succ_mul]; omega
          _ ≤ a * b := Nat.mul_le_mul_right b hma
      rw [List.getElem?_append_left (len ▸ this)]
      exact flatMap_range_getElem? h hn hma
    · obtain rfl : m = a := by omega
      rw [List.getElem?_append_right (by omega), len, Nat.add_sub_cancel_left]
      simp [hn]

theorem groupsOf_flatten {α : Type} (g : Nat) : ∀ (n : Nat) (l : List α), l.length = g * n → (groupsOf g n l).flatten = l
  | 0, l, h => (List.eq_nil_of_length_eq_zero h).symm
  | n + 1, l, h => by
    rw [groupsOf, List.flatten_cons, groupsOf_flatten g n (l.drop g) (by rw [List.length_drop, h, Nat.mul_succ]; omega),
      List.take_append_drop]

/-! ### One output (04 R100) -/

/-- An integer and its low bits are one word. -/
theorem ofInt_congr {w : Nat} {x y : Int} (h : x % ((2 ^ w : Nat) : Int) = y % ((2 ^ w : Nat) : Int)) :
    BitVec.ofInt w x = BitVec.ofInt w y := by
  apply BitVec.eq_of_toNat_eq
  rw [BitVec.toNat_ofInt, BitVec.toNat_ofInt, h]

theorem ofInt_sext (w n : Nat) : BitVec.ofInt w (sext w n) = BitVec.ofNat w n := by
  rw [← BitVec.ofInt_natCast]
  apply ofInt_congr
  simp only [sext]
  split
  · rw [Int.natCast_mod, Int.emod_emod]
  · rw [Int.sub_emod_right, Int.natCast_mod, Int.emod_emod]

theorem ofNat_wrapInt (w : Nat) (v : Int) : BitVec.ofNat w (wrapInt w v) = BitVec.ofInt w v := by
  rw [← BitVec.ofInt_natCast, wrapInt, Int.toNat_of_nonneg (Int.emod_nonneg _ (by positivity))]
  exact ofInt_congr (Int.emod_emod ..)

/-- The sum of products of a list of operand pairs. -/
def dot (l : List (Int × Int)) : Int := (l.map (fun p => p.1 * p.2)).sum

theorem dot_append (l m : List (Int × Int)) : dot (l ++ m) = dot l + dot m := by simp [dot]

theorem mmaInt_cons (acc : Option Nat) (g : List (Int × Int)) (groups : List (List (Int × Int))) :
    mmaInt false acc (g :: groups) = mmaInt false (some (wrapInt 32 (sext 32 (acc.getD 0) + dot g))) groups := by
  simp [mmaInt, intResult, dot]

/-- Without SAT the groups add up modulo 2^32, with no flag. -/
theorem mmaInt_wraps (groups : List (List (Int × Int))) : ∀ acc : Option Nat,
    BitVec.ofNat 32 (mmaInt false acc groups).1 = BitVec.ofNat 32 (acc.getD 0) + BitVec.ofInt 32 (dot groups.flatten)
      ∧ (mmaInt false acc groups).2 = 0 := by
  induction groups with
  | nil => exact fun acc => ⟨(BitVec.add_zero _).symm, rfl⟩
  | cons g groups ih =>
    intro acc
    obtain ⟨sum, flags⟩ := ih (some (wrapInt 32 (sext 32 (acc.getD 0) + dot g)))
    rw [mmaInt_cons]
    refine ⟨?_, flags⟩
    rw [sum, Option.getD_some, ofNat_wrapInt, BitVec.ofInt_add, ofInt_sext, List.flatten_cons, dot_append, BitVec.ofInt_add,
      BitVec.add_assoc]

theorem orFlags_zero {l : List NumFlags} (h : ∀ fl ∈ l, fl = 0) : orFlags l = 0 := by
  induction l with
  | nil => rfl
  | cons fl l ih =>
    obtain rfl : fl = 0 := h fl List.mem_cons_self
    exact ih (fun x hx => h x (List.mem_cons_of_mem _ hx))

/-! ### The int32 tile product -/

/-- The rows of the pairing table with an int32 accumulator: 256 elements of 8 bits to a row, in groups of 16. -/
theorem pairing_int32 : ∀ c : Fin 32, ∀ p ∈ pairing c, p.acc = .int32 → p.g = 16 ∧ p.ka = 256 ∧ p.kw = 256 ∧ p.nw = 64 := by
  decide

/-- The 8-bit codes of a row or column of an operand tile. -/
theorem codesOf_row (t : TReg) (m : Nat) :
    codesOf 8 256 (t.extractLsb' (2048 * m) 2048).toNat
      = (List.range 256).map (fun k => (t.extractLsb' (2048 * m + 8 * k) 8).toNat) :=
  codesOf_extract t (2048 * m) 8 256

/-- The operands of output (m, n): row m of TA beside column n of TB. -/
def operandPairs (p : Pairing) (f : XForm) (r : Regs) (m n : Nat) : List (Int × Int) :=
  (List.range 256).map (fun k => (p.act.intVal (r.t[f.ta.toFin].extractLsb' (2048 * m + 8 * k) 8).toNat,
    p.wgt.intVal (r.t[f.tb.toFin].extractLsb' (2048 * n + 8 * k) 8).toNat))

theorem operandPairs_eq (p : Pairing) (f : XForm) (r : Regs) (m n : Nat) :
    operandPairs p f r m n = ((codesOf 8 256 (r.t[f.ta.toFin].extractLsb' (2048 * m) 2048).toNat).map p.act.intVal).zip
      ((codesOf 8 256 (r.t[f.tb.toFin].extractLsb' (2048 * n) 2048).toNat).map p.wgt.intVal) := by
  rw [codesOf_row, codesOf_row, List.map_map, List.map_map, List.zip_map']
  rfl

/-- What ACC adds to output (m, n). -/
def priorOutput (f : XForm) (r : Regs) (m n : Nat) : Option Nat :=
  if f.acc then some (r.t[f.td.toFin].extractLsb' (2048 * m + 32 * n) 32).toNat else none

theorem priorOutput_word (f : XForm) (r : Regs) (m n : Nat) :
    BitVec.ofNat 32 ((priorOutput f r m n).getD 0)
      = BitVec.ofInt 32 (if f.acc then (r.t[f.td.toFin].extractLsb' (2048 * m + 32 * n) 32).toInt else 0) := by
  rw [priorOutput]
  split
  · rw [Option.getD_some, BitVec.ofNat_toNat, BitVec.setWidth_eq, BitVec.ofInt_toInt]
  · rfl

theorem dot_operandPairs (p : Pairing) (f : XForm) (r : Regs) (m n : Nat) :
    dot (operandPairs p f r m n) = ((List.range 256).map (fun k =>
      p.act.intVal (r.t[f.ta.toFin].extractLsb' (2048 * m + 8 * k) 8).toNat
        * p.wgt.intVal (r.t[f.tb.toFin].extractLsb' (2048 * n + 8 * k) 8).toNat)).sum := by
  rw [dot, operandPairs, List.map_map]
  rfl

/-- Output (m, n) of an int32 product, with its flags, of the codes in its operands' tiles. -/
def int32Output (p : Pairing) (f : XForm) (r : Regs) (m n : Nat) : Nat × NumFlags :=
  mmaInt f.sat (if f.acc then (codesOf 32 (64 * p.nw) r.t[f.td.toFin].toNat)[m * p.nw + n]? else none)
    (groupsOf p.g (p.ka / p.g)
      (((codesOf 8 p.ka (r.t[f.ta.toFin].extractLsb' (2048 * m) 2048).toNat).map p.act.intVal).zip
        ((codesOf 8 p.kw (r.t[f.tb.toFin].extractLsb' (131072 / p.nw * n) (131072 / p.nw)).toNat).map p.wgt.intVal)))

/-- The outputs row by row, as the tile holds them (04 R91). -/
def int32Outputs (p : Pairing) (f : XForm) (r : Regs) : List (Nat × NumFlags) :=
  (List.range 64).flatMap (fun m => (List.range p.nw).map (int32Output p f r m))

theorem accumulator_code (t : TReg) {m n : Nat} (hm : m < 64) (hn : n < 64) :
    (codesOf 32 (64 * 64) t.toNat)[m * 64 + n]? = some (t.extractLsb' (2048 * m + 32 * n) 32).toNat := by
  rw [codesOf_getElem? (by omega), BitVec.extractLsb'_toNat, Nat.shiftRight_eq_div_pow,
    show 32 * (m * 64 + n) = 2048 * m + 32 * n by omega]

section
variable {p : Pairing} {f : XForm} {r : Regs} (hp : pairing f.pair.toNat = some p) (hacc : p.acc = .int32)
include hacc

theorem tileProduct_int32 (z : Bool) :
    tileProduct p f z r = (BitVec.ofNat 131072 (packCodes 32 ((int32Outputs p f r).map (·.1))),
      orFlags ((int32Outputs p f r).map (·.2))) := by
  simp only [tileProduct, hacc, AccFmt.width, zipIdx_map_range, List.flatMap_map, List.map_map]
  rfl

include hp

theorem int32Output_eq {m n : Nat} (hm : m < 64) (hn : n < 64) :
    int32Output p f r m n = mmaInt f.sat (priorOutput f r m n) (groupsOf 16 16 (operandPairs p f r m n)) := by
  obtain ⟨hg, hka, hkw, hnw⟩ := pairing_int32 f.pair.toFin p hp hacc
  rw [int32Output, hg, hka, hkw, hnw, accumulator_code _ hm hn, operandPairs_eq]
  rfl

theorem int32Outputs_getElem? {m n : Nat} (hm : m < 64) (hn : n < 64) :
    (int32Outputs p f r)[m * 64 + n]? = some (int32Output p f r m n) := by
  obtain ⟨-, -, -, hnw⟩ := pairing_int32 f.pair.toFin p hp hacc
  rw [int32Outputs, hnw]
  exact flatMap_range_getElem? _ hn hm

/-- Without SAT an output is the accumulator and the products of its operands, modulo 2^32, with no flag. -/
theorem int32Output_wraps (hsat : f.sat = false) {m n : Nat} (hm : m < 64) (hn : n < 64) :
    BitVec.ofNat 32 (int32Output p f r m n).1
        = BitVec.ofNat 32 ((priorOutput f r m n).getD 0) + BitVec.ofInt 32 (dot (operandPairs p f r m n))
      ∧ (int32Output p f r m n).2 = 0 := by
  rw [int32Output_eq hp hacc hm hn, hsat]
  have all := groupsOf_flatten 16 16 (operandPairs p f r m n) (by simp [operandPairs])
  simpa only [all] using mmaInt_wraps (groupsOf 16 16 (operandPairs p f r m n)) (priorOutput f r m n)

theorem tileProduct_output (hsat : f.sat = false) (z : Bool) {m n : Nat} (hm : m < 64) (hn : n < 64) :
    (tileProduct p f z r).1.extractLsb' (2048 * m + 32 * n) 32
      = BitVec.ofNat 32 ((priorOutput f r m n).getD 0) + BitVec.ofInt 32 (dot (operandPairs p f r m n)) := by
  rw [tileProduct_int32 hacc, show 2048 * m + 32 * n = 32 * (m * 64 + n) by omega, packCodes_extract 32 _ (by omega),
    List.getD_eq_getElem?_getD, List.getElem?_map, int32Outputs_getElem? hp hacc hm hn]
  exact (int32Output_wraps hp hacc hsat hm hn).1

theorem tileProduct_unflagged (hsat : f.sat = false) (z : Bool) : (tileProduct p f z r).2 = 0 := by
  obtain ⟨-, -, -, hnw⟩ := pairing_int32 f.pair.toFin p hp hacc
  rw [tileProduct_int32 hacc]
  refine orFlags_zero (fun fl hfl => ?_)
  simp only [int32Outputs, hnw, List.mem_map, List.mem_flatMap, List.mem_range] at hfl
  obtain ⟨_, ⟨m, hm, n, hn, rfl⟩, rfl⟩ := hfl
  exact (int32Output_wraps hp hacc hsat hm hn).2

end

end Sys2Proof.Machine
end

section
/-! SUPPORT. What X.MMA does where no watch of its plan covers its bundle (04 R98). -/

namespace Sys2Proof.Machine
open Sys2Proof

theorem xMma_writes {s : State} {c : CoreId} {f : XForm} {p : Pairing} (hp : pairing f.pair.toNat = some p)
    (hl : f.legal 0x01 = true) (h : CanIssue s c .x (mmaUses p f)) (hw : Unwatched s c .x) :
    ∃ t, exec (.xMma c f) s = .next t
      ∧ StaysOpen s t c .x 0x01
          ((found s c .x).regs.setT f.td (tileProduct p f (found s c .x).subFlush (operands s c .x)).1)
          (tileProduct p f (found s c .x).subFlush (operands s c .x)).2 := by
  have hx : exec (.xMma c f) s = .next (issueMma p f c s) := by
    change execXMma c f s = _
    rw [execXMma, hp, whenLegal_of hl]
  refine ⟨_, hx, issue_staysOpen h _ _ (fun i q he k hk => ⟨(k.count 0x040 1).counters, ?_⟩)⟩
  obtain ⟨regs, -, planCore, bundle, subFlush⟩ := begin_fields (found s c .x) .x 0x01
  rw [← hk] at regs planCore bundle subFlush
  simp only [modCore_cores_self, raiseFlags]
  rw [← subFlush, ← regs]
  exact congrArg some (raiseIn_written k _ _ _ (fun k' hc hb =>
    firedWatches_unwatched hw he (hc.trans planCore) (hb.trans bundle) _))

end Sys2Proof.Machine

open Sys2Proof Sys2Proof.Machine

/-- Settles O10: `xMma_writes` says what the instruction does, and `mmaInt_wraps` that the groups of an int32 product add up
to one sum. -/
theorem xMmaWritesItsTile : Obligations.XMmaWritesItsTile := by
  unfold Obligations.XMmaWritesItsTile
  refine ⟨fun s c f p hp hl h hw => ?effect, fun p f z r m n hp hacc hsat hm hn => ⟨?sum, ?flags⟩⟩
  case effect =>
    obtain ⟨t, hx, stays⟩ := xMma_writes hp hl h hw
    exact ⟨t, _, hx, stays, setT_frame .., setT_get _ _ _⟩
  case sum =>
    rw [tileProduct_output hp hacc hsat z hm hn, BitVec.ofInt_add, priorOutput_word, dot_operandPairs]
  case flags => exact tileProduct_unflagged hp hacc hsat z

end

section
/-! SUPPORT. Lanes of groups of long registers (05 R105, R106): a table of lane results, the group that takes it, and the
flags that it sets. -/

namespace Sys2Proof.Machine
open Sys2Proof

/-! ### Codes of a group -/

section
variable {w n k old : Nat}

theorem codesOf_getD (hk : k < n) (v : Nat) : (codesOf w n v).getD k 0 = v / 2 ^ (w * k) % 2 ^ w := by
  rw [List.getD_eq_getElem?_getD, codesOf_getElem? hk, Option.getD_some]

theorem packCodes_lt (w : Nat) : ∀ l : List Nat, packCodes w l < 2 ^ (w * l.length)
  | [] => Nat.two_pow_pos _
  | c :: l => by
    have low : c % 2 ^ w < 2 ^ w := Nat.mod_lt _ (Nat.two_pow_pos w)
    calc packCodes w (c :: l) < 2 ^ w * (packCodes w l + 1) := by rw [packCodes, Nat.mul_succ]; omega
      _ ≤ 2 ^ w * 2 ^ (w * l.length) := Nat.mul_le_mul_left _ (packCodes_lt w l)
      _ = 2 ^ (w * (c :: l).length) := by rw [List.length_cons, Nat.mul_succ, Nat.add_comm, Nat.pow_add]

/-- Codes packed below the rest of a bit string. -/
def packBelow (w : Nat) (l : List Nat) (old : Nat) : Nat :=
  packCodes w l + old / 2 ^ (w * l.length) * 2 ^ (w * l.length)

variable {l : List Nat}

theorem packBelow_above : packBelow w l old / 2 ^ (w * l.length) = old / 2 ^ (w * l.length) := by
  rw [packBelow, Nat.add_mul_div_right _ _ (Nat.two_pow_pos _), Nat.div_eq_of_lt (packCodes_lt w l), Nat.zero_add]

theorem packBelow_code (hk : k < l.length) : packBelow w l old / 2 ^ (w * k) % 2 ^ w = l.getD k 0 % 2 ^ w := by
  have inside : w * k + w ≤ w * l.length := by rw [← Nat.mul_succ]; exact Nat.mul_le_mul_left w hk
  rw [← packCodes_code]
  obtain ⟨d, hd⟩ := Nat.exists_eq_add_of_le inside
  have shift : old / 2 ^ (w * l.length) * 2 ^ (w * l.length)
      = 2 ^ (w * k) * (2 ^ w * (2 ^ d * (old / 2 ^ (w * l.length)))) := by
    rw [hd, Nat.pow_add, Nat.pow_add]; ring
  rw [packBelow, shift, Nat.add_mul_div_left _ _ (Nat.two_pow_pos _), Nat.add_mul_mod_self_left]

theorem packBelow_lt {N : Nat} (h : w * l.length ≤ N) (hold : old < 2 ^ N) : packBelow w l old < 2 ^ N := by
  obtain ⟨d, rfl⟩ := Nat.exists_eq_add_of_le h
  have high : old / 2 ^ (w * l.length) + 1 ≤ 2 ^ d :=
    Nat.div_lt_of_lt_mul (by rwa [← Nat.pow_add])
  calc packBelow w l old < (old / 2 ^ (w * l.length) + 1) * 2 ^ (w * l.length) := by
        rw [packBelow, Nat.succ_mul, Nat.add_comm]; exact Nat.add_lt_add_left (packCodes_lt w l) _
    _ ≤ 2 ^ d * 2 ^ (w * l.length) := Nat.mul_le_mul_right _ high
    _ = 2 ^ (w * l.length + d) := by rw [← Nat.pow_add, Nat.add_comm]

end

/-! ### A group read back -/

section
variable (r : Regs) (first : Nat)

theorem group_congr {r r' : Regs} {first : Nat} {g : Nat}
    (h : ∀ n, n < g → r'.v.getD (first + n) 0 = r.v.getD (first + n) 0) : r'.group first g = r.group first g := by
  induction g with
  | zero => rfl
  | succ g ih => rw [Regs.group, Regs.group, ih (fun n hn => h n (by omega)), h g (by omega)]

theorem group_setGroup (g val : Nat) (hg : first + g ≤ 64) :
    (r.setGroup first g val).group first g = val % 2 ^ (8192 * g) := by
  induction g with
  | zero => simp [Regs.group, Nat.mod_one]
  | succ g ih =>
    have below : (r.setGroup first (g + 1) val).group first g = (r.setGroup first g val).group first g := by
      refine group_congr (fun n hn => ?_)
      rw [Regs.setGroup, setV_getD _ _ _ _ (by omega), if_neg (by omega)]
    have top : (r.setGroup first (g + 1) val).v.getD (first + g) 0 = BitVec.ofNat 8192 (val / 2 ^ (8192 * g)) := by
      rw [Regs.setGroup, setV_getD _ _ _ _ (by omega), if_pos rfl]
    rw [Regs.group, below, top, ih (by omega), BitVec.toNat_ofNat, Nat.mul_succ, Nat.pow_add, Nat.mod_mul,
      Nat.mul_comm (2 ^ (8192 * g))]

end

/-- A legal group lies in the file and holds its lanes. -/
theorem GroupRef.legal_bounds {g : GroupRef} (h : g.legal = true) : g.first + g.size ≤ 64 ∧ g.w * g.n ≤ 8192 * g.size := by
  rw [GroupRef.legal] at h
  rw [GroupRef.size]
  split at h
  next => cases h
  next k hk =>
    rw [Bool.and_eq_true, decide_eq_true_eq] at h
    rw [hk, Option.getD_some]
    refine ⟨h.2, ?_⟩
    rw [groupFor] at hk
    split_ifs at hk <;> cases hk <;> omega

/-! ### Tables of lane results -/

/-- The results of the active lanes below `n`. -/
def laneTable {α : Type} (n : Nat) (active : Nat → Bool) (res : Nat → α) : List (Option α) :=
  (List.range n).map (fun j => if active j then some (res j) else none)

section
variable {α β : Type} {n : Nat} {active : Nat → Bool} {res : Nat → α}

theorem laneTable_length : (laneTable n active res).length = n := by rw [laneTable, List.length_map, List.length_range]

theorem laneTable_getElem? {j : Nat} (hj : j < n) :
    (laneTable n active res)[j]? = some (if active j then some (res j) else none) := by
  rw [laneTable, List.getElem?_map, List.getElem?_range hj, Option.map_some]

theorem laneTable_map (g : α → β) : (laneTable n active res).map (fun e => e.map g) = laneTable n active (fun j => g (res j)) := by
  rw [laneTable, List.map_map]
  refine List.map_congr_left (fun j _ => ?_)
  rw [Function.comp_apply]
  cases active j <;> rfl

theorem laneTable_filterMap (g : α → β) :
    (laneTable n active res).filterMap (fun e => e.map g) = ((List.range n).filter active).map (fun j => g (res j)) := by
  rw [laneTable]
  induction List.range n with
  | nil => rfl
  | cons j l ih => cases h : active j <;> simp [h, ih]

end

section
variable {n : Nat} {active : Nat → Bool} {res : Nat → Nat × NumFlags}

theorem orFlags_getLsbD (l : List NumFlags) (b : Nat) : (orFlags l).getLsbD b = true ↔ ∃ fl ∈ l, fl.getLsbD b = true := by
  have general : ∀ (l : List NumFlags) (a : NumFlags),
      (l.foldl (· ||| ·) a).getLsbD b = true ↔ a.getLsbD b = true ∨ ∃ fl ∈ l, fl.getLsbD b = true := by
    intro l
    induction l with
    | nil => simp
    | cons x l ih => intro a; rw [List.foldl_cons, ih, BitVec.getLsbD_or, Bool.or_eq_true, List.exists_mem_cons_iff, or_assoc]
  rw [orFlags, general]
  simp

/-- The flags of a table are those of its active lanes (02 R48). -/
theorem flagsOf_laneTable {α : Type} (n : Nat) (active : Nat → Bool) (res : Nat → α) (fl : α → NumFlags) :
    FlagsOf n active (fun j => fl (res j)) (orFlags ((laneTable n active res).filterMap (fun e => e.map fl))) := by
  intro b
  rw [laneTable_filterMap, orFlags_getLsbD]
  simp [and_assoc]

theorem laneTable_flags (n : Nat) (active : Nat → Bool) (res : Nat → Nat × NumFlags) :
    FlagsOf n active (fun j => (res j).2) (tableFlags (laneTable n active res)) :=
  flagsOf_laneTable n active res (·.2)

/-- The codes of a group after a table: the active lanes' results among the codes that stay. -/
def mergedCodes (w n old : Nat) (active : Nat → Bool) (res : Nat → Nat × NumFlags) : List Nat :=
  (List.range n).map (fun j => if active j then (res j).1 else old / 2 ^ (w * j) % 2 ^ w)

theorem mergedCodes_length (w old : Nat) : (mergedCodes w n old active res).length = n := by
  rw [mergedCodes, List.length_map, List.length_range]

theorem mergedCodes_code (w old : Nat) {j : Nat} (hj : j < n) :
    (mergedCodes w n old active res).getD j 0 % 2 ^ w
      = (if active j then some ((res j).1 % 2 ^ w) else none).getD (old / 2 ^ (w * j) % 2 ^ w) := by
  rw [List.getD_eq_getElem?_getD, mergedCodes, List.getElem?_map, List.getElem?_range hj, Option.map_some, Option.getD_some]
  split
  · rfl
  · exact Nat.mod_mod ..

theorem putTable_laneTable (r : Regs) (g : GroupRef) :
    r.putTable g (laneTable g.n active res)
      = r.setGroup g.first g.size (packBelow g.w (mergedCodes g.w g.n (r.group g.first g.size) active res)
          (r.group g.first g.size)) := by
  rw [Regs.putTable, packBelow, mergedCodes_length, codesOf, laneTable, List.zip_map', List.map_map, mergedCodes]
  congr 4
  funext j
  rw [Function.comp_apply]
  cases active j <;> rfl

/-- A group that takes a table holds the results in its active lanes, and nothing else changes. -/
theorem putTable_lanesWritten {g : GroupRef} (hg : g.legal = true) (r : Regs) (active : Nat → Bool)
    (res : Nat → Nat × NumFlags) :
    LanesWritten r (r.putTable g (laneTable g.n active res)) g
      (fun j => if active j then some ((res j).1 % 2 ^ g.w) else none) := by
  obtain ⟨inFile, holds⟩ := GroupRef.legal_bounds hg
  rw [putTable_laneTable]
  generalize hl : mergedCodes g.w g.n (r.group g.first g.size) active res = l
  have len : l.length = g.n := hl ▸ mergedCodes_length ..
  have value : (r.setGroup g.first g.size (packBelow g.w l (r.group g.first g.size))).group g.first g.size
      = packBelow g.w l (r.group g.first g.size) := by
    rw [group_setGroup _ _ _ _ inFile, Nat.mod_eq_of_lt (packBelow_lt (len.symm ▸ holds) (group_lt r _ _))]
  have frame := setGroup_frame r g.first g.size (packBelow g.w l (r.group g.first g.size))
  refine ⟨by rw [frame], by rw [frame], by rw [frame], by rw [frame], by rw [frame], fun n hn away => ?others,
    fun j hj => ?lane, ?above⟩
  case others => rw [setGroup_getD _ _ _ _ _ hn, if_neg (by omega)]
  case lane =>
    rw [groupCodes, codesOf_getElem? hj, value, packBelow_code (len.symm ▸ hj), ← hl, mergedCodes_code _ _ hj, groupCodes,
      codesOf_getD hj]
  case above => rw [value, ← len, packBelow_above]

end

end Sys2Proof.Machine
end

section
/-! SUPPORT. Issue of a V-slot instruction on a core that runs its plan, and in plain mode (05 R131). -/

namespace Sys2Proof.Machine
open Sys2Proof

/-! ### Which form acts, and how it issues -/

section
variable {s : State} {c : CoreId} {uses : List RegRef}

theorem plainMode_executing {e : Fin 16 × Plan} (h : executing s c = some e) : plainMode s c = false := by
  rw [executing] at h
  rw [plainMode]
  cases hp : s.cores[c].plan with
  | none => rw [hp] at h; cases h
  | some i => rfl

theorem CanIssue.notPlain {sl : Slot} (h : CanIssue s c sl uses) : plainMode s c = false := by
  obtain ⟨e, he⟩ := Option.isSome_iff_exists.mp h.1
  exact plainMode_executing he

theorem veInForce_planned (h : plainMode s c = false) (op : Nat) (f : VEForm) : veInForce s c op f = f := by
  rw [veInForce, h]; rfl

theorem vrInForce_planned (h : plainMode s c = false) (op : Nat) (f : VRForm) : vrInForce s c op f = f := by
  rw [vrInForce, h]; rfl

theorem vcInForce_planned (h : plainMode s c = false) (f : VCForm) (e : ChainEntry) (fo : Fmt) : vcInForce s c f e fo = f := by
  rw [vcInForce, h]; rfl

theorem modCore_const (k : Core) (f : Core → Core) : (s.modCore c (fun _ => k)).modCore c f = s.modCore c (fun _ => f k) :=
  modCore_modCore ..

theorem issueV_issues (h : plainMode s c = false) (op : Nat) (body : State → VIssue → State) :
    issueV s c op uses body = issue s c .v op uses (fun s x => some (body s ⟨c, some (x.i, x.p), x.rd⟩)) := by
  rw [issueV, h]; rfl

/-- A V-slot instruction that can issue changes its core as its body does. -/
theorem issueV_planned (h : CanIssue s c .v uses) {op : Nat} {body : State → VIssue → State} {k' : Core}
    (hb : ∀ i p, executing s c = some (i, p) →
      body (s.modCore c (fun _ => (found s c .v).begin .v op)) ⟨c, some (i, p), operands s c .v⟩ = s.modCore c (fun _ => k'))
    (hs : k'.sram = (found s c .v).sram) :
    OnlyRegisters c s (issueV s c op uses body) ∧ (issueV s c op uses body).cores[c] = k' := by
  obtain ⟨i, p, he, issued⟩ := issue_eq (op := op)
    (body := fun s x => some (body s ⟨c, some (x.i, x.p), x.rd⟩)) h
  have result : issueV s c op uses body = s.modCore c (fun _ => k') := by
    rw [issueV_issues h.notPlain, ← hb i p he]
    exact issued
  have only := onlyCore_modCore s c (fun _ => k')
  have self : (s.modCore c (fun _ => k')).cores[c] = k' := modCore_cores_self ..
  rw [result]
  exact ⟨⟨only, sameMemory_of _ _ c only (by rw [self, hs, found_sram])⟩, self⟩

/-- Flags that no watch sees are set in the step flags. -/
theorem raiseV_planned (hw : Unwatched s c .v) {i : Fin 16} {p : Plan} (he : executing s c = some (i, p)) {k : Core}
    {r : Regs} (fl : NumFlags) (hc : k.planCore = (found s c .v).planCore) (hb : k.bundle = (found s c .v).bundle) :
    raiseV (s.modCore c (fun _ => k)) ⟨c, some (i, p), r⟩ fl = s.modCore c (fun _ => k.flag fl) :=
  raiseIn_quiet i (firedWatches_unwatched hw he hc hb fl)

end

/-! ### Writing lanes -/

/-- The core after its lanes are counted (18 event catalogue). -/
def Core.countedLanes (k : Core) (fs : Fmt) (n : Nat) : Core :=
  (k.count 0x082 n).count 0x083 (if fs.dec.isSome then n else 0)

section
variable {s : State} {c : CoreId} {uses : List RegRef}

theorem countLanes_setRegs (k : Core) (g : Regs → Regs) (fs : Fmt) (n : Nat) :
    countLanes (setRegs (s.modCore c (fun _ => k)) c g) c fs n
      = s.modCore c (fun _ => { k with regs := g k.regs, counters := (k.countedLanes fs n).counters }) := by
  rw [setRegs_modCore, countLanes, modCore_const]
  rfl

/-- A V-slot instruction that can issue, and whose body changes of the core in its bundle only registers, step flags and
counters, leaves the bundle open. -/
theorem issueV_staysOpen (h : CanIssue s c .v uses) {op : Nat} {body : State → VIssue → State} (r : Regs) (fl : NumFlags)
    (hb : ∀ i p, executing s c = some (i, p) → ∀ k, k = (found s c .v).begin .v op → ∃ counters,
      body (s.modCore c (fun _ => k)) ⟨c, some (i, p), operands s c .v⟩
        = s.modCore c (fun _ => { k with regs := r, flagsStep := k.flagsStep ||| fl, counters := counters })) :
    StaysOpen s (issueV s c op uses body) c .v op r fl := by
  rw [issueV_issues h.notPlain]
  exact issue_staysOpen h r fl (fun i p he k hk => (hb i p he k hk).imp (fun _ result => congrArg some result))

/-- The same of a body that only writes registers. -/
theorem issueV_writesRegs (h : CanIssue s c .v uses) {op : Nat} {body : State → VIssue → State} (f : Regs → Regs → Regs)
    (hb : ∀ u x, body u x = setRegs u c (f x.rd)) :
    StaysOpen s (issueV s c op uses body) c .v op (f (operands s c .v) (found s c .v).regs) 0 := by
  rw [issueV_issues h.notPlain]
  exact issue_writesRegs h f (fun u _ => congrArg some (hb u _))

/-- The same of a body that writes registers, counts lanes and sets flags. -/
theorem issueV_writes (h : CanIssue s c .v uses) (hw : Unwatched s c .v) {op : Nat} {body : State → VIssue → State}
    (g : Regs → Regs) (fl : NumFlags) (fs : Fmt) (n : Nat)
    (hb : ∀ i p k, executing s c = some (i, p) → k = (found s c .v).begin .v op →
      body (s.modCore c (fun _ => k)) ⟨c, some (i, p), operands s c .v⟩
        = raiseV (countLanes (setRegs (s.modCore c (fun _ => k)) c g) c fs n) ⟨c, some (i, p), operands s c .v⟩ fl) :
    StaysOpen s (issueV s c op uses body) c .v op (g (found s c .v).regs) fl := by
  refine issueV_staysOpen h _ fl (fun i p he k hk => ⟨(k.countedLanes fs n).counters, ?_⟩)
  obtain ⟨regs, -, planCore, bundle, -⟩ := begin_fields (found s c .v) .v op
  rw [← hk] at regs planCore bundle
  rw [hb i p k he hk, countLanes_setRegs, regs]
  exact raiseV_planned hw he fl planCore bundle

/-- The same of a body that writes registers and sets flags without writing lanes. -/
theorem issueV_sets (h : CanIssue s c .v uses) (hw : Unwatched s c .v) {op : Nat} {body : State → VIssue → State}
    (g : Regs → Regs) (fl : NumFlags)
    (hb : ∀ i p k, executing s c = some (i, p) → k = (found s c .v).begin .v op →
      body (s.modCore c (fun _ => k)) ⟨c, some (i, p), operands s c .v⟩
        = raiseV (setRegs (s.modCore c (fun _ => k)) c g) ⟨c, some (i, p), operands s c .v⟩ fl) :
    StaysOpen s (issueV s c op uses body) c .v op (g (found s c .v).regs) fl := by
  refine issueV_staysOpen h _ fl (fun i p he k hk => ⟨k.counters, ?_⟩)
  obtain ⟨regs, -, planCore, bundle, -⟩ := begin_fields (found s c .v) .v op
  rw [← hk] at regs planCore bundle
  rw [hb i p k he hk, setRegs_modCore, regs]
  exact raiseV_planned hw he fl planCore bundle

end

/-! ### Form VE -/

section
variable {s : State} {c : CoreId} {f : VEForm} {fs fd : Fmt}

theorem groupCodes_eq (r : Regs) (g : GroupRef) :
    groupCodes r g = (List.range g.n).map (fun j => (groupCodes r g).getD j 0) :=
  List.map_congr_left (fun _ hj => (codesOf_getD (List.mem_range.mp hj) _).symm)

/-- The table of an instruction of form VE on operand registers `r`. -/
def veResults (op : Nat) (f : VEForm) (fs fd : Fmt) (flush : Bool) (r : Regs) (lane : LaneIn → Nat × NumFlags) :
    List (Option (Nat × NumFlags)) :=
  laneTable (countOf f.count) (fun j => (r.mask f.km).getLsbD j) (fun j => lane (laneInput op f fs fd flush r j))

theorem veTable_eq (op : Nat) (f : VEForm) (fs fd : Fmt) (flush : Bool) (r : Regs) (lane : LaneIn → Nat × NumFlags) :
    veTable op f fs fd flush r lane = veResults op f fs fd flush r lane := by
  simp only [veTable]
  rw [groupCodes_eq r ⟨f.va.toNat, fs.width, countOf f.count⟩, zipIdx_map_range, List.map_map]
  refine List.map_congr_left (fun j _ => ?_)
  have second : veLaneB f r fs.width (if f.sb then [] else if op = 0x20 then []
        else groupCodes r ⟨f.vb.toNat, fs.width, countOf f.count⟩) j = (laneInput op f fs fd flush r j).b := by
    simp only [veLaneB, laneInput]
    split_ifs <;> rfl
  have third : (if op = 0x04 ∨ op = 0x09 then groupCodes r ⟨f.vc.toNat, fs.width, countOf f.count⟩ else []).getD j 0
      = (laneInput op f fs fd flush r j).c := by
    simp only [laneInput]
    split_ifs <;> rfl
  simp only [Function.comp_apply, second, third]
  rfl

/-- A legal form whose opcode writes long registers names a legal group. -/
theorem VEForm.legal_dest {op : Nat} (hop : op ≠ 0x12) (h : f.legal op = true) (hd : f.dstFmt op = some fd) :
    GroupRef.legal ⟨f.vd.toNat, fd.width, countOf f.count⟩ = true := by
  rw [VEForm.legal] at h
  split at h
  next u fs fd' _ _ hd' =>
    obtain rfl : fd' = fd := Option.some.inj (hd'.symm.trans hd)
    simp only [VEForm.dstGroup, if_neg hop, groupsLegal, Bool.and_eq_true] at h
    exact h.2.2.1
  next => cases h

/-- What an instruction of form VE that writes a group does once it issues. -/
def veBody (op : Nat) (f : VEForm) (fs fd : Fmt) (lane : VIssue → LaneIn → Nat × NumFlags) (c : CoreId) (s : State)
    (x : VIssue) : State :=
  let t := veTable op f fs fd s.cores[c].subFlush x.rd (lane x)
  raiseV (countLanes (setRegs s c (·.putTable ⟨f.vd.toNat, fd.width, countOf f.count⟩ t)) c (if fd.dec.isSome then fd else fs)
    (t.countP (·.isSome))) x (tableFlags t)

theorem veExec_issues {op : Nat} {lane : VIssue → LaneIn → Nat × NumFlags} {g : VEForm} (hg : veInForce s c op f = g)
    (hl : g.legal op = true) (hs : Fmt.ofCode g.fmt.toNat = some fs) (hd : g.dstFmt op = some fd) :
    veExec op f lane c s = .next (issueV s c op (veUses op g fs fd) (veBody op g fs fd lane c)) := by
  rw [veExec, hg, hs, hd, hl, Bool.or_true]
  rfl

/-- An instruction of form VE writes its lanes' results into its destination group. -/
theorem veExec_writes {op : Nat} {lane : VIssue → LaneIn → Nat × NumFlags} {i : Fin 16} {p : Plan}
    {t : List (Option (Nat × NumFlags))} (he : executing s c = some (i, p)) (hl : f.legal op = true)
    (hs : Fmt.ofCode f.fmt.toNat = some fs) (hd : f.dstFmt op = some fd) (h : CanIssue s c .v (veUses op f fs fd))
    (hw : Unwatched s c .v)
    (ht : veResults op f fs fd (found s c .v).subFlush (operands s c .v) (lane ⟨c, some (i, p), operands s c .v⟩) = t) :
    ∃ s', veExec op f lane c s = .next s'
      ∧ StaysOpen s s' c .v op ((found s c .v).regs.putTable ⟨f.vd.toNat, fd.width, countOf f.count⟩ t) (tableFlags t) := by
  refine ⟨_, veExec_issues (veInForce_planned h.notPlain op f) hl hs hd, issueV_writes h hw
    (·.putTable ⟨f.vd.toNat, fd.width, countOf f.count⟩ t) (tableFlags t) (if fd.dec.isSome then fd else fs)
    (t.countP (·.isSome)) (fun i' p' k he' hk => ?_)⟩
  obtain ⟨rfl, rfl⟩ := Prod.mk.inj (Option.some.inj (he'.symm.trans he))
  obtain ⟨-, -, -, -, subFlush⟩ := begin_fields (found s c .v) .v op
  rw [← veTable_eq] at ht
  simp only [veBody, modCore_cores_self, hk, subFlush, ht]

end
end Sys2Proof.Machine
end

section
/-! SUPPORT. Element-wise instructions (05 R116-R119), also in plain mode (05 R131), and the statement about them. -/

namespace Sys2Proof.Machine
open Sys2Proof

/-! ### Plain mode -/

section
variable {s : State} {c : CoreId}

theorem modCore_self_eq {f : Core → Core} (h : f s.cores[c] = s.cores[c]) : s.modCore c f = s := by
  rw [State.modCore, h, Fin.getElem_fin, Vector.set_getElem_self]

/-- A core in plain mode; the lane bank that firmware picks is kept while the core stays in it. -/
theorem enterPlain_eq (s : State) (c : CoreId) : ∃ bank free,
    enterPlain s c = ({ s with free := free } : State).modCore c
        (fun _ => { s.cores[c] with plain := true, plainBank := bank })
      ∧ (s.cores[c].plain = true → bank = s.cores[c].plainBank) := by
  rw [enterPlain]
  split
  next plain =>
    refine ⟨s.cores[c].plainBank, s.free, (modCore_self_eq ?_).symm, fun _ => rfl⟩
    rw [← plain]
  next away => exact ⟨_, _, rfl, fun plain => absurd plain away⟩

/-- An instruction of form VE in plain mode acts with a COUNT of 128 bits' lanes at most, on the core's own registers. -/
theorem veExec_plain {op : Nat} {f g : VEForm} {fs fd : Fmt} {lane : VIssue → LaneIn → Nat × NumFlags}
    {t : List (Option (Nat × NumFlags))} (hm : plainMode s c = true) (hs : Fmt.ofCode f.fmt.toNat = some fs)
    (hd : f.dstFmt op = some fd) (hg : { f with count := plainCount f.count (max fs.width fd.width) } = g)
    (hl : g.legal op = true)
    (ht : veResults op g fs fd s.cores[c].subFlush s.cores[c].regs (lane ⟨c, none, s.cores[c].regs⟩) = t) :
    ∃ bank free counters, veExec op f lane c s = .next (({ s with free := free } : State).modCore c (fun _ =>
        { s.cores[c] with regs := s.cores[c].regs.putTable ⟨f.vd.toNat, fd.width, countOf g.count⟩ t,
                          flagsStep := s.cores[c].flagsStep ||| tableFlags t, counters := counters, plain := true,
                          plainBank := bank }))
      ∧ (s.cores[c].plain = true → bank = s.cores[c].plainBank) := by
  have acts : veInForce s c op f = g := by rw [veInForce, hm, hs, hd, ← hg]; rfl
  obtain ⟨bank, free, entered, kept⟩ := enterPlain_eq s c
  refine ⟨bank, free, (s.cores[c].countedLanes (if fd.dec.isSome then fd else fs) (t.countP (·.isSome))).counters, ?_, kept⟩
  rw [veExec_issues (fs := fs) (fd := fd) acts hl (by rw [← hg]; exact hs) (by rw [← hg]; exact hd), issueV, hm, entered]
  rw [← veTable_eq] at ht
  simp only [if_true, veBody, modCore_cores_self, ht, countLanes_setRegs, raiseV, modCore_const]
  rw [← hg]
  rfl

theorem width_pos_le (f : Fmt) : 1 ≤ f.width ∧ f.width ≤ 128 := by cases f <;> decide

theorem countOf_pos (n : BitVec 12) : 1 ≤ countOf n := by
  rw [countOf]
  split
  · decide
  · rename_i h
    exact Nat.one_le_iff_ne_zero.mpr (fun hn => h (BitVec.eq_of_toNat_eq hn))

theorem countOf_ofNat {n : Nat} (low : 1 ≤ n) (high : n < 4096) : countOf (BitVec.ofNat 12 n) = n := by
  have value : (BitVec.ofNat 12 n).toNat = n := by rw [BitVec.toNat_ofNat, Nat.mod_eq_of_lt high]
  rw [countOf, if_neg, value]
  intro h
  rw [h] at value
  exact absurd value (Nat.ne_of_lt low)

/-- The effective COUNT is that of the lanes of 128 bits. -/
theorem countOf_plainCount (n : BitVec 12) (fs fd : Fmt) :
    countOf (plainCount n (max fs.width fd.width)) = min (countOf n) (128 / max fs.width fd.width) := by
  obtain ⟨slow, shigh⟩ := width_pos_le fs
  obtain ⟨dlow, dhigh⟩ := width_pos_le fd
  have some : 1 ≤ 128 / max fs.width fd.width := (Nat.le_div_iff_mul_le (by omega)).mpr (by omega)
  have few : 128 / max fs.width fd.width ≤ 128 := Nat.div_le_self ..
  have := countOf_pos n
  exact countOf_ofNat (by omega) (by omega)

end

/-! ### The instructions -/

/-- Every element-wise instruction runs `veExec` with its operation. -/
theorem elementwise_veExec {c : CoreId} {f : VEForm} {fs : Fmt} {own : Option (Fin 16 × Plan)} {r : Regs} :
    ∀ e ∈ elementwise c f fs own r, e.2.1 ≠ 0x12 ∧ ∃ lane : VIssue → LaneIn → Nat × NumFlags,
      (∀ s, exec e.1 s = veExec e.2.1 f lane c s) ∧ ∀ l : LaneIn, l.fs = fs → lane ⟨c, own, r⟩ l = e.2.2 l := by
  intro e he
  rw [elementwise] at he
  fin_cases he <;> exact ⟨by simp, _, fun _ => rfl, fun l h => by subst h; rfl⟩

theorem veResults_congr {op : Nat} {f : VEForm} {fs fd : Fmt} {z : Bool} {r : Regs} {g h : LaneIn → Nat × NumFlags}
    (same : ∀ l : LaneIn, l.fs = fs → g l = h l) : veResults op f fs fd z r g = veResults op f fs fd z r h := by
  rw [veResults, veResults]
  congr 1
  funext j
  exact same _ rfl

end Sys2Proof.Machine

open Sys2Proof Sys2Proof.Machine

/-- Settles O11: each instruction runs `veExec`, whose table of results `putTable_lanesWritten` and `laneTable_flags` read
back; in plain mode the table has the lanes that `countOf_plainCount` gives. -/
theorem vElementwise : Obligations.VElementwise := by
  unfold Obligations.VElementwise
  refine ⟨fun s c f fs fd i p e he hx hl hs hd h hw => ?planned, fun s c f fs fd e he hm hl hs hd => ?plain⟩
  case planned =>
    obtain ⟨hop, lane, runs, same⟩ := elementwise_veExec e he
    obtain ⟨t, ht, stays⟩ := veExec_writes hx hl hs hd h hw (veResults_congr same)
    exact ⟨t, _, _, (runs s).trans ht, laneTable_flags _ _ _, stays,
      putTable_lanesWritten (VEForm.legal_dest hop hl hd) ..⟩
  case plain =>
    obtain ⟨hop, lane, runs, same⟩ := elementwise_veExec e he
    have count := countOf_plainCount f.count fs fd
    obtain ⟨bank, free, counters, ht, kept⟩ := veExec_plain hm hs hd rfl hl (veResults_congr same)
    have written := putTable_lanesWritten (VEForm.legal_dest hop hl hd) s.cores[c].regs
    have flagged := laneTable_flags (min (countOf f.count) (128 / max fs.width fd.width))
    rw [plainCount] at count
    simp only [veResults, plainCount, count] at written ht
    exact ⟨_, _, _, (runs s).trans ht, flagged _ _, written _ _, rfl, fun d away => modCore_other _ _ _ _ away,
      by rw [modCore_cores_self], fun on => (by rw [modCore_cores_self]; exact kept on)⟩
end

section
/-! SUPPORT. V.CMP (05 R116), and the statement about it. -/

namespace Sys2Proof.Machine
open Sys2Proof

/-! ### Masks -/

section
variable {n : Nat} {active : Nat → Bool} {res : Nat → Nat × NumFlags}

/-- A mask that takes a table has the results' low bits in its active lanes, and keeps the others. -/
theorem putMask_getLsbD (old : KMask) {j : Nat} (hj : j < 4096) :
    (putMask old (laneTable n active res)).getLsbD j
      = if j < n ∧ active j = true then (res j).1.testBit 0 else old.getLsbD j := by
  have merged : putMask old (laneTable n active res)
      = BitVec.ofNat 4096 (packBelow 1 (mergedCodes 1 n old.toNat active res) old.toNat) := by
    rw [putMask, updateLanes, laneTable_length, packBelow, mergedCodes_length, codesOf, zipIdx_map_range, List.map_map,
      mergedCodes]
    congr 3
    refine List.map_congr_left (fun k hk => ?_)
    rw [Function.comp_apply, List.getD_eq_getElem?_getD, laneTable_getElem? (List.mem_range.mp hk)]
    cases active k <;> rfl
  have bit (v : Nat) : v.testBit j = (v / 2 ^ (1 * j) % 2 ^ 1).testBit 0 := by
    rw [Nat.one_mul, Nat.testBit_mod_two_pow, Nat.testBit_div_two_pow, Nat.zero_add]
    rfl
  rw [merged, BitVec.getLsbD_ofNat, decide_eq_true hj, Bool.true_and]
  by_cases inside : j < n
  · rw [bit, packBelow_code (by rwa [mergedCodes_length]), mergedCodes_code _ _ inside, BitVec.getLsbD, bit old.toNat]
    simp only [inside, true_and]
    split
    · rw [Option.getD_some, Nat.testBit_mod_two_pow]
      rfl
    · rfl
  · rw [if_neg (fun h => inside h.1)]
    have above := packBelow_above (w := 1) (l := mergedCodes 1 n old.toNat active res) (old := old.toNat)
    rw [mergedCodes_length, Nat.one_mul] at above
    obtain ⟨k, rfl⟩ := Nat.exists_eq_add_of_le' (Nat.le_of_not_lt inside)
    rw [BitVec.getLsbD, ← Nat.testBit_div_two_pow, ← Nat.testBit_div_two_pow, above]

theorem setK_mask (r : Regs) {d : Nat} (low : d ≠ 0) (high : d < 8) (v : KMask) (m : BitVec 3) :
    (r.setK d v).mask m = if m.toNat = d then v else r.mask m := by
  rw [Regs.setK, Nat.mod_eq_of_lt high, if_neg low, Regs.mask, Regs.mask]
  by_cases hm : m = 0
  · subst hm
    exact (if_neg (Ne.symm low)).symm
  · rw [if_neg hm, if_neg hm]
    simp only [Fin.getElem_fin, Vector.getElem_setIfInBounds, eq_comm (a := d)]
    rfl

theorem setK_frame (r : Regs) (d : Nat) (v : KMask) : r.setK d v = { r with k := (r.setK d v).k } := by
  rw [Regs.setK]
  split <;> rfl

end

/-! ### The instruction -/

theorem laneCmp_code (f : Fmt) (flush : Bool) (cond a b : Nat) :
    (laneCmp f flush cond a b).1.testBit 0 = ((laneCmp f flush cond a b).1 == 1) := by
  have bool (x : Bool) : x.toNat.testBit 0 = (x.toNat == 1) := by cases x <;> rfl
  rw [laneCmp]
  split <;> exact bool _

theorem VEForm.legal_compare {f : VEForm} (h : f.legal 0x12 = true) : f.vd.toNat ≠ 0 ∧ f.vd.toNat < 8 := by
  rw [VEForm.legal] at h
  split at h
  next =>
    simp only [Bool.and_eq_true, decide_eq_true_eq, bne_iff_ne] at h
    obtain ⟨⟨-, ⟨low, nonzero⟩, -⟩, -⟩ := h
    exact ⟨fun h0 => nonzero (BitVec.eq_of_toNat_eq h0), low⟩
  next => cases h

section
variable {s : State} {c : CoreId} {f : VEForm} {fs : Fmt}

/-- What V.CMP does once it issues. -/
def cmpBody (f : VEForm) (fs : Fmt) (c : CoreId) (s : State) (x : VIssue) : State :=
  let t := veTable 0x12 f fs fs s.cores[c].subFlush x.rd (fun l => laneCmp l.fs l.flush f.aux.toNat l.a l.b)
  raiseV (countLanes (setRegs s c (fun r => r.setK f.vd.toNat (putMask (r.mask (f.vd.setWidth 3)) t))) c fs
    (t.countP (·.isSome))) x (tableFlags t)

theorem vCmp_issues (hm : plainMode s c = false) (hl : f.legal 0x12 = true) (hs : Fmt.ofCode f.fmt.toNat = some fs) :
    exec (.vCmp c f) s = .next (issueV s c 0x12 (veUses 0x12 f fs fs) (cmpBody f fs c)) := by
  change execVCmp c f s = _
  rw [execVCmp, veInForce_planned hm, hl, hs]
  rfl

/-- V.CMP writes the lanes' conditions into its mask. -/
theorem vCmp_writes {t : List (Option (Nat × NumFlags))} (hl : f.legal 0x12 = true) (hs : Fmt.ofCode f.fmt.toNat = some fs)
    (h : CanIssue s c .v (veUses 0x12 f fs fs)) (hw : Unwatched s c .v)
    (ht : veResults 0x12 f fs fs (found s c .v).subFlush (operands s c .v)
      (fun l => laneCmp l.fs l.flush f.aux.toNat l.a l.b) = t) :
    ∃ s', exec (.vCmp c f) s = .next s'
      ∧ StaysOpen s s' c .v 0x12
          ((found s c .v).regs.setK f.vd.toNat (putMask ((found s c .v).regs.mask (f.vd.setWidth 3)) t)) (tableFlags t) := by
  refine ⟨_, vCmp_issues h.notPlain hl hs, issueV_writes h hw
    (fun r => r.setK f.vd.toNat (putMask (r.mask (f.vd.setWidth 3)) t)) (tableFlags t) fs (t.countP (·.isSome))
    (fun i p k _ hk => ?_)⟩
  obtain ⟨-, -, -, -, subFlush⟩ := begin_fields (found s c .v) .v 0x12
  rw [← veTable_eq] at ht
  simp only [cmpBody, modCore_cores_self, hk, subFlush, ht]

end
end Sys2Proof.Machine

open Sys2Proof Sys2Proof.Machine

/-- Settles O12: `vCmp_writes` says which mask is written, and `putMask_getLsbD` what stands in its lanes. -/
theorem vCompare : Obligations.VCompare := by
  unfold Obligations.VCompare
  intro s c f fs k r n active res hl hs h hw
  obtain ⟨low, high⟩ := VEForm.legal_compare hl
  obtain ⟨t, ht, stays⟩ := vCmp_writes hl hs h hw rfl
  have named : (f.vd.setWidth 3).toNat = f.vd.toNat := by rw [BitVec.toNat_setWidth, Nat.mod_eq_of_lt high]
  refine ⟨t, _, _, ht, laneTable_flags _ _ _, stays, setK_frame .., fun m away => ?others, fun j hj => ?lanes⟩
  case others => rw [setK_mask _ low high, if_neg away]
  case lanes =>
    rw [setK_mask _ low high, if_pos named, veResults, putMask_getLsbD _ hj, laneCmp_code]
    rfl
end

section
/-! SUPPORT. V.WUPD (05 R120; 14 R324, R325, R337), and the statement about it. -/

namespace Sys2Proof.Machine
open Sys2Proof

/-! ### The monitor of a core -/

/-- The monitor changes the ratio sums of its core, by what stood in them. -/
theorem monitor_eq {k k' : Core} (tensor : BitVec 32) (lanes : List (FVal × FVal)) (hr : k'.ratio = k.ratio)
    (hl : k'.ratioLost = k.ratioLost) :
    k'.monitor tensor lanes = { k' with ratio := (k.monitor tensor lanes).ratio,
                                        ratioLost := (k.monitor tensor lanes).ratioLost } := by
  simp only [Core.monitor, hr]
  split
  · rw [← hr, ← hl]
  · split
    · rw [← hl]
    · split
      · rw [← hl]
      · rw [← hr]

section
variable {s : State} {c : CoreId} {f : VEForm} {fs fd : Fmt}

/-- The ratio sums after a V.WUPD. -/
def Core.monitorIf (k : Core) (monitored : Bool) (tensor : BitVec 32) (lanes : List (FVal × FVal)) : Core :=
  if monitored then k.monitor tensor lanes else k

theorem monitorIf_eq {k k' : Core} (m : Bool) (tensor : BitVec 32) (lanes : List (FVal × FVal)) (hr : k'.ratio = k.ratio)
    (hl : k'.ratioLost = k.ratioLost) :
    k'.monitorIf m tensor lanes = { k' with ratio := (k.monitorIf m tensor lanes).ratio,
                                            ratioLost := (k.monitorIf m tensor lanes).ratioLost } := by
  cases m with
  | true => exact monitor_eq tensor lanes hr hl
  | false => rw [Core.monitorIf, Core.monitorIf, if_neg (by decide), if_neg (by decide), ← hr, ← hl]

/-! ### The instruction -/

/-- What V.WUPD does once it issues in a plan's program. -/
def wupdBody (f : VEForm) (fs fd : Fmt) (c : CoreId) (i : Fin 16) (p : Plan) (r : Regs) (s : State) : State :=
  let x : VIssue := ⟨c, some (i, p), r⟩
  let flush := s.cores[c].subFlush
  let t := veTable 0x21 f fs fd flush r (laneWupd f (p.img.hdr.seed, p.step) x)
  let s := setRegs s c (·.putTable ⟨f.vd.toNat, fd.width, countOf f.count⟩ t)
  let tensor : BitVec 32 := (r.getS f.vc.toNat).extractLsb' 32 32
  let s := if p.img.ratios.any (fun e => e.tensor == tensor) then s.modCore c (·.monitor tensor (monitorLanes f fs flush r)) else s
  raiseV (countLanes s c fs (t.countP (·.isSome))) x (tableFlags t)

theorem vWupd_issues (hm : plainMode s c = false) (hl : f.legal 0x21 = true) (hs : Fmt.ofCode f.fmt.toNat = some fs)
    (hd : f.dstFmt 0x21 = some fd) : ∃ body, exec (.vWupd c f) s = .next (issueV s c 0x21 (veUses 0x21 f fs fd) body)
      ∧ ∀ u i p r, body u ⟨c, some (i, p), r⟩ = wupdBody f fs fd c i p r u := by
  change ∃ body, execVWupd c f s = _ ∧ _
  rw [execVWupd, veInForce_planned hm, hl, weightUpdate, hs, hd]
  exact ⟨_, rfl, fun _ _ _ _ => rfl⟩

theorem wupdBody_eq {i : Fin 16} {p : Plan} {r : Regs} {t : List (Option (Nat × NumFlags))} (k : Core)
    (ht : veResults 0x21 f fs fd k.subFlush r (laneWupd f (p.img.hdr.seed, p.step) ⟨c, some (i, p), r⟩) = t) :
    wupdBody f fs fd c i p r (s.modCore c (fun _ => k))
      = raiseV (countLanes (s.modCore c (fun _ =>
          { k with regs := k.regs.putTable ⟨f.vd.toNat, fd.width, countOf f.count⟩ t }.monitorIf
            (p.img.ratios.any (fun e => e.tensor == (r.getS f.vc.toNat).extractLsb' 32 32))
            ((r.getS f.vc.toNat).extractLsb' 32 32) (monitorLanes f fs k.subFlush r))) c fs (t.countP (·.isSome)))
          ⟨c, some (i, p), r⟩ (tableFlags t) := by
  rw [← veTable_eq] at ht
  simp only [wupdBody, modCore_cores_self, ht, setRegs_modCore, modCore_const, Core.monitorIf]
  split <;> rfl

/-- V.WUPD writes its lanes' results, and its core's monitor takes the lanes where a ratio table names the tensor. -/
theorem vWupd_writes {i : Fin 16} {p : Plan} {t : List (Option (Nat × NumFlags))} {m : Core}
    (he : executing s c = some (i, p)) (hl : f.legal 0x21 = true)
    (hs : Fmt.ofCode f.fmt.toNat = some fs) (hd : f.dstFmt 0x21 = some fd) (h : CanIssue s c .v (veUses 0x21 f fs fd))
    (hw : Unwatched s c .v)
    (ht : veResults 0x21 f fs fd (found s c .v).subFlush (operands s c .v)
      (laneWupd f (p.img.hdr.seed, p.step) ⟨c, some (i, p), operands s c .v⟩) = t)
    (hm : (found s c .v).monitorIf
        (p.img.ratios.any (fun e => e.tensor == ((operands s c .v).getS f.vc.toNat).extractLsb' 32 32))
        (((operands s c .v).getS f.vc.toNat).extractLsb' 32 32)
        (monitorLanes f fs (found s c .v).subFlush (operands s c .v)) = m) :
    ∃ s' counters, exec (.vWupd c f) s = .next s' ∧ OnlyRegisters c s s'
      ∧ s'.cores[c] = { (found s c .v).begin .v 0x21 with
          regs := (found s c .v).regs.putTable ⟨f.vd.toNat, fd.width, countOf f.count⟩ t,
          flagsStep := (found s c .v).flagsStep ||| tableFlags t, counters := counters, ratio := m.ratio,
          ratioLost := m.ratioLost } := by
  obtain ⟨body, runs, effect⟩ := vWupd_issues h.notPlain hl hs hd
  obtain ⟨regs, sram, planCore, bundle, subFlush⟩ := begin_fields (found s c .v) .v 0x21
  refine ⟨_, (((found s c .v).begin .v 0x21).countedLanes fs (t.countP (·.isSome))).counters, runs, issueV_planned h
    (fun i' p' he' => ?_) sram⟩
  obtain ⟨rfl, rfl⟩ := Prod.mk.inj (Option.some.inj (he'.symm.trans he))
  rw [← subFlush] at ht
  rw [effect, wupdBody_eq _ ht, subFlush, monitorIf_eq (k := found s c .v), hm, regs, countLanes, modCore_const,
    raiseV_planned hw he]
  · rfl
  · exact planCore
  · exact bundle
  · rfl
  · rfl

end
end Sys2Proof.Machine

open Sys2Proof Sys2Proof.Machine

/-- Settles O13: `vWupd_writes` says what is written, each lane by `laneWupd`, and what the monitor takes. -/
theorem vWeightUpdate : Obligations.VWeightUpdate := by
  unfold Obligations.VWeightUpdate
  intro s c f fs fd i p k r n active key res monitored he hl hs hd h hw
  obtain ⟨t, counters, ht, only, core⟩ := vWupd_writes he hl hs hd h hw rfl rfl
  have lane (j : Nat) : res j = laneWupd f (p.img.hdr.seed, p.step) ⟨c, some (i, p), r⟩
      (laneInput 0x21 f fs fd k.subFlush r j) := by
    simp only [res, laneWupd, laneInput]
    cases fd.fp <;> rfl
  clear_value res
  obtain rfl := funext lane
  refine ⟨t, _, _, ht, laneTable_flags _ _ _, putTable_lanesWritten (VEForm.legal_dest (by decide) hl hd) _ _ _, only, ?core,
    fun off => ?unmonitored, fun on => ?monitored⟩
  case core => rw [core]; rfl
  case unmonitored =>
    rw [core]
    change (k.monitorIf monitored _ _).ratio = _ ∧ (k.monitorIf monitored _ _).ratioLost = _
    rw [off]
    exact ⟨rfl, rfl⟩
  case monitored =>
    rw [core]
    change (k.monitorIf monitored _ _).ratio = _ ∧ (k.monitorIf monitored _ _).ratioLost = _
    rw [on]
    exact ⟨rfl, rfl⟩
end

section
/-! SUPPORT. V.CHAIN (05 R121-R124), and the statement about it. -/

namespace Sys2Proof.Machine
open Sys2Proof

/-! ### Reduction accumulators (05 R127) -/

theorem vector_set_get {α : Type} {n : Nat} (v : Vector α n) (i m : Fin n) (x : α) :
    (v.set i x)[m] = if m = i then x else v[m] := by
  simp only [Fin.getElem_fin, Vector.getElem_set, Fin.ext_iff, eq_comm]

/-- RA0 or RA1 takes the values as they are read, in order. -/
theorem addReal_get (k : Core) (ra : Nat) (F : FFmt) (codes : List Nat) (m : Fin 2) :
    (k.addReal ra F codes).1.ra01[m]
      = if m = ⟨ra % 2, Nat.mod_lt _ (by decide)⟩
        then codes.foldl (fun a v => a.add (F.read k.subFlush v).1) k.ra01[(⟨ra % 2, Nat.mod_lt _ (by decide)⟩ : Fin 2)]
        else k.ra01[m] := by
  simp only [Core.addReal, List.foldl_map]
  exact vector_set_get k.ra01 ⟨ra % 2, _⟩ m _

theorem addReal_flags (k : Core) (ra : Nat) (F : FFmt) (codes : List Nat) :
    (k.addReal ra F codes).2 = orFlags ((codes.map (F.read k.subFlush)).map (·.2)) &&& flagFlush := rfl

/-! ### Lanes of a chain -/

/-- What a chain is given in lane `j`, by input number. -/
def chainInputs (f : VCForm) (e : ChainEntry) (r : Regs) (j : Nat) : List (Fmt × Nat) :=
  (chainGroups f e).map (fun g =>
    match g with
    | some (t, g) => (t, (groupCodes r g).getD j 0)
    | none => (e.prec, 0))

/-- What a chain gives in lane `j`. -/
def chainResult (f : VCForm) (e : ChainEntry) (fo : Fmt) (flush : Bool) (r : Regs) (j : Nat) : Nat × Nat × NumFlags :=
  chainLane e flush r fo (chainInputs f e r j)

/-- The active lanes' results of a chain. -/
def chainTable (f : VCForm) (e : ChainEntry) (fo : Fmt) (flush : Bool) (r : Regs) : List (Option (Nat × Nat × NumFlags)) :=
  laneTable (countOf f.count) (fun j => (r.mask f.km).getLsbD j) (chainResult f e fo flush r)

/-- The accumulators and the flag of a reduction of the working values of a table, under RED. -/
def Core.chainSums (k : Core) (f : VCForm) (e : ChainEntry) (t : List (Option (Nat × Nat × NumFlags))) :
    Vector RealAcc 2 × NumFlags :=
  if f.red then
    ((k.addReal f.racc.toNat e.fp (t.filterMap (fun l => l.map (·.1)))).1.ra01,
      (k.addReal f.racc.toNat e.fp (t.filterMap (fun l => l.map (·.1)))).2)
  else (k.ra01, 0)

/-- The registers after the output lanes of a table, unless under NOWR. -/
def chainRegs (f : VCForm) (fo : Fmt) (t : List (Option (Nat × Nat × NumFlags))) (r : Regs) : Regs :=
  if f.nowr then r else r.putTable ⟨f.vd.toNat, fo.width, countOf f.count⟩ (t.map (fun l => l.map (·.2)))

/-- The core after a table of a chain, without its flags. -/
def Core.chained (k : Core) (f : VCForm) (e : ChainEntry) (fo : Fmt) (t : List (Option (Nat × Nat × NumFlags))) : Core :=
  { k with regs := chainRegs f fo t k.regs, ra01 := (k.chainSums f e t).1,
           counters := if f.nowr then k.counters else (k.countedLanes fo (t.countP (·.isSome))).counters }

def chainFlags (t : List (Option (Nat × Nat × NumFlags))) : NumFlags := orFlags (t.filterMap (fun l => l.map (·.2.2)))

/-! ### The instruction -/

section
variable {s : State} {c : CoreId} {f : VCForm} {e : ChainEntry} {fo : Fmt}

/-- What V.CHAIN does once it issues. -/
def chainBody (f : VCForm) (e : ChainEntry) (fo : Fmt) (c : CoreId) (s : State) (x : VIssue) : State :=
  let flush := s.cores[c].subFlush
  let n := countOf f.count
  let m := x.rd.mask f.km
  let ins := (chainGroups f e).map (fun g => match g with | some (t, g) => (t, groupCodes x.rd g) | none => (e.prec, []))
  let lanes := (List.range n).map (fun i =>
    if m.getLsbD i then some (chainLane e flush x.rd fo (ins.map (fun p => (p.1, p.2.getD i 0)))) else none)
  let fl := orFlags (lanes.filterMap (fun l => l.map (·.2.2)))
  let s := if f.nowr then s else
    countLanes (setRegs s c (·.putTable ⟨f.vd.toNat, fo.width, n⟩ (lanes.map (fun l => l.map (·.2))))) c fo
      (lanes.countP (·.isSome))
  let (k, g) := if f.red then s.cores[c].addReal f.racc.toNat e.fp (lanes.filterMap (fun l => l.map (·.1)))
    else (s.cores[c], 0)
  raiseV (s.modCore c (fun _ => k)) x (fl ||| g)

theorem runChain_eq (f : VCForm) (e : ChainEntry) (fo : Fmt) (c : CoreId) (s : State) :
    runChain f e fo c s = issueV s c 0x30 (chainUses f e fo) (chainBody f e fo c) := rfl

theorem chainInputs_eq (r : Regs) (j : Nat) :
    ((chainGroups f e).map (fun g => match g with | some (t, g) => (t, groupCodes r g) | none => (e.prec, []))).map
        (fun p => (p.1, p.2.getD j 0)) = chainInputs f e r j := by
  rw [List.map_map]
  refine List.map_congr_left (fun g _ => ?_)
  cases g <;> rfl

theorem chainBody_eq (k : Core) (x : VIssue) :
    let t := chainTable f e fo k.subFlush x.rd
    chainBody f e fo c (s.modCore c (fun _ => k)) x
      = raiseV (s.modCore c (fun _ => k.chained f e fo t)) x (chainFlags t ||| (k.chainSums f e t).2) := by
  intro t
  have table : (List.range (countOf f.count)).map (fun i => if (x.rd.mask f.km).getLsbD i then
      some (chainLane e k.subFlush x.rd fo (chainInputs f e x.rd i)) else none) = t := rfl
  simp only [chainBody, modCore_cores_self, chainInputs_eq, table, chainFlags, Core.chained, chainRegs, Core.chainSums]
  cases f.nowr <;> cases f.red <;>
    simp only [if_true, if_false, Bool.false_eq_true, countLanes_setRegs, modCore_cores_self, modCore_const] <;> rfl

/-- V.CHAIN runs its entry on each active lane. -/
theorem vChain_writes {w : BitVec 320} {t : List (Option (Nat × Nat × NumFlags))}
    (hc : s.cores[c].chains[f.chain.toNat]? = some w) (hf : Fmt.ofCode (chainEntry w).fmtO = some fo) (hl : f.legal = true)
    (h : CanIssue s c .v (chainUses f (chainEntry w) fo)) (hw : Unwatched s c .v)
    (ht : chainTable f (chainEntry w) fo (found s c .v).subFlush (operands s c .v) = t) :
    ∃ s' counters, exec (.vChain c f) s = .next s' ∧ OnlyRegisters c s s'
      ∧ s'.cores[c] = { (found s c .v).begin .v 0x30 with
          regs := chainRegs f fo t (found s c .v).regs,
          flagsStep := (found s c .v).flagsStep ||| (chainFlags t ||| ((found s c .v).chainSums f (chainEntry w) t).2),
          counters := counters, ra01 := ((found s c .v).chainSums f (chainEntry w) t).1 } := by
  have runs : exec (.vChain c f) s
      = .next (issueV s c 0x30 (chainUses f (chainEntry w) fo) (chainBody f (chainEntry w) fo c)) := by
    change execVChain c f s = _
    rw [execVChain, hc, hl]
    simp only [hf]
    rw [vcInForce_planned h.notPlain, runChain_eq]
    rfl
  obtain ⟨regs, sram, planCore, bundle, subFlush⟩ := begin_fields (found s c .v) .v 0x30
  refine ⟨_, (((found s c .v).begin .v 0x30).chained f (chainEntry w) fo t).counters, runs,
    issueV_planned h (fun i p he => ?_) sram⟩
  rw [← subFlush] at ht
  rw [chainBody_eq, ht, raiseV_planned hw he]
  · rfl
  · exact planCore
  · exact bundle

end
end Sys2Proof.Machine

open Sys2Proof Sys2Proof.Machine

/-- Settles O14: `vChain_writes` says what the core is after the table of results. -/
theorem vChains : Obligations.VChains := by
  unfold Obligations.VChains
  intro s c f w fo k r n e active ins res ra vals hc hf hl hg h hw
  generalize hT : chainTable f e fo k.subFlush r = T
  obtain ⟨t, counters, ht, only, core⟩ := vChain_writes hc hf hl h hw hT
  have same : res = chainResult f e fo k.subFlush r := rfl
  have table : T = laneTable n active res := hT.symm
  refine ⟨t, chainRegs f fo T k.regs, chainFlags T ||| (k.chainSums f e T).2, ht, only, by rw [core], fun nowr => if_pos nowr,
    fun wr => ?written, ⟨chainFlags T, ?flagged, fun noRed => ?unreduced, ?flush⟩, fun noRed => ?kept, fun red m => ?summed⟩
  case written =>
    rw [chainRegs, wr, table, laneTable_map]
    exact putTable_lanesWritten (hg wr) _ _ _
  case flagged =>
    rw [chainFlags, table]
    exact flagsOf_laneTable _ _ _ _
  case unreduced =>
    rw [Core.chainSums, noRed]
    exact BitVec.or_zero
  case flush =>
    rw [Core.chainSums]
    split
    · exact ⟨_, congrArg _ (addReal_flags k f.racc.toNat e.fp _)⟩
    · exact ⟨0, congrArg _ BitVec.zero_and.symm⟩
  case kept =>
    rw [core, Core.chainSums, noRed]
    rfl
  case summed =>
    rw [core, Core.chainSums, if_pos red, table, laneTable_filterMap]
    exact addReal_get ..
end

section
/-! SUPPORT. Issue of form VR, and its sources and destinations (05 R113, R115). -/

namespace Sys2Proof.Machine
open Sys2Proof

section
variable {s : State} {c : CoreId} {f : VRForm} {fs : Fmt} {op : Nat}

/-- A legal instruction of form VR issues as written on a core that runs its plan. -/
theorem vrIssue_issues {body : VRForm → Fmt → State → VIssue → State} (hm : plainMode s c = false)
    (hl : f.legal op = true) (hs : Fmt.ofCode f.fmt.toNat = some fs) :
    vrIssue op f body c s = .next (issueV s c op (vrUses op f fs) (body f fs)) := by
  rw [vrIssue, vrInForce_planned hm, hl, hs]
  rfl

theorem vr_issues {i : Instr} {body : VRForm → Fmt → State → VIssue → State} (hx : exec i s = vrIssue op f body c s)
    (hm : plainMode s c = false) (hl : f.legal op = true) (hs : Fmt.ofCode f.fmt.toNat = some fs) :
    exec i s = .next (issueV s c op (vrUses op f fs) (body f fs)) :=
  hx.trans (vrIssue_issues hm hl hs)

theorem vrActive_eq (f : VRForm) (fs : Fmt) (r : Regs) :
    vrActive f fs r
      = (activeLanes (r.mask f.km) (countOf f.count)).map (fun j => (groupCodes r (vrSource f fs)).getD j 0) := by
  rw [vrActive, groupCodes_eq, zipIdx_map_range, List.filter_map, List.map_map, activeLanes]
  refine List.map_congr_left (fun j hj => ?_)
  have inside : j < countOf f.count := List.mem_range.mp (List.mem_of_mem_filter hj)
  rw [← groupCodes_eq]
  rfl

/-- The formats of a legal form are those of its opcode. -/
theorem VRForm.legal_fmt {u : VRUse} (hu : vrUse op = some u) (hl : f.legal op = true)
    (hs : Fmt.ofCode f.fmt.toNat = some fs) : fs ∈ u.fmts := by
  simp only [VRForm.legal, hu, hs, Bool.and_eq_true, decide_eq_true_eq] at hl
  tauto

/-- A legal form whose opcode writes long registers names a legal group. -/
theorem VRForm.legal_dest {u : VRUse} (hu : vrUse op = some u) (hv : (u.vd && !u.toS) = true) (hl : f.legal op = true)
    (hs : Fmt.ofCode f.fmt.toNat = some fs) : (vrDest f fs).legal = true := by
  simp only [VRForm.legal, hu, hs, hv, if_true, groupsLegal, Bool.and_eq_true] at hl
  exact hl.2.2.1

theorem writeScalar_eq (u : State) (f : VRForm) (v : SWord) :
    writeScalar u c f v = setRegs u c (·.setS f.vd.toNat v) := rfl

end
end Sys2Proof.Machine
end

section
/-! SUPPORT. V.RSUM and V.RRD (05 R127, R128), and the statement about them. -/

namespace Sys2Proof.Machine
open Sys2Proof

section
variable {s : State} {c : CoreId} {f : VRForm} {fs : Fmt}

/-- What V.RSUM leaves: accumulators, and the flag. -/
def Core.summed (k : Core) (f : VRForm) (fs : Fmt) (codes : List Nat) : Core × NumFlags :=
  match fs.fp with
  | some F => k.addReal f.racc.toNat F codes
  | none => (k.addInt f.racc.toNat (codes.map fs.intVal), 0)

theorem vRsum_adds {codes : List Nat} (hl : f.legal 0x38 = true) (hs : Fmt.ofCode f.fmt.toNat = some fs)
    (h : CanIssue s c .v [groupUse (vrSource f fs)]) (hw : Unwatched s c .v)
    (hc : vrActive f fs (operands s c .v) = codes) :
    ∃ t, exec (.vRsum c f) s = .next t ∧ OnlyRegisters c s t
      ∧ t.cores[c] = { (found s c .v).begin .v 0x38 with
          ra01 := ((found s c .v).summed f fs codes).1.ra01, ra23 := ((found s c .v).summed f fs codes).1.ra23,
          flagsStep := (found s c .v).flagsStep ||| ((found s c .v).summed f fs codes).2 } := by
  obtain ⟨-, sram, planCore, bundle, -⟩ := begin_fields (found s c .v) .v 0x38
  refine ⟨_, vr_issues (show execVRsum c f s = _ from rfl) h.notPlain hl hs, issueV_planned h (fun i p he => ?_) sram⟩
  simp only [Core.summed, modCore_cores_self, hc]
  cases hF : fs.fp with
  | some F =>
    simp only [modCore_const]
    rw [raiseV_planned hw he]
    · rfl
    · exact planCore
    · exact bundle
  | none =>
    have unflagged : (found s c .v).flagsStep ||| 0 = (found s c .v).flagsStep := BitVec.or_zero
    rw [modCore_const, unflagged]
    rfl

/-- V.RRD empties the accumulator of its format under CLR, and changes nothing else of the core. -/
theorem clearAcc_eq {k k' : Core} (h01 : k'.ra01 = k.ra01) (h23 : k'.ra23 = k.ra23) :
    clearAcc k' f fs = { k' with ra01 := (clearAcc k f fs).ra01, ra23 := (clearAcc k f fs).ra23 } := by
  simp only [clearAcc]
  split
  · rw [← h01, ← h23]
  · split
    · rw [← h01, ← h23]
    · rw [← h01, ← h23]

theorem vRrd_reads (hl : f.legal 0x3B = true) (hs : Fmt.ofCode f.fmt.toNat = some fs)
    (h : CanIssue s c .v [.s f.vd.toNat]) (hw : Unwatched s c .v) :
    ∃ t, exec (.vRrd c f) s = .next t ∧ OnlyRegisters c s t
      ∧ t.cores[c] = { (found s c .v).begin .v 0x3B with
          regs := (found s c .v).regs.setS f.vd.toNat (scalarOf fs (readAcc (found s c .v) f fs).1),
          ra01 := (clearAcc (found s c .v) f fs).ra01, ra23 := (clearAcc (found s c .v) f fs).ra23,
          flagsStep := (found s c .v).flagsStep ||| (readAcc (found s c .v) f fs).2 } := by
  obtain ⟨-, sram, planCore, bundle, -⟩ := begin_fields (found s c .v) .v 0x3B
  refine ⟨_, vr_issues (show execVRrd c f s = _ from rfl) h.notPlain hl hs, issueV_planned h (fun i p he => ?_) sram⟩
  simp only [modCore_cores_self, modCore_const, writeScalar_eq, setRegs_modCore]
  rw [clearAcc_eq (k := found s c .v), raiseV_planned hw he]
  · rfl
  · exact planCore
  · exact bundle
  · rfl
  · rfl

/-! ### What the accumulators hold -/

theorem summed_real {k : Core} {codes : List Nat} {F : FFmt} (hF : fs.fp = some F) :
    k.summed f fs codes = k.addReal f.racc.toNat F codes := by
  rw [Core.summed, hF]

theorem summed_int {k : Core} {codes : List Nat} (hF : fs.fp = none) :
    k.summed f fs codes = (k.addInt f.racc.toNat (codes.map fs.intVal), 0) := by
  rw [Core.summed, hF]

theorem readAcc_real {k : Core} {F : FFmt} (hF : fs.fp = some F) :
    readAcc k f fs = (k.ra01[(⟨f.racc.toNat % 2, Nat.mod_lt _ (by decide)⟩ : Fin 2)]).result F k.subFlush := by
  simp only [readAcc, hF]

theorem readAcc_int {k : Core} (hF : fs.fp = none) :
    readAcc k f fs = narrowSum fs f.sat (k.ra23[(⟨f.racc.toNat % 2, Nat.mod_lt _ (by decide)⟩ : Fin 2)]).toInt := by
  simp only [readAcc, hF]

theorem clearAcc_real {k : Core} {F : FFmt} (hF : fs.fp = some F) :
    (clearAcc k f fs).ra23 = k.ra23 ∧ ∀ m : Fin 2, (clearAcc k f fs).ra01[m]
      = if m = ⟨f.racc.toNat % 2, Nat.mod_lt _ (by decide)⟩ ∧ f.clr = true then RealAcc.empty else k.ra01[m] := by
  by_cases clr : f.clr = true
  · simp only [clearAcc, hF, clr, Bool.not_true, Bool.false_eq_true, if_false, and_true]
    exact ⟨trivial, fun m => vector_set_get k.ra01 ⟨f.racc.toNat % 2, _⟩ m RealAcc.empty⟩
  · rw [clearAcc, if_pos (by simpa using clr)]
    exact ⟨rfl, fun m => (if_neg (fun h => clr h.2)).symm⟩

theorem clearAcc_int {k : Core} (hF : fs.fp = none) :
    (clearAcc k f fs).ra01 = k.ra01 ∧ ∀ m : Fin 2, (clearAcc k f fs).ra23[m]
      = if m = ⟨f.racc.toNat % 2, Nat.mod_lt _ (by decide)⟩ ∧ f.clr = true then 0 else k.ra23[m] := by
  by_cases clr : f.clr = true
  · simp only [clearAcc, hF, clr, Bool.not_true, Bool.false_eq_true, if_false, and_true]
    exact ⟨trivial, fun m => vector_set_get k.ra23 ⟨f.racc.toNat % 2, _⟩ m 0⟩
  · rw [clearAcc, if_pos (by simpa using clr)]
    exact ⟨rfl, fun m => (if_neg (fun h => clr h.2)).symm⟩

theorem scalarOf_real {F : FFmt} (hF : fs.fp = some F) (v : Nat) : scalarOf fs v = BitVec.ofNat 64 v := by
  rw [scalarOf, if_neg]
  rintro rfl
  cases hF

end
end Sys2Proof.Machine

open Sys2Proof Sys2Proof.Machine

/-- Settles O15: `vRsum_adds` and `vRrd_reads` say what each instruction does to its core, by the kind of its format. -/
theorem vAccumulators : Obligations.VAccumulators := by
  unfold Obligations.VAccumulators
  intro s c f fs k r lanes ra hs hw
  refine ⟨fun hl h => ?sums, fun hl h => ?reads⟩
  case sums =>
    obtain ⟨t, ht, only, core⟩ := vRsum_adds hl hs h hw (vrActive_eq f fs r)
    refine ⟨t, (k.summed f fs lanes).2, ht, only, by rw [core], fun F hF => ?real, fun hF => ?int⟩
    case real =>
      rw [core, summed_real hF]
      refine ⟨rfl, addReal_get k f.racc.toNat F lanes, ?_⟩
      rw [addReal_flags, BitVec.and_assoc, BitVec.and_not_self]
      exact BitVec.and_zero
    case int =>
      rw [core, summed_int hF]
      exact ⟨rfl, rfl, fun m => vector_set_get k.ra23 ra m _⟩
  case reads =>
    obtain ⟨t, ht, only, core⟩ := vRrd_reads hl hs h hw
    refine ⟨t, _, _, (readAcc k f fs).2, ht, only, by rw [core], rfl, fun F hF => ?real, fun hF => ?int⟩
    case real =>
      obtain ⟨kept, cleared⟩ := clearAcc_real (f := f) (k := k) hF
      rw [core, scalarOf_real hF, readAcc_real hF]
      exact ⟨rfl, rfl, kept, cleared⟩
    case int =>
      obtain ⟨kept, cleared⟩ := clearAcc_int (f := f) (k := k) hF
      rw [core, readAcc_int hF]
      exact ⟨rfl, rfl, kept, cleared⟩
end

section
/-! SUPPORT. V.RMIN and V.RMAX (05 R129), and the statement about them. -/

namespace Sys2Proof.Machine
open Sys2Proof

/-! ### The least and the greatest of a list of codes -/

section
variable {fs : Fmt} {flush big : Bool}

/-- A code is at least as extreme as another in an integer format. -/
def Reaches (fs : Fmt) (big : Bool) (v x : Nat) : Prop :=
  if big then fs.intVal x ≤ fs.intVal v else fs.intVal v ≤ fs.intVal x

theorem Reaches.refl (v : Nat) : Reaches fs big v v := by cases big <;> exact Int.le_refl _

theorem Reaches.trans {u v x : Nat} (h : Reaches fs big u v) (h' : Reaches fs big v x) : Reaches fs big u x := by
  cases big with
  | true => exact Int.le_trans h' h
  | false => exact Int.le_trans h h'

theorem laneMinMax_int (hF : fs.fp = none) (a b : Nat) :
    ((laneMinMax fs flush big a b).1 = a ∨ (laneMinMax fs flush big a b).1 = b)
      ∧ Reaches fs big (laneMinMax fs flush big a b).1 a ∧ Reaches fs big (laneMinMax fs flush big a b).1 b := by
  simp only [laneMinMax, hF, Reaches]
  by_cases below : fs.intVal a < fs.intVal b
  · cases big <;> simp [below, Int.le_of_lt below]
  · cases big <;> simp [below, Int.not_lt.mp below]

/-- One more code in a running extreme. -/
def extremeStep (fs : Fmt) (flush big : Bool) (acc : Nat × NumFlags) (b : Nat) : Nat × NumFlags :=
  ((laneMinMax fs flush big acc.1 b).1, acc.2 ||| (laneMinMax fs flush big acc.1 b).2)

theorem extreme_cons (a : Nat) (l : List Nat) :
    extreme fs flush big (a :: l) = l.foldl (extremeStep fs flush big) (laneMinMax fs flush big a a) := rfl

theorem foldl_extremeStep (hF : fs.fp = none) (l : List Nat) : ∀ acc : Nat × NumFlags,
    (l.foldl (extremeStep fs flush big) acc).1 ∈ acc.1 :: l
      ∧ ∀ x ∈ acc.1 :: l, Reaches fs big (l.foldl (extremeStep fs flush big) acc).1 x := by
  induction l with
  | nil => exact fun acc => ⟨List.mem_singleton.mpr rfl, fun x hx => List.mem_singleton.mp hx ▸ Reaches.refl _⟩
  | cons b l ih =>
    intro acc
    obtain ⟨either, first, second⟩ := laneMinMax_int (flush := flush) (big := big) hF acc.1 b
    obtain ⟨attained, bound⟩ := ih (extremeStep fs flush big acc b)
    have reached := bound _ List.mem_cons_self
    rw [List.foldl_cons]
    refine ⟨?_, fun x hx => ?_⟩
    · obtain here | later := List.mem_cons.mp attained
      · rw [here, extremeStep]
        obtain e | e := either <;> simp [e]
      · exact List.mem_cons_of_mem _ (List.mem_cons_of_mem _ later)
    · obtain rfl | hx := List.mem_cons.mp hx
      · exact reached.trans first
      · obtain rfl | hx := List.mem_cons.mp hx
        · exact reached.trans second
        · exact bound x (List.mem_cons_of_mem _ hx)

/-- The extreme of codes of an integer format is one of them and bounds them all. -/
theorem extreme_int (hF : fs.fp = none) {l : List Nat} (hl : l ≠ []) :
    (extreme fs flush big l).1 ∈ l ∧ ∀ x ∈ l, Reaches fs big (extreme fs flush big l).1 x := by
  cases l with
  | nil => exact absurd rfl hl
  | cons a l =>
    have start : (laneMinMax fs flush big a a).1 = a := (laneMinMax_int hF a a).1.elim id id
    rw [extreme_cons]
    simpa only [start] using foldl_extremeStep (flush := flush) (big := big) hF l (laneMinMax fs flush big a a)

theorem fmtsBIL_int : ∀ fs ∈ fmtsBIL, fs.fp.isNone = true → fs = .int32 ∨ fs = .int64 ∨ fs = .ledger := by decide

/-- With no code the extreme is the end of the format's range. -/
theorem extreme_none (hF : fs.fp = none) (hfs : fs ∈ fmtsBIL) :
    fs.intVal (extreme fs flush big []).1 = if big then -(2 ^ (fs.width - 1)) else 2 ^ (fs.width - 1) - 1 := by
  simp only [extreme, emptyExtreme, hF]
  obtain rfl | rfl | rfl := fmtsBIL_int fs hfs (by rw [hF]; rfl) <;> cases big <;> decide

end

/-! ### The instructions -/

section
variable {s : State} {c : CoreId} {f : VRForm} {fs : Fmt}

theorem vExtreme_writes {codes : List Nat} (big : Bool) (hs : Fmt.ofCode f.fmt.toNat = some fs)
    (hl : f.legal (if big then 0x3A else 0x39) = true) (h : CanIssue s c .v [groupUse (vrSource f fs), .s f.vd.toNat])
    (hw : Unwatched s c .v) (hc : vrActive f fs (operands s c .v) = codes) :
    ∃ t, exec (if big then .vRmax c f else .vRmin c f) s = .next t
      ∧ StaysOpen s t c .v (if big then 0x3A else 0x39)
          ((found s c .v).regs.setS f.vd.toNat (scalarOf fs (extreme fs (found s c .v).subFlush big codes).1))
          (extreme fs (found s c .v).subFlush big codes).2 := by
  cases big with
  | true =>
    obtain ⟨-, -, -, -, subFlush⟩ := begin_fields (found s c .v) .v 0x3A
    refine ⟨_, vr_issues (show execVRmax c f s = _ from rfl) h.notPlain hl hs, issueV_sets h hw
      (·.setS f.vd.toNat (scalarOf fs (extreme fs (found s c .v).subFlush true codes).1)) _ (fun i p k _ hk => ?_)⟩
    simp only [modCore_cores_self, hk, subFlush, hc]
    rfl
  | false =>
    obtain ⟨-, -, -, -, subFlush⟩ := begin_fields (found s c .v) .v 0x39
    refine ⟨_, vr_issues (show execVRmin c f s = _ from rfl) h.notPlain hl hs, issueV_sets h hw
      (·.setS f.vd.toNat (scalarOf fs (extreme fs (found s c .v).subFlush false codes).1)) _ (fun i p k _ hk => ?_)⟩
    simp only [modCore_cores_self, hk, subFlush, hc]
    rfl

end
end Sys2Proof.Machine

open Sys2Proof Sys2Proof.Machine

/-- Settles O16: `vExtreme_writes` says what is written, and `extreme_int` and `extreme_none` what the extreme is. -/
theorem vExtremes : Obligations.VExtremes := by
  unfold Obligations.VExtremes
  intro s c f fs big k r op lanes v hs hl h hw
  refine ⟨vExtreme_writes big hs hl h hw (vrActive_eq f fs r), fun hF none => ?range, fun hF some => extreme_int hF some⟩
  have hfs : fs ∈ fmtsBIL := by
    cases big
    · exact VRForm.legal_fmt (u := { fmts := fmtsBIL, vd := true, va := true, km := true, count := true, toS := true }) rfl hl hs
    · exact VRForm.legal_fmt (u := { fmts := fmtsBIL, vd := true, va := true, km := true, count := true, toS := true }) rfl hl hs
  change fs.intVal (extreme fs k.subFlush big lanes).1 = _
  rw [none]
  exact extreme_none hF hfs
end

section
/-! SUPPORT. Reductions along an axis of a tile (05 R130), and the statement about them. -/

namespace Sys2Proof.Machine
open Sys2Proof

section
variable {s : State} {c : CoreId} {f : VRForm} {fs : Fmt} {op : Nat}

/-- A tile-axis instruction writes its rows' or columns' results into its destination group. -/
theorem tileReduce_writes {g : Fmt → Bool → List Nat → Nat × NumFlags} {t : List (Option (Nat × NumFlags))}
    (hl : f.legal op = true) (hs : Fmt.ofCode f.fmt.toNat = some fs) (h : CanIssue s c .v (vrUses op f fs))
    (hw : Unwatched s c .v)
    (ht : laneTable (countOf f.count) (fun j => ((operands s c .v).mask f.km).getLsbD j) (fun j =>
      g fs (found s c .v).subFlush (tileAxis (operands s c .v).t[f.ta.toFin] fs f.axis j)) = t) :
    ∃ t', tileReduce op f g c s = .next t'
      ∧ StaysOpen s t' c .v op ((found s c .v).regs.putTable (vrDest f fs) t) (tableFlags t) := by
  have runs : tileReduce op f g c s = .next (issueV s c op (vrUses op f fs) _) := vrIssue_issues h.notPlain hl hs
  refine ⟨_, runs, issueV_writes h hw (·.putTable (vrDest f fs) t) (tableFlags t) fs (t.countP (·.isSome))
    (fun i p k _ hk => ?_)⟩
  obtain ⟨-, -, -, -, subFlush⟩ := begin_fields (found s c .v) .v op
  simp only [modCore_cores_self, hk, subFlush]
  rw [← ht]
  rfl

end

/-- The opcode reduces a tile along an axis into long registers. -/
def TileAxisOp (op : Nat) : Prop :=
  (∃ u, vrUse op = some u ∧ (u.vd && !u.toS) = true) ∧ ∀ f fs, vrUses op f fs = [.t f.ta.toNat, groupUse (vrDest f fs)]

theorem tileAxisOp_of_mem : ∀ op ∈ [0x3C, 0x3D, 0x3E], TileAxisOp op := by
  intro op hop
  fin_cases hop <;> exact ⟨⟨_, rfl, rfl⟩, fun _ _ => rfl⟩

end Sys2Proof.Machine

open Sys2Proof Sys2Proof.Machine

/-- Settles O17: each instruction is a `tileReduce`, whose table `putTable_lanesWritten` and `laneTable_flags` read back. -/
theorem vTileAxes : Obligations.VTileAxes := by
  unfold Obligations.VTileAxes
  intro s c f fs k r n active e he hl hs h hw res
  have runs : e.2.1 ∈ [0x3C, 0x3D, 0x3E] ∧ ∃ g : Fmt → Bool → List Nat → Nat × NumFlags,
      exec e.1 s = tileReduce e.2.1 f g c s ∧ e.2.2 = g fs k.subFlush := by
    simp only [List.mem_cons, List.not_mem_nil, or_false] at he
    obtain rfl | rfl | rfl := he
    · exact ⟨by simp, fun fs flush l => axisSum fs flush f.sat l, rfl, rfl⟩
    · exact ⟨by simp, fun fs flush l => extreme fs flush false l, rfl, rfl⟩
    · exact ⟨by simp, fun fs flush l => extreme fs flush true l, rfl, rfl⟩
  obtain ⟨hop, g, hx, hg⟩ := runs
  obtain ⟨⟨u, hu, dest⟩, uses⟩ := tileAxisOp_of_mem _ hop
  obtain ⟨t, ht, stays⟩ := tileReduce_writes (g := g) hl hs (by rw [uses]; exact h) hw rfl
  rw [← hg] at stays
  exact ⟨t, _, _, hx.trans ht, laneTable_flags _ _ _, stays, putTable_lanesWritten (VRForm.legal_dest hu dest hl hs) _ _ _⟩
end

section
/-! SUPPORT. Lane moves (05 R113, R116), and the statement about them. -/

namespace Sys2Proof.Machine
open Sys2Proof

section
variable {s : State} {c : CoreId} {f : VRForm} {fs : Fmt} {op : Nat}

theorem vNop_stays (h : CanIssue s c .v []) :
    ∃ t, exec (.vNop c) s = .next t ∧ StaysOpen s t c .v 0x00 (found s c .v).regs 0 := by
  refine ⟨_, rfl, issueV_staysOpen h _ _ (fun i p _ k hk => ⟨k.counters, ?_⟩)⟩
  obtain ⟨regs, -⟩ := begin_fields (found s c .v) .v 0x00
  have unflagged : k.flagsStep ||| 0 = k.flagsStep := BitVec.or_zero
  rw [unflagged, ← regs, ← hk]

/-- An instruction that fills lanes from S[SB] writes its active lanes. -/
theorem laneFill_writes {g : Fmt → SWord → Nat → Nat × NumFlags} {t : List (Option (Nat × NumFlags))}
    (hl : f.legal op = true) (hs : Fmt.ofCode f.fmt.toNat = some fs) (h : CanIssue s c .v (vrUses op f fs))
    (hw : Unwatched s c .v)
    (ht : laneTable (countOf f.count) (fun j => ((operands s c .v).mask f.km).getLsbD j)
      (g fs ((operands s c .v).getS f.sb.toNat)) = t) :
    ∃ t', laneFill op f g c s = .next t'
      ∧ StaysOpen s t' c .v op ((found s c .v).regs.putTable (vrDest f fs) t) (tableFlags t) := by
  have runs : laneFill op f g c s = .next (issueV s c op (vrUses op f fs) _) := vrIssue_issues h.notPlain hl hs
  refine ⟨_, runs, issueV_writes h hw (·.putTable (vrDest f fs) t) (tableFlags t) fs (t.countP (·.isSome))
    (fun i p k _ _ => ?_)⟩
  rw [← ht]
  rfl

theorem tableFlags_unflagged (n : Nat) (active : Nat → Bool) (v : Nat → Nat) :
    tableFlags (laneTable n active (fun j => (v j, (0 : NumFlags)))) = 0 := by
  rw [tableFlags, laneTable_filterMap]
  exact orFlags_zero (fun fl hfl => by simpa using (List.mem_map.mp hfl).choose_spec.2.symm)

/-- V.INS writes one lane, without flags. -/
theorem vIns_writes {t : List (Option (Nat × NumFlags))} (hl : f.legal 0x42 = true) (hs : Fmt.ofCode f.fmt.toNat = some fs)
    (h : CanIssue s c .v [groupUse (vrDest f fs), .s f.sb.toNat])
    (ht : laneTable (countOf f.count) (fun j => decide (j = f.lane.toNat)) (fun _ =>
      (((operands s c .v).getS f.sb.toNat).toNat % 2 ^ fs.width, (0 : NumFlags))) = t) :
    ∃ t', exec (.vIns c f) s = .next t'
      ∧ StaysOpen s t' c .v 0x42 ((found s c .v).regs.putTable (vrDest f fs) t) 0 := by
  refine ⟨_, vr_issues (show execVIns c f s = _ from rfl) h.notPlain hl hs, issueV_staysOpen h _ _
    (fun i p _ k hk => ⟨(k.countedLanes fs 1).counters, ?_⟩)⟩
  obtain ⟨regs, -⟩ := begin_fields (found s c .v) .v 0x42
  have unflagged : k.flagsStep ||| 0 = k.flagsStep := BitVec.or_zero
  simp only [laneTable, decide_eq_true_eq] at ht
  simp only [ht, countLanes_setRegs]
  rw [unflagged, ← regs, ← hk]

theorem vExt_writes (hl : f.legal 0x41 = true) (hs : Fmt.ofCode f.fmt.toNat = some fs)
    (h : CanIssue s c .v [groupUse (vrSource f fs), .s f.vd.toNat]) :
    ∃ t, exec (.vExt c f) s = .next t ∧ StaysOpen s t c .v 0x41 ((found s c .v).regs.setS f.vd.toNat
      (BitVec.ofNat 64 ((groupCodes (operands s c .v) (vrSource f fs)).getD f.lane.toNat 0))) 0 :=
  ⟨_, vr_issues (show execVExt c f s = _ from rfl) h.notPlain hl hs, issueV_writesRegs h (fun rd r =>
    r.setS f.vd.toNat (BitVec.ofNat 64 ((groupCodes rd (vrSource f fs)).getD f.lane.toNat 0))) (fun _ _ => rfl)⟩

theorem vKcnt_writes (hl : f.legal 0x43 = true) (hs : Fmt.ofCode f.fmt.toNat = some fs)
    (h : CanIssue s c .v [.s f.vd.toNat]) :
    ∃ t, exec (.vKcnt c f) s = .next t ∧ StaysOpen s t c .v 0x43 ((found s c .v).regs.setS f.vd.toNat
      (BitVec.ofNat 64 (activeLanes ((operands s c .v).mask f.km) (countOf f.count)).length)) 0 :=
  ⟨_, vr_issues (show execVKcnt c f s = _ from rfl) h.notPlain hl hs, issueV_writesRegs h (fun rd r =>
    r.setS f.vd.toNat (BitVec.ofNat 64 (activeLanes (rd.mask f.km) (countOf f.count)).length)) (fun _ _ => rfl)⟩

end
end Sys2Proof.Machine

open Sys2Proof Sys2Proof.Machine

/-- Settles O18: each instruction writes a table of lanes or one scalar, as the lemmas above say. -/
theorem vLaneMoves : Obligations.VLaneMoves := by
  unfold Obligations.VLaneMoves
  intro s c f fs k r n active b
  refine ⟨vNop_stays, fun hs hw => ⟨fun hl h => ?broadcast, fun hl h => ?index, fun hl h => ?insert,
    fun hl h => vExt_writes hl hs h, fun hl h => vKcnt_writes hl hs h⟩⟩
  case broadcast =>
    obtain ⟨t, ht, stays⟩ := laneFill_writes (g := fun fs v _ => (v.toNat % 2 ^ fs.width, 0)) hl hs h hw rfl
    have written := putTable_lanesWritten (VRForm.legal_dest rfl rfl hl hs) k.regs active (fun _ => (b.toNat % 2 ^ fs.width, 0))
    rw [tableFlags_unflagged] at stays
    simp only [vrDest, Nat.mod_mod] at written
    exact ⟨t, _, ht, stays, written⟩
  case index =>
    obtain ⟨t, ht, stays⟩ := laneFill_writes (g := fun fs v i => intResult fs.width true f.sat (v.toInt + i)) hl hs h hw rfl
    exact ⟨t, _, _, ht, stays, laneTable_flags _ _ _, putTable_lanesWritten (VRForm.legal_dest rfl rfl hl hs) _ _ _⟩
  case insert =>
    obtain ⟨t, ht, stays⟩ := vIns_writes hl hs h rfl
    have written := putTable_lanesWritten (VRForm.legal_dest rfl rfl hl hs) k.regs (fun j => decide (j = f.lane.toNat))
      (fun _ => (b.toNat % 2 ^ fs.width, 0))
    simp only [vrDest, Nat.mod_mod, decide_eq_true_eq] at written
    exact ⟨t, _, ht, stays, written⟩
end

section
/-! SUPPORT. Fences and spares (09 R213, R218; 20 R435-R437): the record that an event writes, what a fence and a spare change
of the state, and what the core mapping still supports. -/

namespace Sys2Proof.Machine
open Sys2Proof

section
variable {s t u : State} {c d sp : CoreId} {i : Fin 16} {l : Fin 512} {p : Plan} {n : Nat} {o : List Out}

/-! ### The record that an event writes -/

/-- The journal holds a record of a type, written at a bell. -/
def Holds (t : State) (type : Nat) (bell : Bell) : Prop := ∃ r ∈ t.journal.records, r.type = type ∧ r.bell = bell

theorem Holds.mono {type : Nat} {bell : Bell} (h : Holds s type bell) (hp : s.journal.records <+: t.journal.records) :
    Holds t type bell := by
  obtain ⟨r, hr, e⟩ := h
  exact ⟨r, hp.subset hr, e⟩

theorem journalAppend_holds (s : State) (type job member plan : Nat) (b : Bytes) :
    Holds (journalAppend s type job member plan b) type s.bell := by
  simp only [journalAppend]
  split <;> exact ⟨_, List.mem_append_right _ (List.mem_singleton_self _), rfl, rfl⟩

theorem journalAppend_extends (s : State) (type job member plan : Nat) (b : Bytes) :
    s.journal.records <+: (journalAppend s type job member plan b).journal.records := by
  obtain ⟨r, c, ch, cps, f, e⟩ := journalAppend_spec s type job member plan b
  rw [e]
  exact List.prefix_append ..

/-- A record takes at most two places of the journal and nothing else that the state holds. -/
theorem journalRaw_reported (h : Room s) (type job member plan : Nat) (b : Bytes) :
    Reported 2 [] s (journalRaw s type job member plan b) := by
  obtain ⟨l, c, ch, cps, n, f, hl, e⟩ := journalRaw_spec s type job member plan b h.1 h.2
  rw [e]
  exact ⟨by simp, h.1.symm, by simp [hl]⟩

theorem journalRaw_holds (h : Room s) (type job member plan : Nat) (b : Bytes) :
    Holds (journalRaw s type job member plan b) type s.bell := by
  have written := journalAppend_holds s type job member plan b
  obtain ⟨r, c, ch, cps, f, e⟩ := journalAppend_spec s type job member plan b
  have he : (journalAppend s type job member plan b).journal.mode = 0
      ∧ (journalAppend s type job member plan b).journal.records.length = s.journal.records.length + 1 := by
    rw [e]; exact ⟨h.1, by simp⟩
  obtain ⟨hm, hn⟩ := he
  have hroom := h.2
  unfold journalRaw
  generalize journalAppend s type job member plan b = s1 at written hm hn ⊢
  dsimp only
  split
  · have more := journalAppend_extends s1 0x0702 0 0 0xFF (leBytes 8 (s.mod.startCount % 2 ^ 24 * 2 ^ 40 + s.journal.next))
    obtain ⟨r', c', ch', cps', f', e'⟩ := journalAppend_spec s1 0x0702 0 0 0xFF (leBytes 8 (s.mod.startCount % 2 ^ 24 * 2 ^ 40 + s.journal.next))
    rw [journalModes_calm _ (by rw [e']; exact hm) (by rw [e']; simp; omega)]
    exact written.mono more
  · rw [journalModes_calm _ hm (by omega)]
    exact written

theorem journalPlan_reports (h : Room s) (i : Fin 16) (type : Nat) (b : Bytes) :
    Reported 2 [] s (journalPlan s i type b) ∧ Holds (journalPlan s i type b) type s.bell := by
  unfold journalPlan
  split
  · exact ⟨journalRaw_reported h .., journalRaw_holds h ..⟩
  · exact ⟨journalRaw_reported h .., journalRaw_holds h ..⟩

theorem Noted.holds {type : Nat} {bell : Bell} (h : Noted s t) (hs : Holds s type bell) : Holds t type bell := hs.mono h.2.2

theorem Calm.room_after (hc : Calm s) (h : Reported n o s t) (hn : n ≤ 200) : Room t := by
  obtain ⟨hm, hl⟩ := h.2
  obtain ⟨cm, cl⟩ := hc
  exact ⟨hm.trans cm, by omega⟩

/-! ### Memory -/

theorem SameMemory.trans (h : SameMemory s t) (h' : SameMemory t u) : SameMemory s u := by
  obtain ⟨hh, hc, hb⟩ := h
  obtain ⟨hh', hc', hb'⟩ := h'
  exact ⟨fun a => (hh' a).trans (hh a), fun c a => (hc' c a).trans (hc c a), fun b a => (hb' b a).trans (hb b a)⟩

theorem sameMemory_modCore (s : State) (c : CoreId) (f : Core → Core) (hf : ∀ k, (f k).sram = k.sram) :
    SameMemory s (s.modCore c f) :=
  sameMemory_of s _ c (onlyCore_modCore s c f) (by rw [modCore_cores_self, hf])

/-- A state that has the same memories. -/
theorem sameMemory_kept (hh : t.hbm = s.hbm) (hc : t.cores = s.cores) (hb : t.bins = s.bins) : SameMemory s t :=
  ⟨fun a => by rw [hh], fun c a => by rw [hc], fun b a => by rw [hb]⟩

theorem Reported.sameMemory (h : Reported n o s t) : SameMemory s t :=
  sameMemory_kept (by rw [h.1]) (by rw [h.1]) (by rw [h.1])

theorem Noted.sameMemory (h : Noted s t) : SameMemory s t :=
  sameMemory_kept (by rw [h.1]) (by rw [h.1]) (by rw [h.1])

/-! ### A core that is fenced -/

theorem fence_sram (k : Core) : k.fence.sram = k.sram := rfl
theorem leavePlain_sram (k : Core) : k.leavePlain.sram = k.sram := rfl

theorem fence_running {k : Core} (h : k.run = .running) : k.fence.run = .stopped := by
  unfold Core.fence
  rw [h]

/-- The core is out of the mapping and stopped, and its health entry waits. -/
def withdrawn (s : State) (c : CoreId) : State :=
  addHealth (({ s with coreMap := s.coreMap.set c .fenced } : State).modCore c Core.fence) 1 1 c

theorem withdrawn_sameMemory (s : State) (c : CoreId) : SameMemory s (withdrawn s c) :=
  (sameMemory_modCore s c Core.fence fence_sram).trans (sameMemory_kept rfl rfl rfl)

theorem withdrawn_map (s : State) (c : CoreId) : (withdrawn s c).coreMap = s.coreMap.set c .fenced := rfl
theorem withdrawn_cores (s : State) (c : CoreId) : (withdrawn s c).cores = s.cores.set c s.cores[c].fence := rfl

/-- The three commands that fence a core give it cause 1 or 2. -/
theorem exec_fencing (s : State) (c : CoreId) {i : Instr} (hi : i ∈ [Instr.coreFence c 1, .coreFence c 2, .handshakeStall c]) :
    ∃ cause, (cause = 1 ∨ cause = 2) ∧ exec i s = happen s (fun s => fenceCore s c cause) := by
  simp only [List.mem_cons, List.not_mem_nil, or_false] at hi
  obtain rfl | rfl | rfl := hi
  · exact ⟨1, .inl rfl, rfl⟩
  · exact ⟨2, .inr rfl, rfl⟩
  · exact ⟨2, .inr rfl, rfl⟩

/-- A core that is no longer usable is not fenced again. -/
theorem fenceCore_out (h : usable s.coreMap[c] = false) (cause : Nat) : fenceCore s c cause = s :=
  if_pos (by rw [h]; rfl)

/-- What the record of a fence carries: a status that is a free value, and the plan's step. -/
def fencePayload (s : State) (c : CoreId) (logical cause step : Nat) : Bytes :=
  leBytes 2 c ++ leBytes 2 logical ++ leBytes 1 cause ++ leBytes 2 (takeFree s).1 ++ leBytes 4 step
    ++ leBytes 1 (sparesOn s (dieOf c) - 1)

/-- The state in which the fence of a core that holds no plan is on record. -/
def fenceRecorded (s : State) (c : CoreId) (b : Bytes) : State :=
  journalRaw (withdrawn (takeFree s).2 c) 0x0801 0 0 0xFF b

theorem fenceCore_mapped {cause : Nat} (hm : s.coreMap[c] = .mapped l) (hp : s.cores[c].plan = none) (h3 : cause ≠ 3) :
    fenceCore s c cause = passSlot (fenceRecorded s c (fencePayload s c l cause 0)) (dieOf c) l := by
  unfold fenceCore
  rw [if_neg (by rw [hm]; exact Bool.false_ne_true), hm, hp]
  simp only [if_neg h3, fenceSlot]
  rfl

theorem fenceCore_spare {cause : Nat} (hm : s.coreMap[c] = .spare) (hp : s.cores[c].plan = none) (h3 : cause ≠ 3) :
    fenceCore s c cause =
      let t := fenceRecorded s c (fencePayload s c 0xFFFF cause 0)
      if t.subs.any (fun u => u.spare == c) then fenceSpare t c
      else if supports t t.logicalCount then t else stepDown t := by
  unfold fenceCore
  rw [if_neg (by rw [hm]; exact Bool.false_ne_true), hm, hp]
  simp only [if_neg h3]
  rfl

/-- The fence of a core of a plan whose own units are stopped is on record. -/
theorem fenceCore_planned {cause : Nat} (hm : s.coreMap[c] = .mapped l) (hp : s.cores[c].plan = some i)
    (hi : s.plans[i] = some p) (h3 : cause ≠ 3) :
    fenceCore s c cause =
      fenceSlot (journalPlan (withdrawn (stopOwned (takeFree s).2 i s.cores[c].planCore) c) i 0x0801
        (fencePayload s c l cause p.step)) c l (some i) cause := by
  unfold fenceCore
  rw [if_neg (by rw [hm]; exact Bool.false_ne_true), hm, hp]
  simp only [if_neg h3, hi]
  rfl

/-- A fence on record leaves but the core's own places changed. -/
theorem fenceRecorded_reported (hc : Calm s) (b : Bytes) :
    Reported 2 [] (withdrawn (takeFree s).2 c) (fenceRecorded s c b) ∧ Holds (fenceRecorded s c b) 0x0801 s.bell := by
  have room : Room (withdrawn (takeFree s).2 c) := hc.room
  unfold fenceRecorded
  exact ⟨journalRaw_reported room .., journalRaw_holds room ..⟩

/-! ### The spare that takes a slot -/

theorem spareOn_congr (hm : t.coreMap = s.coreMap.set c .fenced) (hs : t.subs = s.subs) (hc : s.coreMap[c] ≠ .spare) (die : Nat) :
    spareOn t die = spareOn s die := by
  have same (d : CoreId) : (t.coreMap[d] == .spare) = (s.coreMap[d] == .spare) := by
    rw [hm]
    by_cases h : d = c
    · subst h
      simpa using hc
    · have : c.val ≠ d.val := fun e => h (Fin.ext e.symm)
      simp [this]
  unfold spareOn
  simp only [same, hs]

theorem spareOn_isSpare {die : Nat} (h : spareOn s die = some sp) : s.coreMap[sp] = .spare := by
  have := List.find?_some h
  simp only [Bool.and_eq_true, beq_iff_eq] at this
  exact this.1.2

theorem passSlot_spare {die : Nat} (h : spareOn s die = some sp) :
    passSlot s die l = ({ s with coreMap := s.coreMap.set sp (.mapped l) } : State).modCore sp Core.leavePlain := by
  unfold passSlot
  rw [h]

/-! ### What stays beside a report -/

theorem Reported.around (h : Reported n o s t) :
    t.coreMap = s.coreMap ∧ t.subs = s.subs ∧ t.health = s.health ∧ t.logicalCount = s.logicalCount ∧ t.bell = s.bell := by
  rw [h.1]; exact ⟨rfl, rfl, rfl, rfl, rfl⟩

theorem Noted.around (h : Noted s t) :
    t.coreMap = s.coreMap ∧ t.subs = s.subs ∧ t.health = s.health ∧ t.logicalCount = s.logicalCount ∧ t.bell = s.bell := by
  rw [h.1]; exact ⟨rfl, rfl, rfl, rfl, rfl⟩

theorem modCore_around (s : State) (c : CoreId) (f : Core → Core) :
    (s.modCore c f).coreMap = s.coreMap ∧ (s.modCore c f).subs = s.subs ∧ (s.modCore c f).health = s.health
      ∧ (s.modCore c f).plans = s.plans ∧ (s.modCore c f).journal = s.journal := ⟨rfl, rfl, rfl, rfl, rfl⟩

/-! ### A fence where no plan holds the core -/

/-- The slot passes at once. -/
theorem happen_fence_unplanned {cause : Nat} (hc : Calm s) (hs : serving s = true) (hm : s.coreMap[c] = .mapped l)
    (hsp : spareOn s (dieOf c) = some sp) (hp : s.cores[c].plan = none) (h3 : cause ≠ 3) :
    ∃ t, happen s (fun s => fenceCore s c cause) = .next t ∧ SameMemory s t ∧ t.plans = s.plans
      ∧ t.coreMap = (s.coreMap.set c .fenced).set sp (.mapped l) ∧ t.subs = s.subs
      ∧ t.health.pending = s.health.pending ++ [healthEntry s.mod.startCount 1 1 c] ∧ Holds t 0x0801 s.bell := by
  obtain ⟨rep, held⟩ := fenceRecorded_reported (c := c) hc (fencePayload s c l cause 0)
  obtain ⟨map, subs, health, -, -⟩ := rep.around
  have plans := rep.plans
  have room : Room (fenceRecorded s c (fencePayload s c l cause 0)) :=
    Calm.room_after (s := withdrawn (takeFree s).2 c) hc rep (by omega)
  have memory := (withdrawn_sameMemory (takeFree s).2 c).trans rep.sameMemory
  have body := fenceCore_mapped hm hp h3
  generalize fenceRecorded s c (fencePayload s c l cause 0) = u at rep held map subs health plans room memory body
  have spare : spareOn u (dieOf c) = some sp := by
    rw [spareOn_congr (s := s) map subs (by rw [hm]; exact CoreUse.noConfusion), hsp]
  rw [passSlot_spare spare] at body
  obtain ⟨t, ht, hN⟩ := happen_noted s (fun s => fenceCore s c cause) hs (by
    show Room (fenceCore s c cause)
    rw [body]; exact room)
  replace hN : Noted _ t := body ▸ hN
  obtain ⟨map', subs', health', -, -⟩ := hN.around
  refine ⟨t, ht, ?_, ?_, ?_, ?_, ?_, ?_⟩
  · have passed : SameMemory u _ := sameMemory_modCore { u with coreMap := u.coreMap.set sp (.mapped l) } sp _ leavePlain_sram
    exact (memory.trans passed).trans hN.sameMemory
  · exact hN.plans.trans plans
  · rw [map']
    show u.coreMap.set sp (.mapped l) = _
    rw [map]; rfl
  · exact subs'.trans subs
  · rw [health']
    show u.health.pending = _
    rw [health]; rfl
  · exact hN.holds held

/-! ### Spares under test -/

/-- What the cores hold is no attention event. -/
theorem attend_cores (s : State) (v : Vector Core 576) : attend s { s with cores := v } = { s with cores := v } := by
  have job (i : Fin 16) (r : State) : attendJob s.plans[i] s.plans[i] r = r := by simp [attendJob, attentionIf]
  have plan (i : Fin 16) (r : State) : attendPlan i s.plans[i] s.plans[i] r = r := by
    unfold attendPlan
    cases s.plans[i] <;> simp [attentionIf]
  have bits : admissionBits { s with cores := v } = admissionBits s := rfl
  have state : moduleState { s with cores := v } = moduleState s := rfl
  have fields : instanceFields { s with cores := v } = instanceFields s := rfl
  simp only [attend, bits, state, fields, job, plan]
  simp [attentionIf, instanceFields]

/-- The test of a core that is no spare, or that a substitution has taken, does nothing. -/
theorem spareSelfTest_not (h : s.coreMap[c] ≠ .spare ∨ ∃ u ∈ s.subs, u.spare = c) (pass : Bool) :
    exec (.spareSelfTest c pass) s = .next s := by
  have out : ¬ ((s.coreMap[c] == .spare && !s.subs.any (fun u => u.spare == c)) = true) := by
    obtain h | ⟨u, hu, e⟩ := h
    · simpa using fun e => absurd e h
    · simp only [Bool.and_eq_true, Bool.not_eq_true', not_and, Bool.not_eq_false, List.any_eq_true, beq_iff_eq]
      exact fun _ => ⟨u, hu, e⟩
  show execSpareSelfTest c pass s = _
  simp only [execSpareSelfTest, happen, if_neg out, attend_self, ite_self]

theorem spareSelfTest_due (hs : serving s = true) (hm : s.coreMap[c] = .spare) (hn : ∀ u ∈ s.subs, u.spare ≠ c) (pass : Bool) :
    exec (.spareSelfTest c pass) s = happen s (fun s =>
      if pass then s.modCore c Core.leavePlain else fenceCore (s.modCore c Core.leavePlain) c 5) := by
  have due : (s.coreMap[c] == .spare && !s.subs.any (fun u => u.spare == c)) = true := by simpa [hm] using hn
  show execSpareSelfTest c pass s = _
  simp only [execSpareSelfTest, happen, hs, due, if_true]

theorem usableOn_fenced (hm : t.coreMap = s.coreMap.set c .fenced) (die : Nat) :
    usableOn t die = (usableOn s die).erase c := by
  have nodup : (usableOn s die).Nodup := (List.nodup_finRange 576).filter _
  have same (d : CoreId) : usable t.coreMap[d] = (usable s.coreMap[d] && d != c) := by
    rw [hm]
    by_cases h : d = c
    · subst h
      simp [usable]
    · have : c.val ≠ d.val := fun e => h (Fin.ext e.symm)
      simp [this, h]
  rw [nodup.erase_eq_filter]
  unfold usableOn
  simp only [same, List.filter_filter, Bool.and_comm, Bool.and_left_comm]

/-- The mapping goes without one more core of a die that has more than its quarter. -/
theorem supports_fenced (hm : t.coreMap = s.coreMap.set c .fenced) (h : supports s n = true)
    (hd : n / 4 < (usableOn s (dieOf c)).length) : supports t n = true := by
  unfold supports at h ⊢
  rw [List.all_eq_true] at h ⊢
  intro die hdie
  have enough := h die hdie
  rw [decide_eq_true_eq] at enough ⊢
  rw [usableOn_fenced hm]
  by_cases e : die = dieOf c
  · subst e
    have := List.le_length_erase (a := c) (l := usableOn s (dieOf c))
    omega
  · have away : c ∉ usableOn s die := by
      intro hmem
      have here := (List.mem_filter.mp hmem).2
      rw [Bool.and_eq_true, beq_iff_eq] at here
      exact e here.1.symm
    rwa [List.erase_of_not_mem away]

/-- A spare that fails its test is fenced with cause 5, and the mapping still supports the module. -/
theorem happen_fence_spare (hc : Calm s) (hs : serving s = true) (hm : s.coreMap[c] = .spare) (hn : ∀ u ∈ s.subs, u.spare ≠ c)
    (hsup : supports s s.logicalCount = true) (hd : s.logicalCount / 4 < (usableOn s (dieOf c)).length)
    (hp : s.cores[c].plan = none) :
    ∃ t, exec (.spareSelfTest c false) s = .next t ∧ SameMemory s t ∧ t.plans = s.plans
      ∧ t.coreMap = s.coreMap.set c .fenced
      ∧ t.health.pending = s.health.pending ++ [healthEntry s.mod.startCount 1 1 c] := by
  rw [spareSelfTest_due hs hm hn]
  simp only [Bool.false_eq_true, if_false]
  have plain := sameMemory_modCore s c Core.leavePlain leavePlain_sram
  have calm : Calm (s.modCore c Core.leavePlain) := hc
  have unplanned : (s.modCore c Core.leavePlain).cores[c].plan = none := by rw [modCore_cores_self]; exact hp
  have body := fenceCore_spare (s := s.modCore c Core.leavePlain) (cause := 5) hm unplanned (by decide)
  obtain ⟨rep, -⟩ := fenceRecorded_reported (c := c) calm (fencePayload (s.modCore c Core.leavePlain) c 0xFFFF 5 0)
  obtain ⟨map, subs, health, count, -⟩ := rep.around
  have plans := rep.plans
  have room := Calm.room_after (s := withdrawn (takeFree (s.modCore c Core.leavePlain)).2 c) calm rep (by omega)
  have memory := (plain.trans (withdrawn_sameMemory (takeFree (s.modCore c Core.leavePlain)).2 c)).trans rep.sameMemory
  generalize fenceRecorded (s.modCore c Core.leavePlain) c (fencePayload (s.modCore c Core.leavePlain) c 0xFFFF 5 0) = u
    at rep map subs health count plans room memory body
  have free : u.subs.any (fun v => v.spare == c) = false := by
    rw [subs]
    show s.subs.any (fun v => v.spare == c) = false
    simpa using hn
  have fits : supports u u.logicalCount = true := by
    rw [count]
    exact supports_fenced (s := s) map hsup hd
  simp only [free, fits, Bool.false_eq_true, if_false, if_true] at body
  obtain ⟨t, ht, hN⟩ := happen_noted s (fun s => fenceCore (s.modCore c Core.leavePlain) c 5) hs (by
    show Room (fenceCore (s.modCore c Core.leavePlain) c 5)
    rw [body]; exact room)
  replace hN : Noted u t := body ▸ hN
  obtain ⟨map', subs', health', -, -⟩ := hN.around
  refine ⟨t, ht, memory.trans hN.sameMemory, hN.plans.trans plans, map'.trans map, ?_⟩
  rw [health', health]; rfl

/-- A spare that passes its test has left plain mode, and nothing is reported. -/
theorem spareSelfTest_passed (hs : serving s = true) (hm : s.coreMap[c] = .spare) (hn : ∀ u ∈ s.subs, u.spare ≠ c) :
    exec (.spareSelfTest c true) s = .next (s.modCore c Core.leavePlain) := by
  rw [spareSelfTest_due hs hm hn]
  simp only [happen, hs, if_true]
  exact congrArg _ (attend_cores s _)

/-! ### A fence in a step -/

/-- The vote of a job of one member for an early replay is its own result. -/
def Plan.abandonedAlone (p : Plan) (status : Nat) (bell : Bell) : Plan :=
  { p with replayCause := status, voteSent := true, earlySent := true,
           ownResult := some (⟨p.step, p.cls, p.attempt, true, true, 0, 0⟩, bell + 50000) }

/-- A step of a job of one member that is abandoned in attempt 0 is voted at once. -/
theorem abandonStep_alone {status pc : Nat} {r : FaultRec} (hp : s.plans[i] = some p) (ha : p.attempt = 0)
    (ho : p.stepOpen = true) (hv : p.voteSent = false) (he : p.earlySent = false) (hm : p.members ≤ 1) (ht : p.twinStop = none) :
    (abandonStep s i status r pc).plans = s.plans.set i (some (p.abandonedAlone status s.bell))
      ∧ abandonStep s i status r pc = { s with plans := (abandonStep s i status r pc).plans } := by
  simp only [abandonStep, earlyVote, sendModuleVote, hp, ha, ho, hv, he, State.modPlan_plans]
  simp [hm, ht, resultOf, Plan.abandonedAlone, State.modPlan, hp, ha]

/-- No cart stops where none is picked. -/
theorem cutCarts_none {pick : Nat → Bool} (h : ∀ m, pick m = false) (i : Fin 16) : cutCarts s i pick = s := by
  unfold cutCarts
  simp [h]

/-- Where the plan core owns no cart, only reckoners can stop with it. -/
theorem stopOwned_noCart {pc : Nat} (hp : s.plans[i] = some p) (hown : ∀ e ∈ p.img.cartOwner, e.2 ≠ pc) :
    ∃ v, stopOwned s i pc = { s with recks := v } := by
  have none_owned (m : Nat) : p.img.cartOwner.any (fun e => e.1 == m && e.2 == pc) = false := by
    rw [List.any_eq_false]
    intro e he
    simp [hown e he]
  simp only [stopOwned, hp, cutCarts_none none_owned]
  exact ⟨_, rfl⟩

/-- What follows the fence of a core of a running step: the slot waits for the copy, and the step is abandoned. -/
theorem fenceSlot_running {cause : Nat} (hp : s.plans[i] = some p) (ht : p.teardownCause = none) (h3 : cause ≠ 3)
    (hsp : spareOn s (dieOf c) = some sp) (ho : p.stepOpen = true) (hv : p.voteSent = false) :
    fenceSlot s c l (some i) cause =
      abandonStep (({ s with subs := s.subs ++ [⟨c, sp, l, i⟩] } : State).modCore sp Core.leavePlain) i codeTargetFenced
        FaultRec.reset 0 := by
  simp only [fenceSlot, hp, hsp, if_neg h3, ht, ho, hv]
  rfl

/-- The cores after the fence of one and the taking of another. -/
theorem fenced_and_taken (hne : sp ≠ c) (hcores : u.cores = (s.cores.set c s.cores[c].fence)) :
    (u.modCore sp Core.leavePlain).cores[c] = s.cores[c].fence
      ∧ (u.modCore sp Core.leavePlain).cores[sp] = s.cores[sp].leavePlain
      ∧ ∀ d : CoreId, d ≠ c → d ≠ sp → (u.modCore sp Core.leavePlain).cores[d] = s.cores[d] := by
  have fenced : u.cores[c] = s.cores[c].fence := by
    rw [hcores]; simp
  have other (d : CoreId) (h : d ≠ c) : u.cores[d] = s.cores[d] := by
    have : c.val ≠ d.val := fun e => h (Fin.ext e.symm)
    rw [hcores]; simp [this]
  refine ⟨?_, ?_, fun d hd hd' => ?_⟩
  · rw [modCore_other _ _ _ _ hne.symm, fenced]
  · rw [modCore_cores_self, other sp hne]
  · rw [modCore_other _ _ _ _ hd', other d hd]

/-- The fence of a running core of a plan: the slot waits for the copy to the spare, and the step is voted an early
replay. -/
theorem happen_fence_running {cause : Nat} (hc : Calm s) (hs : serving s = true) (hm : s.coreMap[c] = .mapped l)
    (hsp : spareOn s (dieOf c) = some sp) (h3 : cause ≠ 3) (hk : s.cores[c].plan = some i) (hp : s.plans[i] = some p)
    (hr : s.cores[c].run = .running) (ho : p.stepOpen = true) (ha : p.attempt = 0) (hv : p.voteSent = false)
    (he : p.earlySent = false) (hmem : p.members ≤ 1) (htw : p.twinStop = none) (ht : p.teardownCause = none)
    (hown : ∀ e ∈ p.img.cartOwner, e.2 ≠ s.cores[c].planCore) :
    ∃ t, happen s (fun s => fenceCore s c cause) = .next t ∧ SameMemory s t ∧ t.coreMap = s.coreMap.set c .fenced
      ∧ t.subs = s.subs ++ [⟨c, sp, l, i⟩] ∧ t.cores[c].run = .stopped
      ∧ t.cores[sp] = s.cores[sp].leavePlain
      ∧ (∀ d : CoreId, d ≠ c → d ≠ sp → t.cores[d] = s.cores[d])
      ∧ t.plans = s.plans.set i (some (p.abandonedAlone codeTargetFenced s.bell)) := by
  have hne : sp ≠ c := by
    rintro rfl
    have := spareOn_isSpare hsp
    rw [hm] at this
    cases this
  have body := fenceCore_planned hm hk hp h3
  obtain ⟨v, own⟩ := stopOwned_noCart (s := (takeFree s).2) hp hown
  rw [own] at body
  have room : Room (withdrawn { (takeFree s).2 with recks := v } c) := hc.room
  have rep := (journalPlan_reports room i 0x0801 (fencePayload s c l cause p.step)).1
  obtain ⟨map, subs, -, -, bell⟩ := rep.around
  have plans := rep.plans
  have cores := rep.cores
  have room' := Calm.room_after (s := withdrawn { (takeFree s).2 with recks := v } c) hc rep (by omega)
  have memory : SameMemory s _ :=
    (withdrawn_sameMemory { (takeFree s).2 with recks := v } c).trans rep.sameMemory
  generalize journalPlan (withdrawn { (takeFree s).2 with recks := v } c) i 0x0801 (fencePayload s c l cause p.step) = u
    at rep map subs bell plans cores room' memory body
  have hu : u.plans[i] = some p := by rw [plans]; exact hp
  have spare : spareOn u (dieOf c) = some sp := by
    rw [spareOn_congr (s := s) map subs (by rw [hm]; exact CoreUse.noConfusion), hsp]
  rw [fenceSlot_running hu ht h3 spare ho hv] at body
  obtain ⟨after, rest⟩ := abandonStep_alone (status := codeTargetFenced) (pc := 0) (r := FaultRec.reset)
    (s := ({ u with subs := u.subs ++ [⟨c, sp, l, i⟩] } : State).modCore sp Core.leavePlain) hu ha ho hv he hmem htw
  rw [rest, after] at body
  obtain ⟨fenced, taken, others⟩ := fenced_and_taken (u := { u with subs := u.subs ++ [⟨c, sp, l, i⟩] }) hne cores
  obtain ⟨t, htn, hN⟩ := happen_noted s (fun s => fenceCore s c cause) hs (by
    show Room (fenceCore s c cause)
    rw [body]; exact room')
  replace hN : Noted _ t := body ▸ hN
  obtain ⟨map', subs', -, -, -⟩ := hN.around
  have cores' := hN.cores
  refine ⟨t, htn, ?_, ?_, ?_, ?_, ?_, fun d hd hd' => ?_, ?_⟩
  · have took : SameMemory u _ := sameMemory_modCore { u with subs := u.subs ++ [⟨c, sp, l, i⟩] } sp _ leavePlain_sram
    exact ((memory.trans took).trans (sameMemory_kept rfl rfl rfl)).trans hN.sameMemory
  · exact map'.trans map
  · rw [subs']
    show u.subs ++ _ = _
    rw [subs]; rfl
  · rw [cores']
    exact (congrArg Core.run fenced).trans (fence_running hr)
  · rw [cores']; exact taken
  · rw [cores']; exact others d hd hd'
  · rw [hN.plans]
    show u.plans.set i (some (p.abandonedAlone codeTargetFenced u.bell)) = _
    rw [plans, bell]; rfl

/-! ### The copy's end -/

/-- The slot and all that the plan gives the fenced core are the spare's. -/
def substituted (s : State) (c sp : CoreId) (l : Fin 512) : State :=
  { s with subs := [], coreMap := s.coreMap.set sp (.mapped l),
           cores := (s.cores.set sp (s.cores[sp].takeOver s.cores[c])).set c s.cores[c].leave }

theorem copyEnd_clean (hsub : s.subs = [⟨c, sp, l, i⟩]) (hp : s.plans[i] = some p) (ht : p.teardownCause = none)
    (hbad : s.cores[c].sramBad = []) :
    copyEnd s c [] = journalPlan (substituted s c sp l) i 0x0405 (leBytes 2 c ++ leBytes 2 sp ++ leBytes 2 l ++ leBytes 4 p.step) := by
  have find : s.subs.find? (fun u => u.fenced == c) = some ⟨c, sp, l, i⟩ := by simp [hsub]
  have drop : s.subs.filter (fun u => u.fenced != c) = [] := by simp [hsub]
  simp only [copyEnd, find, drop, List.foldl_nil, hp, ht, hbad, Option.isSome_none, Bool.false_eq_true, if_false]
  rfl

/-- What the spare has of the fenced core. -/
theorem takeOver_fields (k m : Core) :
    (k.takeOver m).sram = m.sram ∧ (k.takeOver m).plan = m.plan ∧ (k.takeOver m).planCore = m.planCore
      ∧ (k.takeOver m).ckpt = m.ckpt ∧ (k.takeOver m).bundle = m.ckpt.bundle ∧ (k.takeOver m).regs.s = m.ckpt.s
      ∧ (k.takeOver m).regs.a = m.ckpt.a := ⟨rfl, rfl, rfl, rfl, rfl, rfl, rfl⟩

/-- A vote that the fenced core has cast stands. -/
theorem takeOver_cast (k : Core) {m : Core} (h : m.castVote = true) :
    (k.takeOver m).run = m.run ∧ (k.takeOver m).candidate = m.candidate ∧ (k.takeOver m).flagsStep = m.flagsStep := by
  simp [Core.takeOver, h]

theorem substituted_cores (s : State) (hne : c ≠ sp) (l : Fin 512) :
    (substituted s c sp l).cores[sp] = s.cores[sp].takeOver s.cores[c] ∧ (substituted s c sp l).cores[c] = s.cores[c].leave
      ∧ ∀ d : CoreId, d ≠ c → d ≠ sp → (substituted s c sp l).cores[d] = s.cores[d] := by
  have apart {d e : CoreId} (h : d ≠ e) : e.val ≠ d.val := fun q => h (Fin.ext q.symm)
  refine ⟨?_, by simp [substituted], fun d hd hd' => ?_⟩
  · have := apart hne.symm
    simp [substituted, this]
  · have hc := apart hd
    have hsp := apart hd'
    simp [substituted, hc, hsp]

/-- The copy has found no bad word: the substitution stands, and is recorded. -/
theorem happen_copyEnd (hc : Calm s) (hs : serving s = true) (hsub : s.subs = [⟨c, sp, l, i⟩])
    (hp : s.plans[i] = some p) (ht : p.teardownCause = none) (hbad : s.cores[c].sramBad = []) :
    ∃ t, exec (.substitutionCopyEnd c []) s = .next t ∧ t.subs = [] ∧ t.coreMap = s.coreMap.set sp (.mapped l)
      ∧ t.plans = s.plans ∧ t.hbm = s.hbm ∧ t.bins = s.bins ∧ t.cores = (substituted s c sp l).cores
      ∧ Holds t 0x0405 s.bell := by
  have body := copyEnd_clean hsub hp ht hbad
  have room : Room (substituted s c sp l) := hc.room
  obtain ⟨rep, held⟩ := journalPlan_reports room i 0x0405 (leBytes 2 c ++ leBytes 2 sp ++ leBytes 2 l ++ leBytes 4 p.step)
  have calm : Calm (substituted s c sp l) := hc
  have room' := calm.room_after rep (by omega)
  rw [← body] at rep held room'
  obtain ⟨map, subs, -, -, -⟩ := rep.around
  obtain ⟨t, htn, hN⟩ := happen_noted s (fun s => copyEnd s c []) hs room'
  obtain ⟨map', subs', -, -, -⟩ := hN.around
  refine ⟨t, htn, subs'.trans subs, map'.trans map, hN.plans.trans rep.plans, ?_, ?_, hN.cores.trans rep.cores, hN.holds held⟩
  · rw [hN.1]
    show (copyEnd s c []).hbm = _
    rw [rep.1]; rfl
  · rw [hN.1]
    show (copyEnd s c []).bins = _
    rw [rep.1]; rfl

/-! ### A stalled router or package (20 R443) -/

/-- The words that the sessions of a stopped module are sent say FAULT_STOPPED. -/
theorem statusWord_stopped (h : s.mod.state = .stopped) (session : Nat) : statusWord s session 0 / 2 ^ 24 % 8 = 5 := by
  have state : moduleState s = 5 := by simp only [moduleState, h]
  unfold statusWord
  rw [state]
  split
  · rfl
  · next k _ =>
    have sticky : k.sticky.toNat ≤ 1 := Bool.toNat_le _
    omega

/-- One HEARTBEAT reply leaves on every session of a list. -/
theorem foldl_heartbeats (ks : List Session) : ∀ s : State, s.mod.state = .stopped →
    ∃ l, ks.foldl (fun (s : State) k => s.emit (.host k.id 0x81 0 (statusWord s k.id 0) [])) s = { s with out := s.out ++ l }
      ∧ l.length = ks.length ∧ ∀ o ∈ l, ∃ k ∈ ks, ∃ w, o = Out.host k.id 0x81 0 w [] ∧ w / 2 ^ 24 % 8 = 5 := by
  induction ks with
  | nil => exact fun s _ => ⟨[], by simp, rfl, by simp⟩
  | cons k ks ih =>
    intro s h
    obtain ⟨l, e, len, told⟩ := ih (s.emit (.host k.id 0x81 0 (statusWord s k.id 0) [])) h
    refine ⟨.host k.id 0x81 0 (statusWord s k.id 0) [] :: l, ?_, by simp [len], ?_⟩
    · rw [List.foldl_cons, e]
      simp [State.emit]
    · intro o ho
      obtain rfl | ho := List.mem_cons.mp ho
      · exact ⟨k, List.mem_cons_self .., _, rfl, statusWord_stopped h k.id⟩
      · obtain ⟨k', hk', same⟩ := told o ho
        exact ⟨k', List.mem_cons_of_mem _ hk', same⟩

/-- FAULT_STOPPED in service, before its sessions are told. -/
def faultStopped (s : State) (code rail phase amps : Nat) : State :=
  let r := journalRaw s 0x0808 0 0 0xFF
    (leBytes 2 code ++ leBytes 1 s.power.flags.toNat ++ leBytes 1 rail ++ leBytes 1 phase ++ leBytes 2 amps
      ++ leBytes 2 (hottest s.sensors.die.toList).toNat ++ leBytes 2 (hottest s.sensors.stack.toList).toNat)
  attention { r with mod := { r.mod with state := .stopped, failCode := code, startStep := 10 }, draining := none } 1
    (moduleState s * 256 + 5)

theorem faultStop_serving {code rail phase amps : Nat} (hs : serving s = true) (h10 : s.mod.startStep = 10) :
    faultStop s code rail phase amps =
      let a := faultStopped s code rail phase amps
      if a.host.up then
        a.host.sessions.foldl (fun (s : State) k => s.emit (.host k.id 0x81 0 (statusWord s k.id 0) [])) a
      else a := by
  have going : ¬ (s.mod.state == .stopped) = true := by
    intro h
    rw [beq_iff_eq] at h
    simp [serving, h] at hs
  unfold faultStop
  rw [if_neg going, if_neg (not_not.mpr h10)]
  rfl

theorem attention_fields (s : State) (code detail : Nat) :
    (attention s code detail).host.up = s.host.up
      ∧ (attention s code detail).host.sessions = s.host.sessions.map (fun k => { k with sticky := true })
      ∧ attention s code detail = { s with host := (attention s code detail).host } := ⟨rfl, rfl, rfl⟩

theorem faultStopped_fields {code rail phase amps : Nat} (hc : Calm s) (h10 : s.mod.startStep = 10) :
    (faultStopped s code rail phase amps).mod = { s.mod with state := .stopped, failCode := code }
      ∧ (faultStopped s code rail phase amps).draining = none ∧ SameMemory s (faultStopped s code rail phase amps)
      ∧ (faultStopped s code rail phase amps).plans = s.plans ∧ (faultStopped s code rail phase amps).cores = s.cores
      ∧ (faultStopped s code rail phase amps).out = s.out ∧ (faultStopped s code rail phase amps).host.up = s.host.up
      ∧ (faultStopped s code rail phase amps).host.sessions = s.host.sessions.map (fun k => { k with sticky := true }) := by
  have rep := journalRaw_reported hc.room 0x0808 0 0 0xFF
    (leBytes 2 code ++ leBytes 1 s.power.flags.toNat ++ leBytes 1 rail ++ leBytes 1 phase ++ leBytes 2 amps
      ++ leBytes 2 (hottest s.sensors.die.toList).toNat ++ leBytes 2 (hottest s.sensors.stack.toList).toNat)
  have memory := rep.sameMemory
  have plans := rep.plans
  have cores := rep.cores
  unfold faultStopped
  generalize journalRaw s 0x0808 0 0 0xFF _ = r at rep memory plans cores ⊢
  dsimp only
  obtain ⟨up, sessions, rest⟩ := attention_fields
    { r with mod := { r.mod with state := .stopped, failCode := code, startStep := 10 }, draining := none } 1
    (moduleState s * 256 + 5)
  rw [up, sessions, rest]
  refine ⟨?_, rfl, memory.trans (sameMemory_kept rfl rfl rfl), plans, cores, ?_, ?_, ?_⟩
  · show ({ r.mod with state := .stopped, failCode := code, startStep := 10 } : ModInfo) = _
    rw [rep.1, ← h10]
  · show r.out = _
    rw [rep.1]; simp
  · show r.host.up = _
    rw [rep.1]
  · show r.host.sessions.map _ = _
    rw [rep.1]

/-- The stop reports itself: no attention event of its changes follows. -/
theorem attend_stop {old : State} (hs : serving old = true) (h : s.mod.state = .stopped) : attend old s = s := by
  have going : (old.mod.state != .stopped) = true := by
    simp only [serving, Bool.or_eq_true, beq_iff_eq] at hs
    obtain h | h := hs <;> rw [h] <;> rfl
  unfold attend
  rw [going, h]
  rfl

/-- The module in service stops, and where the host link is up each of its sessions is told. -/
theorem happen_faultStop {code rail phase amps : Nat} (hc : Calm s) (hs : serving s = true) (h10 : s.mod.startStep = 10) :
    ∃ t, happen s (fun s => faultStop s code rail phase amps) = .next t
      ∧ t.mod = { s.mod with state := .stopped, failCode := code } ∧ t.draining = none ∧ SameMemory s t
      ∧ t.plans = s.plans ∧ t.cores = s.cores ∧ serving t = false
      ∧ (s.host.up = false → t.out = s.out)
      ∧ (s.host.up = true → t.out.length = s.out.length + s.host.sessions.length
          ∧ ∀ o ∈ t.out.drop s.out.length, ∃ k ∈ s.host.sessions, ∃ w, o = Out.host k.id 0x81 0 w []
            ∧ w / 2 ^ 24 % 8 = 5) := by
  have body := faultStop_serving (code := code) (rail := rail) (phase := phase) (amps := amps) hs h10
  obtain ⟨mod, drain, memory, plans, cores, out, up, sessions⟩ :=
    faultStopped_fields (code := code) (rail := rail) (phase := phase) (amps := amps) hc h10
  generalize faultStopped s code rail phase amps = a at body mod drain memory plans cores out up sessions
  have stopped : a.mod.state = .stopped := by rw [mod]
  have idle : serving a = false := by simp [serving, stopped]
  have told : ∃ l, faultStop s code rail phase amps = { a with out := s.out ++ l }
      ∧ (s.host.up = false → l = []) ∧ (s.host.up = true → l.length = s.host.sessions.length
        ∧ ∀ o ∈ l, ∃ k ∈ s.host.sessions, ∃ w, o = Out.host k.id 0x81 0 w [] ∧ w / 2 ^ 24 % 8 = 5) := by
    dsimp only at body
    rw [body, up]
    cases hup : s.host.up with
    | false => exact ⟨[], by simp [← out], fun _ => rfl, fun h => Bool.noConfusion h⟩
    | true =>
      obtain ⟨l, e, len, same⟩ := foldl_heartbeats a.host.sessions a stopped
      refine ⟨l, by rw [if_pos rfl, e, out], fun h => Bool.noConfusion h, fun _ => ⟨?_, fun o ho => ?_⟩⟩
      · rw [len, sessions, List.length_map]
      · obtain ⟨k, hk, w, eo, hw⟩ := same o ho
        rw [sessions] at hk
        obtain ⟨k', hk', rfl⟩ := List.mem_map.mp hk
        exact ⟨k', hk', w, eo, hw⟩
  obtain ⟨l, e, quiet, loud⟩ := told
  refine ⟨{ a with out := s.out ++ l }, ?_, mod, drain, memory.trans (sameMemory_kept rfl rfl rfl), plans, cores, idle,
    fun h => ?_, fun h => ?_⟩
  · simp only [happen, hs, if_true, e]
    rw [attend_stop (s := { a with out := s.out ++ l }) hs stopped]
  · simp [quiet h]
  · simpa using loud h

end
end Sys2Proof.Machine

open Sys2Proof Sys2Proof.Machine

/-- Settles O52: a core that is fenced leaves the core mapping, its health entry is pending, and its logical slot passes to
the lowest spare of its die, at once where no plan holds it and after the copy where one does, whose step is voted an early
replay; a spare leaves plain mode when it is tested or taken; a stalled router or package stops the module. -/
theorem fencesAndSpares : Obligations.FencesAndSpares := by
  unfold Obligations.FencesAndSpares
  intro s hc hs
  refine ⟨fun c l sp hm hsp i hi => ?fence, fun c hm i hi => ?out, fun c few => ?early, fun c => ?passed,
    fun c hm hn hsup hd hp => happen_fence_spare hc hs hm hn hsup hd hp, fun c sp l i p hne hsub hp ht hbad => ?copied,
    fun h10 i hi => ?stop⟩
  case fence =>
    obtain ⟨cause, hcause, e⟩ := exec_fencing s c hi
    have h3 : cause ≠ 3 := by omega
    rw [e]
    refine ⟨fun hp => happen_fence_unplanned hc hs hm hsp hp h3,
      fun n p hk hp hr ho ha hv he hmem htw ht hown => ?_⟩
    obtain ⟨t, ht, memory, map, subs, run, spare, others, plans⟩ :=
      happen_fence_running hc hs hm hsp h3 hk hp hr ho ha hv he hmem htw ht hown
    exact ⟨t, ht, memory, map, subs, run, spare, others, _, plans, rfl, rfl, by simp [Plan.abandonedAlone, ha]⟩
  case out =>
    obtain ⟨cause, -, e⟩ := exec_fencing s c hi
    have unusable : usable s.coreMap[c] = false := by obtain h | h := hm <;> rw [h] <;> rfl
    refine ⟨s, ?_, rfl⟩
    rw [e]
    simp only [happen, fenceCore_out unusable, attend_self, ite_self]
  case early =>
    have notDue : ¬ (s.cores[c].sramCorrected.1 == s.bell / 1000000000 && 4096 ≤ s.cores[c].sramCorrected.2) = true := by
      simp only [Bool.and_eq_true, decide_eq_true_eq, not_and]
      omega
    have same : coreFence s c 4 = s := if_neg notDue
    refine ⟨s, ?_, rfl⟩
    show execCoreFence c 4 s = _
    unfold execCoreFence happen
    show Host.Outcome.next (if serving s then attend s (coreFence s c 4) else s) = _
    rw [same, attend_self, ite_self]
  case passed =>
    by_cases due : s.coreMap[c] = .spare ∧ ∀ u ∈ s.subs, u.spare ≠ c
    · obtain ⟨hm, hn⟩ := due
      refine ⟨_, spareSelfTest_passed hs hm hn, fun _ _ => rfl, fun h => ?_⟩
      obtain h | ⟨u, hu, e⟩ := h
      · exact absurd hm h
      · exact absurd e (hn u hu)
    · refine ⟨s, spareSelfTest_not ?_ true, fun hm hn => absurd ⟨hm, hn⟩ due, fun _ => rfl⟩
      by_contra h
      push Not at h
      exact due h
  case copied =>
    obtain ⟨t, htn, subs, map, plans, hbm, bins, cores, held⟩ := happen_copyEnd hc hs hsub hp ht hbad
    obtain ⟨spare, left, others⟩ := substituted_cores s hne l
    obtain ⟨sram, plan, planCore, ckpt, bundle, regs, regA⟩ := takeOver_fields s.cores[sp] s.cores[c]
    rw [← cores] at spare left others
    refine ⟨t, ?_⟩
    rw [spare, left]
    exact ⟨htn, subs, map, plans, hbm, bins, fun a => by rw [sram], plan, planCore, ckpt, bundle, regs, regA,
      takeOver_cast s.cores[sp], rfl, others, held⟩
  case stop =>
    have e : exec i s = happen s (fun s => faultStop s 0x000C 0xFF 0 0) := by
      simp only [List.mem_cons, List.not_mem_nil, or_false] at hi
      obtain rfl | rfl := hi
      · rfl
      · rfl
    rw [e]
    exact happen_faultStop hc hs h10

end

section
/-! SUPPORT. The start sequence (16 R367, R368, R371; 19 R424, R427): what the stages of a start leave alone of the module's
state, the bell and the input, and how a start ends. -/

namespace Sys2Proof.Machine
open Sys2Proof

section
variable {s t : State} {n : Nat} {ok : Bool}

/-! ### What most stages of a start leave alone -/

/-- The module's own state, the bell, the input and the count of the core mapping. -/
def startView (s : State) : ModInfo × Bell × Bool × Power × Nat := (s.mod, s.bell, s.bellRunning, s.power, s.logicalCount)

theorem foldl_view {α : Type} {f : State → α → State} (hf : ∀ s a, startView (f s a) = startView s) (l : List α) (s : State) :
    startView (l.foldl f s) = startView s := by
  induction l generalizing s with
  | nil => rfl
  | cons a l ih => rw [List.foldl_cons, ih, hf]

theorem journalAppend_view (s : State) (type job member plan : Nat) (b : Bytes) :
    startView (journalAppend s type job member plan b) = startView s := by
  obtain ⟨r, c, ch, cps, f, e⟩ := journalAppend_spec s type job member plan b
  rw [e]; rfl

theorem fenceJob_view (s : State) (i : Fin 16) (cause : Nat) : startView (fenceJob s i cause) = startView s := by
  unfold fenceJob
  split
  · rfl
  · split <;> rfl

theorem journalTeardown_view (s : State) : startView (journalTeardown s) = startView s := by
  refine foldl_view (fun s i => ?_) _ s
  split
  · split
    · rfl
    · rw [fenceJob_view]; rfl
  · rfl

theorem journalModes_view (s : State) : startView (journalModes s) = startView s := by
  have record (m : Nat) (b : Bytes) :
      startView (journalAppend { s with journal := { s.journal with mode := m } } 0x070E 0 0 0xFF b) = startView s :=
    journalAppend_view ..
  simp only [journalModes]
  split
  · rfl
  · split
    · rw [journalTeardown_view, record]
    · rw [record]

/-- A record leaves them alone, even one that fills the journal. -/
theorem journalRaw_view (s : State) (type job member plan : Nat) (b : Bytes) :
    startView (journalRaw s type job member plan b) = startView s := by
  simp only [journalRaw]
  rw [journalModes_view]
  split
  · rw [journalAppend_view, journalAppend_view]
  · rw [journalAppend_view]

theorem journalAll_view (s : State) (l : List (Nat × Bytes)) : startView (journalAll s l) = startView s :=
  foldl_view (fun s _ => journalRaw_view s ..) l s

theorem measExtend_view (s : State) (k : Fin 16) (d : Bytes) : startView (measExtend s k d) = startView s := rfl

theorem addHealth_view (s : State) (kind reason unit : Nat) : startView (addHealth s kind reason unit) = startView s := rfl

theorem raiseCounter_view (s : State) (type seq : Nat) :
    startView (raiseCounter s type seq) = startView s ∧ (raiseCounter s type seq).flash = s.flash := by
  simp only [raiseCounter]
  split
  · exact ⟨rfl, rfl⟩
  · split
    · exact ⟨rfl, rfl⟩
    · split <;> exact ⟨rfl, rfl⟩

theorem applyEntry_view (s : State) (e : Nat) : startView (applyEntry s e) = startView s := by
  simp only [applyEntry]
  repeat' split
  all_goals rfl

theorem startPlough_view (s : State) (ch : Fin 256) (bad : Bool) : startView (startPlough s ch bad) = startView s := by
  unfold startPlough
  split <;> rfl

theorem writeHealth_view (s : State) (h : HealthRec) (ok : BitVec 4) : startView (writeHealth s h ok) = startView s :=
  foldl_view (f := fun s (e : (Fin 2 × Nat) × Nat) => flashWrite s e.1.1 e.1.2 (healthBytes h)) (fun _ _ => rfl) _ s

theorem rotate_view {o : SignedObj} {r : State × List (Nat × Bytes)} (h : rotate s o = some r) : startView r.1 = startView s := by
  unfold rotate at h
  extract_lets own enr revoke slots enrolled at h
  clear_value enrolled
  split at h
  · cases h
  · extract_lets after at h
    split at h
    · cases h
    · cases h; rfl

/-! ### A start under way, and its end -/

/-- The bell runs from 0, and the input is as it was found. -/
def Clocked (ok : Bool) (t : State) : Prop := t.bellRunning = true ∧ t.bell = 0 ∧ t.power.inputOk = ok

/-- The start has met no failure. -/
def Underway (n : Nat) (ok : Bool) (t : State) : Prop :=
  t.mod.state = .starting ∧ t.mod.failCode = 0 ∧ t.mod.startCount = n ∧ Clocked ok t

/-- The start has reached step 8, or has ended with a code from step 5 on. -/
def Reached (n : Nat) (t : State) : Prop :=
  (t.mod.state = .starting ∧ t.mod.startStep = 8 ∧ t.mod.failCode = 0
      ∧ (t.logicalCount = 512 ∨ t.logicalCount = 448 ∨ t.logicalCount = 384) ∧ t.mod.startCount = n)
    ∨ (t.mod.state = .stopped ∧ t.mod.failCode = 6) ∨ (t.mod.state = .halted ∧ t.mod.failCode ∈ [4, 5])

/-- How a start ends from step 5 on. -/
def Ends (n : Nat) (ok : Bool) (t : State) : Prop := Reached n t ∧ Clocked ok t

theorem Underway.clocked (h : Underway n ok s) : Clocked ok s := by
  obtain ⟨-, -, -, clocked⟩ := h
  exact clocked

theorem view_fields (e : startView t = startView s) :
    t.mod = s.mod ∧ t.bell = s.bell ∧ t.bellRunning = s.bellRunning ∧ t.power = s.power ∧ t.logicalCount = s.logicalCount := by
  simpa only [startView, Prod.mk.injEq] using e

theorem Clocked.of_view (h : Clocked ok s) (e : startView t = startView s) : Clocked ok t := by
  obtain ⟨-, bell, running, power, -⟩ := view_fields e
  unfold Clocked
  rw [bell, running, power]
  exact h

theorem Underway.of_view (h : Underway n ok s) (e : startView t = startView s) : Underway n ok t := by
  obtain ⟨state, code, count, clocked⟩ := h
  have mod := (view_fields e).1
  exact ⟨by rw [mod, state], by rw [mod, code], by rw [mod, count], clocked.of_view e⟩

theorem startFail_clocked (h : Clocked ok s) (state : ModState) (code ms : Nat) : Clocked ok (startFail s state code ms) := h

theorem startFail_mod (s : State) (state : ModState) (code ms : Nat) :
    (startFail s state code ms).mod.state = state ∧ (startFail s state code ms).mod.failCode = code := ⟨rfl, rfl⟩

theorem railsOn_underway (h : Underway n ok s) (pick : Nat → Bool) : Underway n ok (railsOn s pick) := h

/-! ### Steps 6 and 7 -/

/-- The entries of the units that a list names, applied and waiting. -/
theorem unitsOut_view (units : List (Nat × Nat)) (reason : Nat) (s : State) :
    startView (units.foldl (fun (s : State) u =>
      addHealth (applyEntry s (healthEntry s.mod.startCount 0 reason u.1)) 0 reason u.1) s) = startView s :=
  foldl_view (fun s u => by rw [addHealth_view, applyEntry_view]) units s

/-- The map is rebuilt to a count, and no more of the start is touched. -/
theorem rebuildMap_underway (h : Underway n ok s) (k : Nat) :
    Underway n ok (rebuildMap s k) ∧ (rebuildMap s k).logicalCount = k := by
  obtain ⟨v, e⟩ : ∃ v, rebuildMap s k = { s with logicalCount := k, coreMap := v } := ⟨_, rfl⟩
  rw [e]
  exact ⟨h, rfl⟩

theorem startStep67_ends (h : Underway n ok s) (f : StartFacts) :
    Ends n ok (startStep67 s f) := by
  unfold startStep67
  extract_lets m1 powered applied tested most out
  have hpowered : Underway n ok powered := h
  have happlied : Underway n ok applied := hpowered.of_view (foldl_view applyEntry_view _ _)
  have htested : Underway n ok tested := happlied.of_view (foldl_view (fun s u => by
    show startView (journalRaw (addHealth (applyEntry (takeFree s).2 _) _ _ _) _ _ _ _ _) = _
    rw [journalRaw_view, addHealth_view, applyEntry_view]; rfl) _ _)
  have hout (reason : Nat) (s : State) : startView (out reason s) = startView s := unitsOut_view ..
  clear_value tested out
  split
  next => exact ⟨.inr (.inl (startFail_mod tested .stopped 6 f.elapsedMs)), startFail_clocked htested.clocked ..⟩
  next k hk =>
    have size : k = 512 ∨ k = 448 ∨ k = 384 := by simpa using List.mem_of_find?_eq_some hk
    extract_lets mapped m2 entered m3 keyed trained ploughed m4
    obtain ⟨hmapped, counted⟩ : Underway n ok mapped ∧ mapped.logicalCount = k := rebuildMap_underway htested k
    clear_value mapped
    have hkeyed : Underway n ok keyed := hmapped
    have htrained : startView trained = startView keyed := hout 3 keyed
    have hploughed : startView ploughed = startView keyed := by
      unfold ploughed
      split
      · exact htrained
      · rw [hout, foldl_view (fun s ch => startPlough_view ..), htrained]
    obtain ⟨state, code, count, clocked⟩ := hkeyed.of_view hploughed
    obtain ⟨-, -, -, -, kept⟩ := view_fields hploughed
    have logical : ploughed.logicalCount = k := kept.trans counted
    exact ⟨.inl ⟨state, rfl, code, by rw [← logical] at size; exact size, count⟩, clocked⟩

/-! ### Step 5 -/

theorem halted_ends {code : Nat} (hc : code = 4 ∨ code = 5) (h : Clocked ok s) (ms : Nat) :
    Ends n ok (startFail s .halted code ms) :=
  ⟨.inr (.inr ⟨rfl, by simpa [startFail] using hc⟩), h⟩

theorem startConfigured_ends (h : Underway n ok s) (f : StartFacts) (o : SignedObj) (dev : Fin 2) (held : List (Nat × Bytes)) :
    Ends n ok (startConfigured s f o dev held) := by
  unfold startConfigured
  split
  next => exact halted_ends (.inl rfl) (h.of_view (journalAll_view s held)).clocked _
  next r recs hr =>
    have hrotated : Underway n ok r := h.of_view (rotate_view hr)
    extract_lets raised m1 configured slotBytes slotted owned m2
    have hraised : Underway n ok raised := hrotated.of_view (raiseCounter_view ..).1
    have howned : Underway n ok owned := hraised
    clear_value owned
    split
    next list listRecs _ =>
    split
    next auth authRecs _ =>
    extract_lets dbg listed debugged named listDigest measured opened journaled
    have hlisted : Underway n ok listed := by
      unfold listed
      split
      next l d _ =>
        have hraised : Underway n ok (raiseCounter owned 3 l.sequence) := howned.of_view (raiseCounter_view ..).1
        generalize raiseCounter owned 3 l.sequence = u at hraised ⊢
        exact hraised
      next => exact howned
    clear_value listed
    have hmeasured : Underway n ok measured := hlisted
    have hjournaled : Underway n ok journaled :=
      (hmeasured.of_view (journalRaw_view ..)).of_view (journalAll_view ..)
    clear_value journaled dbg
    split
    next d _ _ =>
      extract_lets recorded
      obtain ⟨-, -, -, clocked⟩ : Underway n ok recorded := hjournaled.of_view (journalRaw_view ..)
      clear_value recorded
      exact halted_ends (.inr rfl) clocked _
    next =>
      split
      · exact halted_ends (.inr rfl) hjournaled.clocked _
      · exact startStep67_ends hjournaled f

/-- How a start ends once its firmware is found. -/
def Started (s t : State) : Prop :=
  (t.mod.state = .starting ∧ t.mod.startStep = 8 ∧ t.mod.failCode = 0
      ∧ (t.logicalCount = 512 ∨ t.logicalCount = 448 ∨ t.logicalCount = 384)
      ∧ ∃ h d, selectHealth s = some (h, d) ∧ t.mod.startCount = h.startCount + 1)
    ∨ (t.mod.state = .stopped ∧ t.mod.failCode ∈ [1, 2, 3, 6])
    ∨ (t.mod.state = .halted ∧ t.mod.failCode ∈ [4, 5])

theorem stopped_started {code : Nat} (hc : code ∈ [1, 2, 3, 6]) (u s : State) (ms : Nat) :
    Started u (startFail s .stopped code ms) := .inr (.inl ⟨rfl, hc⟩)

theorem Ends.started {h : HealthRec} {d : Nat} (e : Ends (h.startCount + 1) ok t) (hs : selectHealth s = some (h, d)) :
    Started s t := by
  obtain ⟨reached | ⟨state, code⟩ | halted, -⟩ := e
  · obtain ⟨state, step, code, logical, count⟩ := reached
    exact .inl ⟨state, step, code, logical, h, d, hs, count⟩
  · exact .inr (.inl ⟨state, by simp [code]⟩)
  · exact .inr (.inr halted)

/-- The record that is chosen depends on flash alone. -/
theorem selectHealth_congr (h : t.flash = s.flash) : selectHealth t = selectHealth s := by
  have read : flashRead t = flashRead s := by
    funext dev a n
    rw [flashRead, flashRead, h]
  have same (dev : Fin 2) (a : Nat) : readHealth t dev a = readHealth s dev a := by
    rw [readHealth, readHealth, read]
  simp only [selectHealth, same]

/-- The start ends, and stops where no health record is found or none of its copies is written. -/
def EndsFrom (s : State) (f : StartFacts) (ok : Bool) (t : State) : Prop :=
  Started s t ∧ Clocked ok t
    ∧ (selectHealth s = none → t.mod.state = .stopped ∧ t.mod.failCode ∈ [1, 2])
    ∧ (f.healthCopies = 0 → t.mod.state = .stopped ∧ t.mod.failCode ∈ [1, 2, 3])

theorem EndsFrom.congr {u : State} {f : StartFacts} (e : EndsFrom u f ok t) (h : selectHealth u = selectHealth s) :
    EndsFrom s f ok t := by
  unfold EndsFrom Started at e ⊢
  rw [← h]
  exact e

theorem EndsFrom.input {f : StartFacts} (e : EndsFrom s f ok t) : t.power.inputOk = ok := by
  obtain ⟨-, ⟨-, -, input⟩, -, -⟩ := e
  exact input

/-- Without firmware or without a health record the start stops. -/
theorem stopped_endsFrom {f : StartFacts} {code : Nat} (hc : code ∈ [1, 2]) (h : Clocked ok t) (s : State) (ms : Nat) :
    EndsFrom s f ok (startFail t .stopped code ms) := by
  have more : code ∈ [1, 2, 3] := by simp only [List.mem_cons, List.not_mem_nil, or_false] at hc ⊢; omega
  have most : code ∈ [1, 2, 3, 6] := by simp only [List.mem_cons, List.not_mem_nil, or_false] at hc ⊢; omega
  exact ⟨stopped_started most s t ms, h, fun _ => ⟨rfl, hc⟩, fun _ => ⟨rfl, more⟩⟩

/-- Where no copy of the record is written the start stops. -/
theorem unwritten_endsFrom {f : StartFacts} {r : HealthRec × Nat} (h : Clocked ok t) (hs : selectHealth s = some r) (ms : Nat) :
    EndsFrom s f ok (startFail t .stopped 3 ms) :=
  ⟨stopped_started (by decide) s t ms, h, fun missing => absurd (hs.symm.trans missing) nofun, fun _ => ⟨rfl, by simp [startFail]⟩⟩

/-- Where a health record is found and written, the start ends as its later steps do. -/
theorem Ends.endsFrom {f : StartFacts} {h : HealthRec} {d : Nat} (e : Ends (h.startCount + 1) ok t)
    (hs : selectHealth s = some (h, d)) (hf : f.healthCopies ≠ 0) : EndsFrom s f ok t :=
  ⟨e.started hs, e.2, fun missing => absurd (hs.symm.trans missing) nofun, fun zero => absurd zero hf⟩

theorem startStep5_ends (h : Underway n ok s) (f : StartFacts) (held : List (Nat × Bytes)) :
    EndsFrom s f ok (startStep5 s f held) := by
  unfold startStep5
  extract_lets m1 entered
  have hentered : Underway n ok entered := h
  have same : selectHealth entered = selectHealth s := selectHealth_congr rfl
  clear_value entered
  obtain ⟨state, code, -, clocked⟩ := hentered
  refine EndsFrom.congr (u := entered) ?_ same
  split
  next => exact stopped_endsFrom (by decide) clocked entered _
  next r digest hr =>
    extract_lets measured r' m2 written chained recorded
    have hmarked : Underway (r.startCount + 1) ok
        { measured with health := r', mod := { measured.mod with startCount := r.startCount + 1 } } :=
      ⟨state, code, rfl, clocked⟩
    have hwritten : Underway (r.startCount + 1) ok written := hmarked.of_view (writeHealth_view ..)
    have hchained : Underway (r.startCount + 1) ok chained := hwritten
    clear_value written chained
    split
    next => exact unwritten_endsFrom hwritten.clocked hr _
    next hf =>
      refine Ends.endsFrom ?_ hr hf
      split
      next o dev recs _ => exact startConfigured_ends hchained f o dev _
      next recs _ =>
        have hrecorded : Underway (r.startCount + 1) ok (journalAll recorded (held ++ recs)) :=
          (hchained.of_view (journalRaw_view ..)).of_view (journalAll_view ..)
        generalize journalAll recorded (held ++ recs) = u at hrecorded ⊢
        obtain ⟨reached, clocked⟩ := halted_ends (n := r.startCount + 1) (.inl rfl) hrecorded.clocked f.elapsedMs
        exact ⟨reached, clocked⟩

/-! ### Step 4 -/

theorem startStep4_ends (h : Underway n ok s) (f : StartFacts) : EndsFrom s f ok (startStep4 s f) := by
  unfold startStep4
  extract_lets m1 entered masked
  have hmasked : Underway n ok masked := h
  have flash : masked.flash = s.flash := rfl
  clear_value masked
  split
  next o dev recs _ =>
    obtain ⟨view, kept⟩ := raiseCounter_view masked 1 o.sequence
    have hraised : Underway n ok (raiseCounter masked 1 o.sequence) := hmasked.of_view view
    generalize raiseCounter masked 1 o.sequence = u at hraised kept ⊢
    extract_lets measured m2
    have hnamed : Underway n ok { measured with mod := { measured.mod with fwFl1 := dev == 1 } } := hraised
    exact (startStep5_ends hnamed f recs).congr (selectHealth_congr (kept.trans flash))
  next => exact stopped_endsFrom (by decide) hmasked.clocked s _

/-! ### Steps 1 to 3 -/

/-- The input holds, and the rails of the module's control are on. -/
def inputTaken (s : State) (f : StartFacts) : State :=
  railsOn { s with power := { s.power with inputOk := true, reversed := false },
                   mod := { s.mod with state := .starting, startStep := 3, grade := f.grade, stepping := f.stepping } }
    (fun r => 13 ≤ r)

theorem inputTaken_fields (s : State) (f : StartFacts) :
    (inputTaken s f).mod.state = .starting ∧ (inputTaken s f).mod.startStep = 3 ∧ (inputTaken s f).mod.failCode = s.mod.failCode
      ∧ (inputTaken s f).power.inputOk = true ∧ (inputTaken s f).bellRunning = s.bellRunning
      ∧ (inputTaken s f).flash = s.flash := ⟨rfl, rfl, rfl, rfl, rfl, rfl⟩

/-- A module that waits for its input takes it. -/
theorem inputValid_waiting (f : StartFacts) (hw : s.mod.state = .off ∨ s.mod.state = .starting ∧ s.mod.startStep ≤ 1)
    (hfuse : s.power.fuseOpen = false) (hdark : s.power.dark = false) :
    inputValid s f =
      let t := inputTaken s f
      if !f.powerOk then
        { t with power := { t.power with flags := t.power.flags ||| 2 }, bellRunning := true,
                 mod := { t.mod with startStep := 2, failCode := 7 } }
      else if !f.referenceOk then
        { t with power := { t.power with flags := t.power.flags ||| 64 }, mod := { t.mod with failCode := 8 } }
      else startStep4 { t with bell := 0, bellRunning := true } f := by
  unfold inputValid
  extract_lets waiting
  have now : waiting = true := by
    unfold waiting
    obtain h | ⟨h, hstep⟩ := hw
    · rw [h]
    · rw [h]; exact decide_eq_true hstep
  rw [now, hfuse, hdark]
  rfl

/-- From step 4 on a module whose bell starts again ends its start. -/
theorem step4_ends (f : StartFacts) (hstate : s.mod.state = .starting) (hcode : s.mod.failCode = 0) (hbell : s.bell = 0)
    (hrun : s.bellRunning = true) : EndsFrom s f s.power.inputOk (startStep4 s f) :=
  startStep4_ends (n := s.mod.startCount) ⟨hstate, hcode, rfl, hrun, hbell, rfl⟩ f

theorem inputValid_ends (f : StartFacts) (hw : s.mod.state = .off ∨ s.mod.state = .starting ∧ s.mod.startStep ≤ 1)
    (hcode : s.mod.failCode = 0) (hfuse : s.power.fuseOpen = false) (hdark : s.power.dark = false) :
    (inputValid s f).power.inputOk = true
      ∧ (f.powerOk = false → (inputValid s f).mod.state = .starting ∧ (inputValid s f).mod.startStep = 2
          ∧ (inputValid s f).mod.failCode = 7 ∧ (inputValid s f).bellRunning = true)
      ∧ (f.powerOk = true → f.referenceOk = false → (inputValid s f).mod.state = .starting
          ∧ (inputValid s f).mod.startStep = 3 ∧ (inputValid s f).mod.failCode = 8
          ∧ (inputValid s f).bellRunning = s.bellRunning)
      ∧ (f.powerOk = true → f.referenceOk = true → EndsFrom s f true (inputValid s f)) := by
  rw [inputValid_waiting f hw hfuse hdark]
  obtain ⟨state, step, code, input, running, flash⟩ := inputTaken_fields s f
  generalize inputTaken s f = u at state step code input running flash ⊢
  cases hp : f.powerOk with
  | false => exact ⟨input, fun _ => ⟨state, rfl, rfl, rfl⟩, nofun, nofun⟩
  | true =>
    cases hr : f.referenceOk with
    | false => exact ⟨input, nofun, fun _ _ => ⟨state, step, rfl, running⟩, nofun⟩
    | true =>
      have ends := step4_ends (s := { u with bell := 0, bellRunning := true }) f state (code.trans hcode) rfl rfl
      rw [input] at ends
      have from_s : EndsFrom s f true (startStep4 { u with bell := 0, bellRunning := true } f) :=
        ends.congr (selectHealth_congr flash)
      exact ⟨from_s.input, nofun, nofun, fun _ _ => from_s⟩

theorem referenceRestored_ends (f : StartFacts) (hstate : s.mod.state = .starting) (hcode : s.mod.failCode = 8) :
    ∃ t, exec (.referenceRestored f) s = .next t ∧ EndsFrom s f s.power.inputOk t := by
  have held : (s.mod.state == .starting && s.mod.failCode == 8) = true := by rw [hstate, hcode]; rfl
  refine ⟨startStep4 { s with bell := 0, bellRunning := true, mod := { s.mod with failCode := 0 } } f, ?_, ?_⟩
  · show execReferenceRestored f s = _
    unfold execReferenceRestored
    rw [if_pos held]
  · have ends := step4_ends (s := { s with bell := 0, bellRunning := true, mod := { s.mod with failCode := 0 } }) f hstate rfl rfl rfl
    exact ends.congr (selectHealth_congr rfl)

/-! ### The seal (16 R367 step 9, R370, R373) -/

/-- The module is READY, before it reports and asks to join. -/
def readied (s : State) : State :=
  { s with
    mod := { s.mod with state := .ready, startStep := 10 },
    adm := { s.adm with capW := capStart s },
    domain := ⟨false, false, cfgPrimary s, cfgStandby s⟩,
    reeve := { s.reeve with
      role := if cfgPlace s = cfgPrimary s then 1 else if cfgPlace s = cfgStandby s then 2 else 0,
      lastBeat := s.bell, hasStandby := true },
    cores := s.cores.map Core.leavePlain }

/-- The START record of a module that is ready. -/
def startRecorded (s : State) : State :=
  journalRaw s 0x0101 0 0 0xFF (leBytes 4 s.mod.startCount ++ leBytes 4 s.mod.elapsedMs
    ++ leBytes 1 (stIdentity s / 256 % 16) ++ leBytes 2 (channelsIn s) ++ leBytes 2 (spareCores s) ++ leBytes 1 (portsIn s)
    ++ leBytes 1 (cfgPlough s))

theorem sealStart_ready (hstate : s.mod.state = .starting) (hstep : s.mod.startStep = 8) :
    sealStart s =
      let u := sendCredits (sendJoin (startRecorded (readied s)))
      if cfgAutostart u then autoRun 17 { u with autostart := ⟨0, 0, u.bell, none, 0⟩ } else u := by
  have now : ¬ (s.mod.state != .starting || s.mod.startStep != 8) = true := by rw [hstate, hstep]; decide
  unfold sealStart
  rw [if_neg now]
  rfl

/-- No credits leave where the host link is down. -/
theorem sendCredits_down (h : s.host.up = false) : sendCredits s = s := by
  unfold sendCredits hostSend
  rw [h]
  rfl

/-- JOIN leaves after its record, with a quote. -/
theorem sendJoin_sends (h : Room s) :
    ∃ u quote, Reported 2 [] s u ∧ sendJoin s = sendControl u (reeves u) 0x01 0 0
      (leBytes 4 (cfgPlace u) ++ leBytes 1 u.mod.grade.toNat ++ leBytes 2 u.logicalCount ++ quote) := by
  have room : Room { (takeFree (takeFree s).2).2 with free := (takeFree (takeFree s).2).2.free + 1 } := h
  have taken : Reported 0 [] s { (takeFree (takeFree s).2).2 with free := (takeFree (takeFree s).2).2.free + 1 } :=
    ⟨by simp [takeFree], rfl, Nat.le_refl _⟩
  exact ⟨_, _, taken.trans (journalRaw_reported room 0x070C 0 0 0xFF _), rfl⟩

theorem nextControl_found {job : Nat} {e : Nat × Nat} (h : s.controlSeq.find? (fun e => e.1 == job) = some e) :
    nextControl s job = e.2 := by
  unfold nextControl
  rw [h]

theorem nextControl_stepControl (s : State) (job : Nat) : nextControl (stepControl s job) job = nextControl s job + 1 := by
  have gone : (s.controlSeq.filter (fun e => e.1 != job)).find? (fun e => e.1 == job) = none := by
    rw [List.find?_eq_none]
    intro e he
    simpa using (List.mem_filter.mp he).2
  exact nextControl_found (e := (job, nextControl s job + 1)) (by simp [stepControl, List.find?_append, gone])

/-- A message leaves, and its number is used. -/
theorem sendControl_told (s : State) (dst : List Nat) (msg job arg : Nat) (b : Bytes) :
    Told s (sendControl s dst msg job arg b) dst msg job arg b :=
  ⟨rfl, nextControl_stepControl s job⟩

/-- What a seal with the host link down comes to: the module ready, a message sent. -/
theorem sealStart_joins (hc : Calm s) (hstate : s.mod.state = .starting) (hstep : s.mod.startStep = 8)
    (hup : s.host.up = false) (hauto : cfgAutostart s = false) :
    ∃ u quote, Reported 4 [] (readied s) u ∧ sealStart s = sendControl u (reeves u) 0x01 0 0
      (leBytes 4 (cfgPlace u) ++ leBytes 1 u.mod.grade.toNat ++ leBytes 2 u.logicalCount ++ quote) := by
  have room : Room (readied s) := hc.room
  have calm : Calm (readied s) := hc
  have recorded : Reported 2 [] (readied s) (startRecorded (readied s)) := journalRaw_reported room ..
  obtain ⟨u, quote, rep, e⟩ := sendJoin_sends (calm.room_after recorded (by omega))
  have whole : Reported 4 [] (readied s) u := recorded.trans rep
  refine ⟨u, quote, whole, ?_⟩
  have down : (sendJoin (startRecorded (readied s))).host.up = false := by
    rw [e, sendControl_host, whole.1]
    exact hup
  have manual : cfgAutostart (sendJoin (startRecorded (readied s))) = false := by
    rw [e]
    show cfgAutostart u = false
    unfold cfgAutostart cfgNat
    rw [whole.1]
    exact hauto
  rw [sealStart_ready hstate hstep]
  dsimp only
  rw [sendCredits_down down, manual, ← e]
  rfl

/-- What a module that reports beside being ready still has. -/
theorem readied_reported {u : State} (h : Reported n [] (readied s) u) :
    u.mod = { s.mod with state := .ready, startStep := 10 } ∧ u.adm.capW = capStart s ∧ u.cfg = s.cfg ∧ u.plans = s.plans
      ∧ u.domain = ⟨false, false, cfgPrimary s, cfgStandby s⟩ ∧ u.cores = s.cores.map Core.leavePlain
      ∧ u.reeve.role = (if cfgPlace s = cfgPrimary s then 1 else if cfgPlace s = cfgStandby s then 2 else 0)
      ∧ u.logicalCount = s.logicalCount ∧ u.out = s.out ∧ u.controlSeq = s.controlSeq ∧ u.hbm = s.hbm ∧ u.bins = s.bins := by
  rw [h.1]
  exact ⟨rfl, rfl, rfl, rfl, rfl, rfl, rfl, rfl, List.append_nil _, rfl, rfl, rfl⟩

theorem leavePlain_sameMemory (hh : t.hbm = s.hbm) (hb : t.bins = s.bins) (hc : t.cores = s.cores.map Core.leavePlain) :
    SameMemory s t :=
  ⟨fun a => by rw [hh], fun c a => by rw [hc]; simp [Core.leavePlain], fun b a => by rw [hb]⟩

/-- What a message told is, as the module reports beside it. -/
theorem Told.noted {u v : State} {dst : List Nat} {msg job arg : Nat} {b : Bytes} (h : Told u v dst msg job arg b)
    (hout : u.out = s.out) (hseq : u.controlSeq = s.controlSeq) (hN : Noted v t) : Told s t dst msg job arg b := by
  obtain ⟨out, next⟩ := h
  have before : nextControl u job = nextControl s job := by unfold nextControl; rw [hseq]
  have after : nextControl t job = nextControl v job := by
    unfold nextControl
    rw [hN.1]
  exact ⟨by rw [hN.out, out, hout, before], by rw [after, next, before]⟩

end
end Sys2Proof.Machine

open Sys2Proof Sys2Proof.Machine

/-- Settles O54: a start that meets no failure reaches step 8 with the next START_COUNT and a core mapping of 512, 448 or 384,
every other start ends with a code of its table, and the seal makes the module READY and asks both reeves to join. -/
theorem startsAndSeals : Obligations.StartsAndSeals := by
  unfold Obligations.StartsAndSeals
  intro s started
  refine ⟨fun f hw hcode hfuse hdark => ?input, fun f hstate hcode => ?restored,
    fun hc hstate hstep hup hauto => ?sealed, fun hstate => ?refused⟩
  case input =>
    obtain ⟨input, power, reference, ends⟩ := inputValid_ends f hw hcode hfuse hdark
    refine ⟨inputValid s f, rfl, input, power, reference, fun hp hr => ?_⟩
    obtain ⟨ended, ⟨running, bell, -⟩, missing, unwritten⟩ := ends hp hr
    exact ⟨ended, running, bell, missing, unwritten⟩
  case restored =>
    obtain ⟨t, ht, ended, ⟨running, bell, -⟩, -, -⟩ := referenceRestored_ends f hstate hcode
    exact ⟨t, ht, ended, running, bell⟩
  case sealed =>
    obtain ⟨u, quote, rep, e⟩ := sealStart_joins hc hstate hstep hup hauto
    obtain ⟨mod, cap, cfg, plans, domain, cores, role, logical, out, seq, hbm, bins⟩ := readied_reported rep
    have place : cfgPlace u = cfgPlace s := by unfold cfgPlace cfgNat; rw [cfg]
    have both : reeves u = if cfgStandby s = cfgPrimary s then [cfgPrimary s] else [cfgPrimary s, cfgStandby s] := by
      unfold reeves
      rw [domain]
    have grade : u.mod.grade = s.mod.grade := by rw [mod]
    rw [place, both, grade, logical] at e
    have calm : Calm (readied s) := hc
    have room_u : Room u := calm.room_after rep (by omega)
    have room : Room (sealStart s) := by
      rw [e]
      exact room_u
    have hN := attend_noted { s with adm := { s.adm with capW := (sealStart s).adm.capW } } (sealStart s) room
    have told := sendControl_told u (if cfgStandby s = cfgPrimary s then [cfgPrimary s] else [cfgPrimary s, cfgStandby s])
      0x01 0 0 (leBytes 4 (cfgPlace s) ++ leBytes 1 s.mod.grade.toNat ++ leBytes 2 s.logicalCount ++ quote)
    rw [← e] at told
    have stays : (sealStart s).mod = u.mod ∧ (sealStart s).adm = u.adm ∧ (sealStart s).cfg = u.cfg
        ∧ (sealStart s).domain = u.domain ∧ (sealStart s).reeve = u.reeve ∧ (sealStart s).cores = u.cores
        ∧ (sealStart s).plans = u.plans ∧ (sealStart s).hbm = u.hbm ∧ (sealStart s).bins = u.bins := by
      rw [e]
      exact ⟨rfl, rfl, rfl, rfl, rfl, rfl, rfl, rfl, rfl⟩
    obtain ⟨mod', adm', cfg', domain', reeve', cores', plans', hbm', bins'⟩ := stays
    have memory : SameMemory s (sealStart s) :=
      leavePlain_sameMemory (hbm'.trans hbm) (bins'.trans bins) (cores'.trans cores)
    refine ⟨_, rfl, memory.trans hN.sameMemory, ?_, ?_, ?_, ?_, ?_, ?_, fun c => ?_, quote, told.noted out seq hN⟩
    · rw [hN.1]; exact mod'.trans mod
    · rw [hN.1]; exact (congrArg _ adm').trans cap
    · rw [hN.1]; exact cfg'.trans cfg
    · exact (hN.plans.trans plans').trans plans
    · rw [hN.1]; exact domain'.trans domain
    · rw [hN.1]; exact (congrArg _ reeve').trans role
    · rw [hN.cores, cores', cores]
      simp [Core.leavePlain]
  case refused =>
    have same : sealStart s = s := by
      unfold sealStart
      rw [if_pos (by simp [hstate])]
    refine ⟨s, ?_, rfl, rfl, rfl⟩
    show execSeal s = _
    unfold execSeal
    rw [same]
    exact congrArg _ (attend_self s)

end

section
/-! SUPPORT. The end of a window's zero fill (08 R185 orders 4 to 6), and why its statement needs HBM in canonical form. -/

namespace Sys2Proof.Machine
open Sys2Proof

/-- No autostart entry waits for the end of a fill. -/
theorem autoResume_idle {s : State} (h : s.autostart.stage ≤ 2) : autoResume s = s := by
  unfold autoResume
  rw [if_neg (by omega), if_neg (by simp; omega)]

/-- A window whose map-out is in flash is cleared, and the journal and autostart stay. -/
theorem mapOutFillEnd_clears {s : State} {w : Nat} (hw : w ∈ s.reforming) (hd : mapOutDue s w = false) :
    (mapOutFillEnd s w).hbm = memClear s.hbm (w * windowSpan) ((w + 1) * windowSpan)
      ∧ (mapOutFillEnd s w).journal = s.journal ∧ (mapOutFillEnd s w).autostart = s.autostart := by
  unfold mapOutFillEnd
  rw [if_pos (by simp [hw, hd])]
  exact ⟨rfl, rfl, rfl⟩

/-- All that MAP_OUT_FILL_END does to HBM is to clear its window. -/
theorem exec_mapOutFillEnd_hbm {s t : State} {w : Fin 4} (hc : Calm s) (hs : serving s = true)
    (hauto : s.autostart.stage ≤ 2) (hw : w.val ∈ s.reforming) (hd : mapOutDue s w = false)
    (ht : exec (.mapOutFillEnd w) s = .next t) :
    t.hbm = memClear s.hbm (w * windowSpan) ((w + 1) * windowSpan) := by
  obtain ⟨hbm, journal, auto⟩ := mapOutFillEnd_clears hw hd
  have body : autoResume (mapOutFillEnd s w) = mapOutFillEnd s w := autoResume_idle (by rw [auto]; exact hauto)
  have room : Room (mapOutFillEnd s w) := by
    unfold Room
    rw [journal]
    exact hc.room
  obtain ⟨t', ht', hN⟩ := happen_noted s (fun s => autoResume (mapOutFillEnd s w)) hs (by rw [body]; exact room)
  rw [body] at hN
  have same : t = t' := Host.Outcome.next.inj (ht.symm.trans ht')
  rw [same, hN.1]
  exact hbm

/-- A module in service at the end of window 1's zero fill. Its HBM is no list in canonical form: the cell of address 0
stands behind a cell of window 1, so that address 0 reads 0 until that cell is gone. -/
def disordered : State :=
  { State.reset with
    mod := { State.reset.mod with state := .ready }
    reforming := [1]
    hbm := [(windowSpan, 1), (0, 1)] }

theorem disordered_calm : Calm disordered := ⟨rfl, by decide⟩

/-- Clearing window 1 uncovers the byte of address 0, which lies in window 0. -/
theorem disordered_uncovers :
    memGet 0 disordered.hbm 0 = 0 ∧ memGet 0 (memClear disordered.hbm (1 * windowSpan) ((1 + 1) * windowSpan)) 0 = 1 := by
  decide

end Sys2Proof.Machine

open Sys2Proof Sys2Proof.Machine

/-- Refutes O51: nothing asks that HBM be in canonical form (`memWf 0 s.hbm`, a part of `Inv`), and where it is not, the
end of a window's zero fill can change what a byte of another window reads. -/
theorem not_memoryIsMaintained : ¬ Obligations.MemoryIsMaintained := by
  unfold Obligations.MemoryIsMaintained
  intro h
  have serves : serving disordered = true := rfl
  have auto : disordered.autostart.stage ≤ 2 := by decide
  have filling : (1 : Fin 4).val ∈ disordered.reforming := by decide
  have inFlash : mapOutDue disordered (1 : Fin 4) = false := rfl
  obtain ⟨-, -, -, -, -, fillEnds, -⟩ := h disordered disordered_calm serves
  obtain ⟨t, ht, -, -, -, -, reads, -⟩ := (fillEnds 1 auto).2 filling inFlash
  obtain ⟨covered, uncovered⟩ := disordered_uncovers
  have kept : memGet 0 t.hbm 0 = memGet 0 disordered.hbm 0 := reads 0
  rw [exec_mapOutFillEnd_hbm disordered_calm serves auto filling inFlash ht, covered] at kept
  exact absurd (uncovered.symm.trans kept) (by decide)

end

section
/-! SUPPORT. Votes at a node of a tree (09 R202-R204, R213; 13 R313), and the statement about them. -/

namespace Sys2Proof.Machine
open Sys2Proof

section
variable {s : State} {i : Fin 16} {p : Plan} {b : Bool} {src : Nat} {v w x : Vote} {n : TreeNode}

/-! ### The plan of a job, and its nodes -/

/-- The plan that a job is bound to is loaded, and its job id is the job's. -/
theorem planOfJob_some {job : Nat} (h : planOfJob s job = some (i, p)) : s.plans[i] = some p ∧ job ≠ 0 ∧ p.jobId = job := by
  obtain ⟨j, -, hj⟩ := List.exists_of_findSome?_eq_some h
  cases hq : s.plans[j] with
  | none => simp [hq] at hj
  | some q =>
    simp only [hq] at hj
    split at hj
    · next bound =>
      cases hj
      exact ⟨hq, bound⟩
    · cases hj

@[simp] theorem Plan.node_setNode (p : Plan) (b : Bool) (n : TreeNode) : (p.setNode b n).node b = n := by
  cases b <;> rfl

@[simp] theorem Plan.setNode_setNode (p : Plan) (b : Bool) (n m : TreeNode) : (p.setNode b n).setNode b m = p.setNode b m := by
  cases b <;> rfl

@[simp] theorem Plan.setNode_jobId (p : Plan) (b : Bool) (n : TreeNode) : (p.setNode b n).jobId = p.jobId := by
  cases b <;> rfl

@[simp] theorem Plan.setNode_twinStop (p : Plan) (b : Bool) (n : TreeNode) : (p.setNode b n).twinStop = p.twinStop := by
  cases b <;> rfl

theorem modPlan_some (f : Plan → Plan) (hp : s.plans[i] = some p) :
    s.modPlan i f = { s with plans := s.plans.set i (some (f p)) } := by
  simp only [State.modPlan, hp, Option.map_some]

/-! ### What a node forwards -/

theorem foldl_emit {α : Type} (o : α → Out) (l : List α) (s : State) :
    l.foldl (fun s a => s.emit (o a)) s = { s with out := s.out ++ l.map o } := by
  induction l generalizing s with
  | nil => simp
  | cons a l ih => rw [List.foldl_cons, ih]; simp [State.emit]

/-- The combination goes up to the node's parent. -/
theorem forwardVote_up {m : Nat} (hp : s.plans[i] = some (p.setNode b n)) (hm : n.parent = some m) (reopen : Nat) :
    forwardVote s i b x reopen = { s with
      plans := s.plans.set i (some (p.setNode b { n with sent := true })),
      out := s.out ++ [.vote b m (Vote.word p.jobId x) x.t0 x.t1] } := by
  unfold forwardVote
  rw [hp]
  dsimp only
  rw [Plan.node_setNode, Plan.setNode_jobId, hm]
  dsimp only
  rw [modPlan_some (p := p.setNode b n), Plan.setNode_setNode]
  · rfl
  · exact hp

/-- The combination goes down from a root as the result, which the root holds as its own. -/
theorem forwardVote_down (hp : s.plans[i] = some (p.setNode b n)) (hn : n.parent = none) (ht : p.twinStop = none) (reopen : Nat) :
    forwardVote s i b x reopen = { s with
      plans := s.plans.set i (some { p.setNode b { n with sent := true } with ownResult := some (x, reopen) }),
      out := s.out ++ n.children.map (fun m => .result b m (Vote.word p.jobId x) (BitVec.ofNat 64 reopen) x.t0 x.t1) } := by
  have result : resultOf (p.setNode b n) x reopen = (x, reopen) := by simp [resultOf, ht]
  unfold forwardVote
  rw [hp]
  dsimp only
  rw [Plan.node_setNode, Plan.setNode_jobId, hn, result]
  dsimp only
  rw [foldl_emit, modPlan_some (p := p.setNode b n), Plan.setNode_setNode]
  exact hp

/-- Of an early replay a node forwards the mismatch that it makes, and else the vote as it came (09 R204, R213). -/
theorem earlyForward_of {l : List Vote} (h : combineAll l = some w) : earlyForward l v = if w.cls = 0x1FFF then w else v := by
  unfold earlyForward
  rw [h]
  rfl

/-! ### A vote comes from a child -/

theorem exec_voteReceive (b : Bool) (src : Nat) (word : BitVec 64) (t0 t1 : Nat) (s : State) :
    exec (.voteReceive b src word (t0, t1)) s = happen s (fun s => voteReceive s b src word t0 t1) := rfl

section
variable {word : BitVec 64} {t0 t1 : Nat} (hj : planOfJob s (voteJob word) = some (i, p)) (ht : p.teardownCause = none)
  (hsrc : src ∈ (p.node b).children)
include hj ht hsrc

/-- A vote from a child in a plan that no teardown has reached is looked at. -/
theorem voteReceive_heard :
    voteReceive s b src word t0 t1 =
      let v := Vote.ofWord word t0 t1
      if voteAhead p v then s.modPlan i (fun q => { q with heldVotes := q.heldVotes ++ [(b, src, v)] })
      else if voteStale p v then s else nodeVote s i b src v := by
  have known : (p.teardownCause.isSome || !(p.node b).children.contains src) = false := by simp [ht, hsrc]
  unfold voteReceive
  rw [hj]
  dsimp only
  rw [known, if_neg Bool.false_ne_true]

/-- A vote of the next step waits for it. -/
theorem voteReceive_held (hstep : (Vote.ofWord word t0 t1).step = (p.step + 1) % 2 ^ 32) :
    voteReceive s b src word t0 t1 = { s with
      plans := s.plans.set i (some { p with heldVotes := p.heldVotes ++ [(b, src, Vote.ofWord word t0 t1)] }) } := by
  have ahead : voteAhead p (Vote.ofWord word t0 t1) = true := by simp [voteAhead, hstep]
  rw [voteReceive_heard hj ht hsrc]
  dsimp only
  rw [if_pos ahead]
  exact modPlan_some _ (planOfJob_some hj).1

/-- A vote of the open attempt reaches the node. -/
theorem voteReceive_open (_hlt : p.step < 2 ^ 32) (ho : p.stepOpen = true) (hstep : (Vote.ofWord word t0 t1).step = p.step)
    (hatt : (Vote.ofWord word t0 t1).attempt = p.attempt) :
    voteReceive s b src word t0 t1 = nodeVote s i b src (Vote.ofWord word t0 t1) := by
  have next : p.step ≠ (p.step + 1) % 4294967296 := by omega
  have present : voteAhead p (Vote.ofWord word t0 t1) = false := by simp [voteAhead, hstep, hatt, ho, next]
  have live : voteStale p (Vote.ofWord word t0 t1) = false := by simp [voteStale, hstep, hatt, ho, next.symm]
  rw [voteReceive_heard hj ht hsrc]
  dsimp only
  rw [present, live, if_neg Bool.false_ne_true, if_neg Bool.false_ne_true]

end

/-- The node once it has taken a vote. -/
def TreeNode.take (n : TreeNode) (src : Nat) (v : Vote) : TreeNode := { n with got := n.got ++ [(src, v)] }

section
variable (hp : s.plans[i] = some p) (hs : (p.node b).sent = false) (hg : ∀ g ∈ (p.node b).got, g.1 ≠ src)
include hp hs hg

/-- The state in which the node has taken the vote. -/
theorem nodeVote_takes : nodeVote s i b src v =
    let n := (p.node b).take src v
    let u := { s with plans := s.plans.set i (some (p.setNode b n)) }
    if v.replay && v.early then forwardVote u i b (earlyForward (n.got.map (·.2)) v) (s.bell + 50000)
    else if n.complete p.member then
      match combineAll (n.got.map (·.2)) with
      | some w => forwardVote u i b w 0
      | none => u
    else u := by
  have first : ((p.node b).got.any (fun g => g.1 == src)) = false := by simpa using hg
  unfold nodeVote
  simp only [hp, hs, first, TreeNode.take]
  rw [modPlan_some _ hp]
  rfl

/-- An early replay is forwarded at once. -/
theorem nodeVote_early (he : v.early = true) (hr : v.replay = true) (hw : combineAll ((p.node b).got.map (·.2) ++ [v]) = some w) :
    nodeVote s i b src v =
      forwardVote { s with plans := s.plans.set i (some (p.setNode b ((p.node b).take src v))) } i b
        (if w.cls = 0x1FFF then w else v) (s.bell + 50000) := by
  have taken : ((p.node b).take src v).got.map (·.2) = (p.node b).got.map (·.2) ++ [v] := by simp [TreeNode.take]
  rw [nodeVote_takes hp hs hg]
  simp only [taken, earlyForward_of hw, he, hr]
  rfl

/-- Another vote that is the node's last is forwarded in combination. -/
theorem nodeVote_complete (he : ¬ (v.early = true ∧ v.replay = true)) (hc : ((p.node b).take src v).complete p.member = true)
    (hw : combineAll ((p.node b).got.map (·.2) ++ [v]) = some w) :
    nodeVote s i b src v =
      forwardVote { s with plans := s.plans.set i (some (p.setNode b ((p.node b).take src v))) } i b w 0 := by
  have taken : ((p.node b).take src v).got.map (·.2) = (p.node b).got.map (·.2) ++ [v] := by simp [TreeNode.take]
  have waits : (v.replay && v.early) = false := by
    rw [Bool.and_comm, ← Bool.not_eq_true, Bool.and_eq_true]
    exact he
  rw [nodeVote_takes hp hs hg]
  simp only [waits, hc, taken, hw]
  rfl

end

/-- The last of an own vote and one child's completes a node. -/
theorem take_complete {own : Nat} (hc : n.children = [src]) (hg : n.got = [(own, w)]) : (n.take src v).complete own = true := by
  simp [TreeNode.complete, TreeNode.take, hc, hg]

end
end Sys2Proof.Machine

open Sys2Proof Sys2Proof.Machine

/-- Settles O46: a vote of the next step is held (`voteReceive_held`); one of the open attempt reaches the node, which
forwards the combination of its last vote (`nodeVote_complete`) or an early replay at once (`nodeVote_early`), up or, from a
root, down (`forwardVote_up`, `forwardVote_down`). -/
theorem votesClimb : Obligations.VotesClimb := by
  unfold Obligations.VotesClimb
  intro s b src word t0 t1 i p v cmd hc hs hj ht hsrc
  obtain ⟨hp, -, -⟩ := planOfJob_some hj
  have happens (u : State) (hu : voteReceive s b src word t0 t1 = u) (hr : u.journal = s.journal) :
      ∃ t, exec cmd s = .next t ∧ Noted u t := by
    subst hu
    rw [exec_voteReceive]
    exact happen_noted s _ hs (by rw [Room, hr]; exact hc.room)
  refine ⟨fun hstep => ?held, fun hlt ho hstep hatt hsent =>
    ⟨fun w m hchild hgot hne hm he => ?climb, fun hg he hr u hu => ?early⟩⟩
  case held => exact happens _ (voteReceive_held hj ht hsrc hstep) rfl
  case climb =>
    have first : ∀ g ∈ (p.node b).got, g.1 ≠ src := by simpa [hgot] using hne.symm
    have both : combineAll ((p.node b).got.map (·.2) ++ [v]) = some (Vote.combine w v) := by simp [hgot, combineAll]
    intro lane
    refine happens _ ?_ rfl
    rw [voteReceive_open hj ht hsrc hlt ho hstep hatt,
      nodeVote_complete hp hsent first he (take_complete hchild hgot) both,
      forwardVote_up (p := p) (n := (p.node b).take src v) (by simp) hm]
    simp [TreeNode.take, hgot, Vote.combine, lane, Vote.word, tallyP, clsMismatch]
  case early =>
    intro x
    refine ⟨fun m hm => ?up, fun hn htw => ?down⟩
    case up =>
      refine happens _ ?_ rfl
      rw [voteReceive_open hj ht hsrc hlt ho hstep hatt, nodeVote_early hp hsent hg he hr hu,
        forwardVote_up (p := p) (n := (p.node b).take src v) (by simp) hm]
      simp [TreeNode.take, x, v]
    case down =>
      refine happens _ ?_ rfl
      rw [voteReceive_open hj ht hsrc hlt ho hstep hatt, nodeVote_early hp hsent hg he hr hu,
        forwardVote_down (p := p) (n := (p.node b).take src v) (by simp) hn htw]
      simp [TreeNode.take, x, v]

end

section
/-! SUPPORT. What changes the step and the attempt of a loaded plan's job: nothing but a launch, the open of an attempt and a
commit (09 R198). One lemma for each other operation that a launch, a result or a reopening takes on its way. -/

namespace Sys2Proof.Machine
open Sys2Proof

/-- Plan `i` of `l` holds a job that stands at a step and an attempt. -/
def AtStep (i : Fin 16) (job step att : Nat) (l : Vector (Option Plan) 16) : Prop :=
  ∃ q, l[i] = some q ∧ q.jobId = job ∧ q.step = step ∧ q.attempt = att

/-- From the plans `l` to the plans `m` the job of plan `i` keeps its place, step and attempt. -/
structure KeepsStep (i : Fin 16) (l m : Vector (Option Plan) 16) : Prop where
  atStep : ∀ job step att, job ≠ 0 → AtStep i job step att l → AtStep i job step att m

/-- An entry changes in other places than its job, step and attempt. -/
def KeepsEntry (f : Plan → Plan) : Prop := ∀ q, (f q).jobId = q.jobId ∧ (f q).step = q.step ∧ (f q).attempt = q.attempt

section
variable {i : Fin 16} {c : CoreId} {s t u : State} {l m n : Vector (Option Plan) 16} {job step att : Nat}

/-! ### The relation -/

theorem keepsStep_refl (l : Vector (Option Plan) 16) : KeepsStep i l l := ⟨fun _ _ _ _ h => h⟩

theorem KeepsStep.trans (h : KeepsStep i l m) (h' : KeepsStep i m n) : KeepsStep i l n :=
  ⟨fun job step att hj hs => h'.atStep job step att hj (h.atStep job step att hj hs)⟩

theorem keepsStep_foldl {α : Type} {f : State → α → State} (hf : ∀ s a, KeepsStep i s.plans (f s a).plans) (as : List α)
    (s : State) : KeepsStep i s.plans (as.foldl f s).plans := by
  induction as generalizing s with
  | nil => exact keepsStep_refl _
  | cons a as ih => exact (hf s a).trans (ih (f s a))

/-- A stage that is taken only where a test asks for it. -/
theorem KeepsStep.ite {c : Prop} [Decidable c] (h : KeepsStep i l t.plans) (h' : KeepsStep i t.plans u.plans) :
    KeepsStep i l (if c then u else t).plans := by
  split
  · exact h.trans h'
  · exact h

theorem modPlan_at_self {f : Plan → Plan} {q : Plan} (hq : s.plans[i] = some q) : (s.modPlan i f).plans[i] = some (f q) := by
  simp [hq]

theorem modPlan_keeps (s : State) (j : Fin 16) {f : Plan → Plan} (hf : KeepsEntry f) :
    KeepsStep i s.plans (s.modPlan j f).plans := by
  refine ⟨?_⟩
  rintro job step att - ⟨q, hq, hjob, hstep, hatt⟩
  by_cases h : j = i
  · subst h
    obtain ⟨fjob, fstep, fatt⟩ := hf q
    exact ⟨f q, modPlan_at_self hq, fjob.trans hjob, fstep.trans hstep, fatt.trans hatt⟩
  · have apart : j.val ≠ i.val := fun e => h (Fin.ext e)
    exact ⟨q, by simpa [apart] using hq, hjob, hstep, hatt⟩

theorem setNode_keeps (b : Bool) (n : TreeNode) : KeepsEntry (fun q => q.setNode b n) := by
  intro q
  cases b <;> exact ⟨rfl, rfl, rfl⟩

/-- A write changes of a plan its tallies alone. -/
theorem Wrote.keeps (h : Wrote s t) : KeepsStep i s.plans t.plans := by
  obtain ⟨-, -, -, plans, -⟩ := h
  obtain ⟨f, hf⟩ := plans i
  refine ⟨?_⟩
  rintro job step att - ⟨q, hq, fields⟩
  exact ⟨{ q with tallies := f q }, by rw [hf, hq]; rfl, fields⟩

/-! ### The journal, and the fence of a job -/

theorem journalAppend_plans (s : State) (type job member plan : Nat) (b : Bytes) :
    (journalAppend s type job member plan b).plans = s.plans := by
  obtain ⟨r, c, ch, cps, f, e⟩ := journalAppend_spec s type job member plan b
  rw [e]

theorem fenceJob_keeps (s : State) (j : Fin 16) (cause : Nat) : KeepsStep i s.plans (fenceJob s j cause).plans := by
  unfold fenceJob
  split
  · exact keepsStep_refl _
  · split
    · exact keepsStep_refl _
    · exact modPlan_keeps (stopUnits (s.modPlanCores j Core.stop) j) j fun _ => ⟨rfl, rfl, rfl⟩

theorem journalTeardown_keeps (s : State) : KeepsStep i s.plans (journalTeardown s).plans := by
  refine keepsStep_foldl (fun s j => ?_) _ s
  split
  · next p _ =>
    split
    · exact keepsStep_refl _
    · exact fenceJob_keeps (sendControl s (reeves s) 0x20 p.jobId 0x1008 []) j 0x1008
  · exact keepsStep_refl _

theorem journalModes_keeps (s : State) : KeepsStep i s.plans (journalModes s).plans := by
  unfold journalModes
  dsimp only
  split
  · exact keepsStep_refl _
  · split
    · refine .trans ?_ (journalTeardown_keeps _)
      rw [journalAppend_plans]
      exact keepsStep_refl _
    · rw [journalAppend_plans]
      exact keepsStep_refl _

theorem journalRaw_keeps (s : State) (type job member plan : Nat) (b : Bytes) :
    KeepsStep i s.plans (journalRaw s type job member plan b).plans := by
  unfold journalRaw
  refine .trans ?_ (journalModes_keeps _)
  split
  · rw [journalAppend_plans, journalAppend_plans]
    exact keepsStep_refl _
  · rw [journalAppend_plans]
    exact keepsStep_refl _

theorem journalPlan_keeps (s : State) (j : Fin 16) (type : Nat) (b : Bytes) :
    KeepsStep i s.plans (journalPlan s j type b).plans := by
  unfold journalPlan
  split <;> exact journalRaw_keeps ..

theorem journalOpt_keeps (s : State) (j : Option (Fin 16)) (type : Nat) (b : Bytes) :
    KeepsStep i s.plans (journalOpt s j type b).plans := by
  unfold journalOpt
  split
  · exact journalPlan_keeps ..
  · exact journalRaw_keeps ..

theorem jobFault_keeps (s : State) (j : Fin 16) (status planCore : Nat) (r : FaultRec) :
    KeepsStep i s.plans (jobFault s j status planCore r).plans := by
  unfold jobFault
  split
  · exact keepsStep_refl _
  · split
    · exact keepsStep_refl _
    · refine .trans ?_ (fenceJob_keeps _ j status)
      split <;> exact journalPlan_keeps ..

/-! ### Votes -/

theorem forwardVote_keeps (s : State) (j : Fin 16) (b : Bool) (v : Vote) (reopen : Nat) :
    KeepsStep i s.plans (forwardVote s j b v reopen).plans := by
  unfold forwardVote
  split
  · exact keepsStep_refl _
  · next p _ =>
    dsimp only
    split
    · next m _ => exact modPlan_keeps (s.emit (.vote b m (Vote.word p.jobId v) v.t0 v.t1)) j (setNode_keeps b _)
    · refine .trans ?_ (modPlan_keeps _ j fun q => ?_)
      · refine keepsStep_foldl (fun s m => ?_) _ s
        exact keepsStep_refl _
      · exact setNode_keeps b _ q

theorem nodeVote_keeps (s : State) (j : Fin 16) (b : Bool) (src : Nat) (v : Vote) :
    KeepsStep i s.plans (nodeVote s j b src v).plans := by
  unfold nodeVote
  split
  · exact keepsStep_refl _
  · next p _ =>
    have taken := modPlan_keeps (i := i) s j (setNode_keeps b { p.node b with got := (p.node b).got ++ [(src, v)] })
    dsimp only
    split
    · exact keepsStep_refl _
    · split
      · exact taken.trans (forwardVote_keeps ..)
      · split
        · split
          · exact taken.trans (forwardVote_keeps ..)
          · exact taken
        · exact taken

theorem sendModuleVote_keeps (s : State) (j : Fin 16) (v : Vote) : KeepsStep i s.plans (sendModuleVote s j v).plans := by
  unfold sendModuleVote
  split
  · exact keepsStep_refl _
  · have sent := modPlan_keeps (i := i) s j (f := fun q => { q with voteSent := true, earlySent := q.earlySent || v.early })
      fun _ => ⟨rfl, rfl, rfl⟩
    dsimp only
    split
    · exact sent.trans (modPlan_keeps _ j fun _ => ⟨rfl, rfl, rfl⟩)
    · exact sent.trans ((nodeVote_keeps ..).trans (nodeVote_keeps ..))

theorem earlyVote_keeps (s : State) (j : Fin 16) (status : Nat) : KeepsStep i s.plans (earlyVote s j status).plans := by
  unfold earlyVote
  split
  · exact keepsStep_refl _
  · split
    · refine .trans ?_ (sendModuleVote_keeps ..)
      exact modPlan_keeps s j fun _ => ⟨rfl, rfl, rfl⟩
    · exact keepsStep_refl _

theorem abandonStep_keeps (s : State) (j : Fin 16) (status : Nat) (r : FaultRec) (planCore : Nat) :
    KeepsStep i s.plans (abandonStep s j status r planCore).plans := by
  unfold abandonStep
  split
  · exact keepsStep_refl _
  · split
    · exact (journalPlan_keeps ..).trans (jobFault_keeps ..)
    · exact earlyVote_keeps ..

/-! ### Plans that leave -/

/-- A plan without a job leaves; the plan of a job is not it. -/
theorem freePlan_keeps {j : Fin 16} {p : Plan} (hp : s.plans[j] = some p) (h0 : p.jobId = 0) (cause : Nat) :
    KeepsStep i s.plans (freePlan s j cause).plans := by
  refine ⟨fun job step att hjob hs => ?_⟩
  have apart : j.val ≠ i.val := by
    intro e
    obtain rfl := Fin.ext e
    obtain ⟨q, hq, rfl, -⟩ := hs
    rw [hp] at hq
    cases hq
    exact hjob h0
  have recorded : AtStep i job step att
      (journalPlan (revokeJob s j p.jobId) j 0x0203 (leBytes 64 p.digest ++ leBytes 2 cause)).plans :=
    (journalPlan_keeps (revokeJob s j p.jobId) j 0x0203 (leBytes 64 p.digest ++ leBytes 2 cause)).atStep job step att hjob hs
  obtain ⟨q, hq, fields⟩ := recorded
  unfold freePlan
  rw [hp]
  exact ⟨q, by simpa [apart] using hq, fields⟩

theorem dropPlan_keeps (s : State) (j : Fin 16) (cause : Nat) : KeepsStep i s.plans (dropPlan s j cause).plans := by
  unfold dropPlan
  split
  · exact keepsStep_refl _
  · next p hp =>
    split
    · next h0 => exact freePlan_keeps hp h0 cause
    · exact jobFault_keeps ..

theorem dropPlans_keeps (s : State) (pick : Plan → Bool) (cause : Nat) :
    KeepsStep i s.plans (dropPlans s pick cause).plans := by
  refine keepsStep_foldl (fun s j => ?_) _ s
  split
  · exact (keepsStep_refl _).ite (dropPlan_keeps s j cause)
  · exact keepsStep_refl _

/-! ### Cores that are fenced -/

theorem faultStop_keeps (s : State) (failCode rail phase amps : Nat) :
    KeepsStep i s.plans (faultStop s failCode rail phase amps).plans := by
  unfold faultStop
  split
  · exact keepsStep_refl _
  · split
    · exact keepsStep_refl _
    · dsimp only
      split
      · refine .trans ?_ (keepsStep_foldl (fun s k => ?_) _ _)
        · exact journalRaw_keeps s 0x0808 0 0 0xFF _
        · exact keepsStep_refl _
      · exact journalRaw_keeps s 0x0808 0 0 0xFF _

theorem stepDown_keeps (s : State) : KeepsStep i s.plans (stepDown s).plans := by
  have dropped : KeepsStep i s.plans ({ dropPlans s (fun _ => true) 0x5010 with subs := [] } : State).plans := by
    dsimp only
    exact dropPlans_keeps s _ _
  unfold stepDown
  generalize ({ dropPlans s (fun _ => true) 0x5010 with subs := [] } : State) = w at dropped ⊢
  dsimp only
  split
  · refine .trans ?_ (journalRaw_keeps ..)
    dsimp only [rebuildMap]
    exact dropped
  · exact dropped.trans (faultStop_keeps ..)

theorem passSlot_keeps (s : State) (d : Nat) (k : Fin 512) : KeepsStep i s.plans (passSlot s d k).plans := by
  unfold passSlot
  split
  · exact keepsStep_refl _
  · exact stepDown_keeps s

theorem cartCut_keeps (s : State) (c : Fin 32) : KeepsStep i s.plans (cartCut s c).plans := by
  unfold cartCut
  split
  · split
    · exact keepsStep_refl _
    · split
      · exact keepsStep_refl _
      · exact (writeCells_wrote _ _ _ _ (takeFree s).2).keeps
  · exact keepsStep_refl _

theorem cutCarts_keeps (s : State) (j : Fin 16) (pick : Nat → Bool) : KeepsStep i s.plans (cutCarts s j pick).plans := by
  refine keepsStep_foldl (fun s c => ?_) _ s
  split
  · dsimp only
    exact cartCut_keeps s c
  · exact keepsStep_refl _

theorem stopOwned_keeps (s : State) (j : Fin 16) (planCore : Nat) : KeepsStep i s.plans (stopOwned s j planCore).plans := by
  unfold stopOwned
  split
  · exact keepsStep_refl _
  · dsimp only
    exact cutCarts_keeps ..

theorem fenceSpare_keeps (s : State) (c : CoreId) : KeepsStep i s.plans (fenceSpare s c).plans := by
  unfold fenceSpare
  split
  · exact keepsStep_refl _
  · refine .trans ?_ (passSlot_keeps ..)
    exact dropPlan_keeps { s with subs := s.subs.filter (fun v => v.spare != c) } _ _

theorem fenceSlot_keeps (s : State) (c : CoreId) (k : Fin 512) (j : Option (Fin 16)) (cause : Nat) :
    KeepsStep i s.plans (fenceSlot s c k j cause).plans := by
  unfold fenceSlot
  split
  · exact passSlot_keeps ..
  · split
    · exact passSlot_keeps ..
    · split
      · exact passSlot_keeps ..
      · split
        · exact (dropPlan_keeps ..).trans (passSlot_keeps ..)
        · split
          · exact stepDown_keeps s
          · exact KeepsStep.ite (keepsStep_refl _) (abandonStep_keeps ..)

/-- The fence of a core for lost data is on record, and the units that it owned have stopped. -/
theorem fenceCore_lost (hu : usable s.coreMap[c] = true) : ∃ w b, KeepsStep i s.plans w.plans ∧ fenceCore s c 3 =
    let t := journalOpt (withdrawn w c) s.cores[c].plan 0x0801 b
    match s.coreMap[c] with
    | .mapped k => fenceSlot t c k s.cores[c].plan 3
    | _ => if t.subs.any (fun v => v.spare == c) then fenceSpare t c else if supports t t.logicalCount then t else stepDown t := by
  unfold fenceCore
  rw [if_neg (by rw [hu]; decide)]
  cases s.coreMap[c] with
  | mapped k =>
    cases s.cores[c].plan with
    | none => exact ⟨s, _, keepsStep_refl _, rfl⟩
    | some j => exact ⟨stopOwned s j s.cores[c].planCore, _, stopOwned_keeps .., rfl⟩
  | _ =>
    cases s.cores[c].plan <;> exact ⟨s, _, keepsStep_refl _, rfl⟩

theorem fenceCore_keeps (s : State) (c : CoreId) : KeepsStep i s.plans (fenceCore s c 3).plans := by
  by_cases hu : usable s.coreMap[c] = true
  · obtain ⟨w, b, kept, e⟩ := fenceCore_lost (i := i) hu
    have recorded : KeepsStep i s.plans (journalOpt (withdrawn w c) s.cores[c].plan 0x0801 b).plans := by
      refine .trans ?_ (journalOpt_keeps ..)
      exact kept
    rw [e]
    generalize journalOpt (withdrawn w c) s.cores[c].plan 0x0801 b = t at recorded ⊢
    dsimp only
    split
    · exact recorded.trans (fenceSlot_keeps ..)
    · split
      · exact recorded.trans (fenceSpare_keeps ..)
      · split
        · exact recorded
        · exact recorded.trans (stepDown_keeps t)
  · rw [fenceCore_out (by simpa using hu)]
    exact keepsStep_refl _

/-! ### Lost data -/

theorem sramLost_keeps (s : State) (c : CoreId) (off : Nat) (j : Option (Fin 16)) :
    KeepsStep i s.plans (sramLost s c off j).plans := by
  unfold sramLost
  dsimp only
  refine .ite ?_ (fenceCore_keeps _ c)
  rw [State.modCore_plans]
  exact journalOpt_keeps ..

theorem unitOut_keeps (s : State) (kind unit : Nat) (pick : Plan → Bool) (cause : Nat) :
    KeepsStep i s.plans (unitOut s kind unit pick cause).plans := by
  unfold unitOut
  refine .trans ?_ (journalRaw_keeps ..)
  dsimp only [addHealth]
  exact dropPlans_keeps s pick cause

theorem binOut_keeps (s : State) (b : Fin 512) : KeepsStep i s.plans (binOut s b).plans := by
  unfold binOut
  refine .trans ?_ (journalRaw_keeps ..)
  exact unitOut_keeps { s with bins := s.bins.set b { s.bins[b] with inService := false } } ..

theorem granaryLost_keeps (s : State) (b : Fin 512) (off : Nat) (patrol : Bool) (j : Option (Fin 16)) :
    KeepsStep i s.plans (granaryLost s b off patrol j).plans := by
  unfold granaryLost
  dsimp only
  refine .ite ?_ (binOut_keeps _ b)
  dsimp only
  exact journalOpt_keeps ..

theorem mapOut_keeps (s : State) (ch : Fin 256) (reason : Nat) : KeepsStep i s.plans (mapOut s ch reason).plans := by
  unfold mapOut
  split
  · exact keepsStep_refl _
  · dsimp only
    refine .trans ?_ (journalRaw_keeps ..)
    dsimp only [addHealth]
    refine .trans ?_ (dropPlans_keeps ..)
    exact keepsStep_refl _

theorem hbmLost_keeps (s : State) (key : Nat) (j : Option (Fin 16)) (rd : Reader) :
    KeepsStep i s.plans (hbmLost s key j rd).plans := by
  unfold hbmLost
  split
  · exact keepsStep_refl _
  · split
    · dsimp only
      split
      · exact keepsStep_refl _
      · refine .ite ?_ (mapOut_keeps ..)
        dsimp only [countChannel]
        split
        · exact journalPlan_keeps ..
        · exact journalRaw_keeps ..
    · exact keepsStep_refl _

theorem placeLost_keeps (s : State) (pl : Option Place) (j : Option (Fin 16)) (rd : Reader) :
    KeepsStep i s.plans (placeLost s pl j rd).plans := by
  unfold placeLost
  split
  · exact hbmLost_keeps ..
  · exact sramLost_keeps ..
  · exact granaryLost_keeps ..
  · exact keepsStep_refl _

/-! ### What is reported beside it -/

theorem attentionIf_plans (s : State) (p : Bool) (code detail : Nat) : (attentionIf s p code detail).plans = s.plans := by
  unfold attentionIf
  split <;> rfl

theorem attendPlan_plans (k : Nat) (o n : Option Plan) (s : State) : (attendPlan k o n s).plans = s.plans := by
  unfold attendPlan
  split
  · rfl
  · rfl
  · rfl
  · split
    · rfl
    · exact attentionIf_plans ..

theorem attend_keeps (old s : State) : KeepsStep i s.plans (attend old s).plans := by
  have same {v w : State} (h : w.plans = v.plans) : KeepsStep i v.plans w.plans := by
    rw [h]
    exact keepsStep_refl _
  unfold attend
  split
  · exact keepsStep_refl _
  · refine .trans ?_ (keepsStep_foldl (fun s p => same (attentionIf_plans ..)) _ _)
    rw [attentionIf_plans, attentionIf_plans]
    refine .trans ?_ (keepsStep_foldl (fun s k => same (attendPlan_plans ..)) _ _)
    refine .trans ?_ (keepsStep_foldl (fun s k => same (attentionIf_plans ..)) _ _)
    refine .trans ?_ (keepsStep_foldl (fun s f => same (attentionIf_plans ..)) _ _)
    rw [attentionIf_plans, attentionIf_plans]
    exact KeepsStep.ite (keepsStep_refl _) (journalRaw_keeps ..)

/-- An event of a module in service that leaves a job at a step. -/
theorem happen_atStep {body : State → State} (hs : serving s = true) (hj : job ≠ 0) (h : AtStep i job step att (body s).plans) :
    ∃ t q, happen s body = .next t ∧ t.plans[i] = some q ∧ q.step = step ∧ q.attempt = att := by
  obtain ⟨q, hq, -, hstep, hatt⟩ := (attend_keeps s (body s)).atStep job step att hj h
  exact ⟨attend s (body s), q, by rw [happen, hs, if_pos rfl], hq, hstep, hatt⟩

/-! ### The open of an attempt -/

theorem replayHeld_keeps (s : State) (j : Fin 16) (step att : Nat) :
    KeepsStep i s.plans (replayHeld s j step att).plans := by
  unfold replayHeld
  split
  · exact keepsStep_refl _
  · refine .trans ?_ (keepsStep_foldl (fun s e => nodeVote_keeps ..) _ _)
    exact modPlan_keeps s j fun _ => ⟨rfl, rfl, rfl⟩

theorem parkFenced_plans (s : State) (j : Fin 16) : (parkFenced s j).plans = s.plans := by dsimp only [parkFenced]

/-- An attempt opens at the job's step (09 R198). -/
theorem openAttempt_atStep (hj : job ≠ 0) (h : AtStep i job step att s.plans) (n : Nat) :
    AtStep i job step n (openAttempt s i n).plans := by
  obtain ⟨p, hp, hjob, hstep, -⟩ := h
  unfold openAttempt
  rw [hp]
  dsimp only
  refine (replayHeld_keeps ..).atStep _ _ _ hj ?_
  refine (KeepsStep.ite (keepsStep_refl _) (abandonStep_keeps ..)).atStep _ _ _ hj ?_
  dsimp only
  refine ⟨_, modPlan_at_self (q := p) ?_, hjob, hstep, rfl⟩
  rw [State.modPlanCores_plans, parkFenced_plans, State.modPlanCores_plans]
  exact hp

/-! ### A launch (13 R306) -/

theorem moduleWrite_keeps (s : State) (j : Fin 16) (a : Nat) (bs : Bytes) :
    KeepsStep i s.plans (moduleWrite s j a bs).plans := by
  refine keepsStep_foldl (fun s e => ?_) _ s
  split
  · next h => exact (planWrite_wrote h).keeps
  · exact placeLost_keeps ..

theorem writeInputs_keeps (s : State) (j : Fin 16) (p : Plan) (n k : Nat) (v : Service) :
    KeepsStep i s.plans (writeInputs s j p n k v).plans := by
  refine keepsStep_foldl (fun s e => ?_) _ s
  split
  · exact KeepsStep.ite (keepsStep_refl _) (moduleWrite_keeps ..)
  · exact moduleWrite_keeps ..

theorem bindSeqs_keeps (s : State) (j : Fin 16) (n k : Nat) (v : Service) :
    KeepsStep i s.plans (bindSeqs s j n k v).plans := by
  unfold bindSeqs
  split
  · exact keepsStep_refl _
  · split
    · exact keepsStep_refl _
    · refine .trans ?_ (modPlan_keeps _ j fun _ => ⟨rfl, rfl, rfl⟩)
      exact keepsStep_refl _

/-- A slot opens with attempt 0 of the job's step. -/
theorem startSlot_atStep (hj : job ≠ 0) (h : AtStep i job step 0 s.plans) (n k : Nat) (v : Service) :
    AtStep i job step 0 (startSlot s i n k v).plans := by
  unfold startSlot
  dsimp only
  have bound : AtStep i job step 0 _ := ((modPlan_keeps s i (f := fun q =>
    let q := takeDeferred q v n k
    { q with nextSlot := q.nextSlot.set n (k + 1), widen := 0, widenCkpt := 0, raised := [], slotWidened := false,
             runs := q.runs ++ [⟨n, k, false, slotEnd q v k, false, []⟩] }) fun _ => ⟨rfl, rfl, rfl⟩).trans
      (bindSeqs_keeps _ i n k v)).atStep _ _ _ hj h
  split
  · exact bound
  · refine openAttempt_atStep (att := 0) hj ?_ 0
    rw [State.modPlanCores_plans]
    exact (writeInputs_keeps ..).atStep _ _ _ hj bound

theorem slotOpen_atStep (hj : job ≠ 0) (h : AtStep i job step 0 s.plans) : AtStep i job step 0 (slotOpen s i).plans := by
  unfold slotOpen
  split
  · exact h
  · split
    · exact startSlot_atStep hj h ..
    · exact h

theorem launch_atStep {p : Plan} {b : Bell} (hp : s.plans[i] = some p) (hj : p.jobId ≠ 0) (ha : p.jobState = .armed)
    (hg : p.goHeld = true) (hl : p.launchBell = some b) (hb : b ≤ s.bell) : AtStep i p.jobId 0 0 (launch s i).plans := by
  unfold launch
  rw [hp]
  dsimp only
  rw [hl]
  dsimp only
  rw [if_pos ⟨ha, hg, hb⟩, toReeve, answerControl_plans]
  exact slotOpen_atStep hj ⟨_, modPlan_at_self hp, rfl, rfl, rfl⟩

/-! ### The release of a slot's replies -/

theorem readLanes_keeps (s : State) (j : Fin 16) (v : Service) (k : Nat) (rs : List Req) :
    KeepsStep i s.plans (readLanes s j v k rs).2.plans := by
  induction rs generalizing s with
  | nil => exact keepsStep_refl _
  | cons r rs ih =>
    have one : KeepsStep i s.plans (readLane s j v k r).2.plans := by
      unfold readLane
      split
      · exact keepsStep_refl _
      · exact placeLost_keeps ..
    exact one.trans (ih _)

theorem requestReply_plans (s : State) (ring session tag code a b c : Nat) (rest : Bytes) :
    (requestReply s ring session tag code a b c rest).plans = s.plans := by
  have counted (u : State) : (countRefusal u code).plans = u.plans := by
    unfold countRefusal
    split <;> rfl
  unfold requestReply hostSend
  rw [counted]
  split
  · rfl
  · split
    · rfl
    · split <;> rfl

theorem dropReleased_keeps (s : State) (j : Fin 16) (v : Service) (n k : Nat) :
    KeepsStep i s.plans (dropReleased s j v n k).plans := by
  unfold dropReleased
  split
  · exact keepsStep_refl _
  · dsimp only
    exact modPlan_keeps s j fun _ => ⟨rfl, rfl, rfl⟩

theorem releaseSlot_keeps (s : State) (j : Fin 16) (r : SlotRun) (late : Bool) :
    KeepsStep i s.plans (releaseSlot s j r late).plans := by
  unfold releaseSlot
  split
  · exact keepsStep_refl _
  · split
    · exact keepsStep_refl _
    · dsimp only
      split
      · refine .trans ?_ (dropReleased_keeps ..)
        exact KeepsStep.ite (keepsStep_refl _) (journalPlan_keeps ..)
      · refine .trans ?_ (dropReleased_keeps ..)
        refine .ite ?_ (journalPlan_keeps ..)
        refine .ite ?_ (keepsStep_refl _)
        refine .trans ?_ (keepsStep_foldl (fun s e => ?_) _ _)
        · exact KeepsStep.ite (readLanes_keeps ..) (journalPlan_keeps ..)
        · split <;> rw [requestReply_plans] <;> exact keepsStep_refl _

theorem endSlot_keeps (s : State) (j : Fin 16) : KeepsStep i s.plans (endSlot s j).plans := by
  unfold endSlot
  split
  · exact keepsStep_refl _
  · split
    · exact keepsStep_refl _
    · split
      · exact keepsStep_refl _
      · dsimp only
        split
        · refine .trans ?_ (releaseSlot_keeps ..)
          exact modPlan_keeps s j fun _ => ⟨rfl, rfl, rfl⟩
        · refine .ite ?_ (releaseSlot_keeps ..)
          exact modPlan_keeps s j fun _ => ⟨rfl, rfl, rfl⟩

/-! ### A commit (09 R205) -/

theorem journalWidened_keeps (s : State) (j : Fin 16) (p : Plan) : KeepsStep i s.plans (journalWidened s j p).plans := by
  unfold journalWidened
  exact KeepsStep.ite (keepsStep_refl _) (journalPlan_keeps ..)

theorem journalRatios_keeps (s : State) (j : Fin 16) (p : Plan) (ks : List Core) (found : List (RatioEntry × Nat × Nat)) :
    KeepsStep i s.plans (journalRatios s j p ks found).plans := by
  unfold journalRatios
  refine .trans ?_ (keepsStep_foldl (fun s f => journalPlan_keeps ..) _ _)
  exact keepsStep_foldl (fun s k => journalPlan_keeps ..) _ s

theorem reportTally_plans (s : State) (p : Plan) (v : Vote) : (reportTally s p v).plans = s.plans := by
  unfold reportTally
  split <;> rfl

/-- The job goes on to attempt 0 of its next step. -/
theorem nextStep_atStep (h : AtStep i job step att s.plans) : AtStep i job ((step + 1) % 2 ^ 32) 0 (nextStep s i).plans := by
  obtain ⟨p, hp, hjob, rfl, -⟩ := h
  exact ⟨_, modPlan_at_self (s := { s with colls := s.colls.filter (fun k => k.plan != i) }) hp, hjob, rfl, rfl⟩

/-- What follows when a commit is recorded: the slot ends with its cores' programs, a finding that is a job fault stops the
job, and the next step opens. -/
def passStep (w : State) (i : Fin 16) (stops : Bool) : State :=
  let ends := (planCores w i).all (fun k => k.run == .idle)
  let w := if ends then endSlot w i else w
  let w := nextStep (if stops then jobFault w i 0x500E 0 FaultRec.reset else w) i
  match w.plans[i] with
  | some q => if ends || q.teardownCause.isSome then w else openAttempt w i 0
  | none => w

theorem recorded_keeps (l : Plan → List TallyRec) (r : Plan → List Req) : KeepsEntry (fun q => q.recorded (l q) (r q)) :=
  fun _ => ⟨rfl, rfl, rfl⟩

theorem commitStep_stages {p : Plan} (hp : s.plans[i] = some p) (v : Vote) :
    ∃ w stops, KeepsStep i s.plans w.plans ∧ commitStep s i v = passStep w i stops := by
  have told : KeepsStep i s.plans
      (reportTally (journalRatios (journalWidened s i p) i p (planCores s i) (ratioFindings p (planCores s i))) p v).plans := by
    rw [reportTally_plans]
    exact (journalWidened_keeps ..).trans (journalRatios_keeps ..)
  refine ⟨(((reportTally (journalRatios (journalWidened s i p) i p (planCores s i) (ratioFindings p (planCores s i))) p v
      ).modPlanCores i Core.commitStep).modSlots i SeqSlot.commitStep).modPlan i
      (fun q => q.recorded (addHistory q.history (tallyEntries q)) (q.requests.map (Req.stepDone p))),
    (ratioFindings p (planCores s i)).any (fun f => f.1.jobFault), ?_, ?_⟩
  · refine .trans ?_ (modPlan_keeps _ i (recorded_keeps _ _))
    dsimp only [State.modSlots, State.modPlanCores]
    exact told
  · unfold commitStep
    rw [hp]
    rfl

theorem passStep_atStep (hj : job ≠ 0) (h : AtStep i job step att s.plans) (stops : Bool) :
    AtStep i job ((step + 1) % 2 ^ 32) 0 (passStep s i stops).plans := by
  have before (e : Bool) : KeepsStep i s.plans (if stops then jobFault (if e then endSlot s i else s) i 0x500E 0 FaultRec.reset
      else if e then endSlot s i else s).plans :=
    ((keepsStep_refl _).ite (endSlot_keeps ..)).ite (jobFault_keeps ..)
  unfold passStep
  generalize (planCores s i).all (fun k => k.run == .idle) = e
  have next := nextStep_atStep ((before e).atStep _ _ _ hj h)
  dsimp only
  split
  · split
    · exact next
    · exact openAttempt_atStep hj next 0
  · exact next

/-- A commit is followed by attempt 0 of the next step. -/
theorem commitStep_atStep (hj : job ≠ 0) (h : AtStep i job step att s.plans) (v : Vote) :
    AtStep i job ((step + 1) % 2 ^ 32) 0 (commitStep s i v).plans := by
  have ⟨p, hp, _⟩ := h
  obtain ⟨w, stops, kept, e⟩ := commitStep_stages hp v
  rw [e]
  exact passStep_atStep hj (kept.atStep _ _ _ hj h) stops

/-! ### A replay (09 R205, R211) -/

theorem journalReplayed_keeps (s : State) (j : Fin 16) (p : Plan) (early : Bool) :
    KeepsStep i s.plans (journalReplayed s j p early).plans := by
  obtain ⟨u, b, hu, e⟩ : ∃ u b, u.plans = s.plans ∧ journalReplayed s j p early = journalPlan u j 0x0401 b := by
    unfold journalReplayed
    cases firstVoter p with
    | none => exact ⟨(takeFree (takeFree s).2).2, _, rfl, rfl⟩
    | some m =>
      by_cases hm : m = p.member
      · simp only [hm, if_true]
        exact ⟨s, _, rfl, rfl⟩
      · simp only [Option.some.injEq, hm, if_false]
        exact ⟨(takeFree s).2, _, rfl, rfl⟩
  rw [e, ← hu]
  exact journalPlan_keeps ..

theorem raiseWidths_keeps (s : State) (j : Fin 16) : KeepsStep i s.plans (raiseWidths s j).plans := by
  unfold raiseWidths
  split
  · exact keepsStep_refl _
  · exact modPlan_keeps s j fun _ => ⟨rfl, rfl, rfl⟩

/-- Attempt 1 opens at the job's step. -/
theorem reopen_atStep (hj : job ≠ 0) (h : AtStep i job step att s.plans) : AtStep i job step 1 (reopen s i).plans := by
  unfold reopen
  refine openAttempt_atStep (att := att) hj ((raiseWidths_keeps ..).atStep _ _ _ hj ?_) 1
  exact h

theorem replayLimit_keeps (s : State) (j : Fin 16) (p : Plan) : KeepsStep i s.plans (replayLimit s j p).plans := by
  unfold replayLimit
  exact (journalPlan_keeps ..).trans (jobFault_keeps ..)

/-- A replay keeps the step; the first one that is not early opens attempt 1. -/
theorem replayStep_atStep {p : Plan} (hp : s.plans[i] = some p) (hj : p.jobId ≠ 0) (v : Vote) (bell : Bell) :
    ∃ att, AtStep i p.jobId p.step att (replayStep s i v bell).plans
      ∧ (p.attempt = 0 → v.early = false → (∀ r ∈ p.requests, charged p r = true → r.replays = 0) → att = 1) := by
  have here : AtStep i p.jobId p.step p.attempt s.plans := ⟨p, hp, rfl, rfl, rfl⟩
  unfold replayStep
  rw [hp]
  dsimp only
  split
  · next limit =>
    refine ⟨p.attempt, (replayLimit_keeps ..).atStep _ _ _ hj here, fun ha _ hr => ?_⟩
    simp only [ha, Bool.or_eq_true, List.any_eq_true, Bool.and_eq_true, decide_eq_true_eq] at limit
    obtain h | ⟨r, hmem, hc, hn⟩ := limit
    · cases h
    · have := hr r hmem hc
      omega
  · have recorded (f : Plan → Plan) (hf : KeepsEntry f) :
        AtStep i p.jobId p.step p.attempt ((journalReplayed s i p v.early).modPlan i f).plans :=
      ((journalReplayed_keeps ..).trans (modPlan_keeps _ i hf)).atStep _ _ _ hj here
    split
    · next he =>
      refine ⟨p.attempt, KeepsStep.atStep ?_ _ _ _ hj (recorded (fun q => { q with
        widen := q.widenCkpt,
        requests := p.requests.map (fun (r : Req) => if charged p r then { r with replays := r.replays + 1 } else r) })
        fun _ => ⟨rfl, rfl, rfl⟩), fun _ hne => absurd he (by simp [hne])⟩
      refine .trans ?_ (modPlan_keeps _ i fun _ => ⟨rfl, rfl, rfl⟩)
      rw [State.modPlanCores_plans]
      dsimp only
      refine .trans ?_ (cutCarts_keeps ..)
      dsimp only
      exact keepsStep_refl _
    · exact ⟨1, reopen_atStep hj (recorded _ fun _ => ⟨rfl, rfl, rfl⟩), fun _ _ _ => rfl⟩

/-! ### Results (09 R202-R205) -/

section
variable {p : Plan} {b : Bool} {word reopen : BitVec 64} {t0 t1 : Nat}

/-- A result of the open attempt reaches a state that holds the same plan. -/
theorem harvestResult_reaches (hj : planOfJob s (voteJob word) = some (i, p))
    (hown : (p.node b).parent = none → isOwnResult p word reopen t0 t1 = true) :
    ∃ u, u.plans[i] = some p
      ∧ harvestResult (freezeLatch s) b word reopen t0 t1 = applyResult u i (Vote.ofWord word t0 t1) reopen.toNat := by
  obtain ⟨u, hu, e⟩ := harvestResult_applies hj hown
  exact ⟨u, by rw [hu.plans]; exact (planOfJob_some hj).1, e⟩

end

/-! ### The commands -/

theorem exec_launch (i : Fin 16) (s : State) : exec (.launch i) s = happen s (fun s => launch s i) := rfl

/-- A reopening that nothing holds back. -/
theorem attemptReopen_due {p : Plan} {b : Bell} (hp : s.plans[i] = some p) (hb : p.reopenBell = some b) (hle : b ≤ s.bell)
    (ht : p.teardownCause = none) (hsubs : ∀ v ∈ s.subs, v.plan ≠ i)
    (hk : ∀ k ∈ planCores s i, k.moves = [] ∧ k.copies = []) : attemptReopen s i = reopen s i := by
  have free : s.subs.any (fun v => v.plan == i) = false := by simpa using hsubs
  have done : (planCores s i).any (fun k => !k.moves.isEmpty || !k.copies.isEmpty) = false := by
    refine List.any_eq_false.mpr (fun k hmem => ?_)
    obtain ⟨moves, copies⟩ := hk k hmem
    rw [moves, copies]
    decide
  simp [attemptReopen, hp, hb, hle, ht, free, done]

end
end Sys2Proof.Machine

open Sys2Proof Sys2Proof.Machine

/-- Settles O47: a launch, a commit and the open of an attempt set step and attempt (`launch_atStep`, `commitStep_atStep`,
`openAttempt_atStep`), and whatever else these commands bring about, lost data and a job fault included, keeps them
(`KeepsStep`). -/
theorem stepNumbers : Obligations.StepNumbers := by
  unfold Obligations.StepNumbers
  intro s i p hs hp hid
  refine ⟨fun l ha hg hl hle => ?launches, fun ht ho b word reopen t0 t1 => ?results,
    fun b hb hle ht hsubs hk => ?reopens⟩
  case launches =>
    rw [exec_launch]
    exact happen_atStep hs hid (launch_atStep hp hid ha hg hl hle)
  case results =>
    intro v hj hown hcls hstep hatt
    obtain ⟨u, hu, e⟩ := harvestResult_reaches (reopen := reopen) hj hown
    have here : AtStep i p.jobId p.step p.attempt (countControl u 0x404 1).plans := ⟨p, hu, rfl, rfl, rfl⟩
    refine ⟨fun hr hsent he => ?commits, fun hr => ?replays⟩
    case commits =>
      have body := e.trans (applyResult_commit hu ht ho hcls hstep hatt hr hsent he)
      rw [exec_harvestResult]
      refine happen_atStep hs hid ?_
      rw [body]
      exact commitStep_atStep hid here v
    case replays =>
      have body := e.trans (applyResult_replay hu ht ho hcls hstep hatt hr)
      obtain ⟨att, after, first⟩ := replayStep_atStep (s := countControl u 0x404 1) hu hid v reopen.toNat
      rw [← body] at after
      obtain ⟨t, q, hx, hq, qstep, qatt⟩ :=
        happen_atStep (body := fun s => harvestResult (freezeLatch s) b word reopen t0 t1) hs hid after
      exact ⟨t, q, (exec_harvestResult ..).trans hx, hq, qstep, fun ha he hreq => qatt.trans (first ha he hreq)⟩
  case reopens =>
    rw [exec_attemptReopen]
    refine happen_atStep hs hid ?_
    rw [attemptReopen_due hp hb hle ht hsubs hk]
    exact reopen_atStep (att := p.attempt) hid ⟨p, hp, rfl, rfl, rfl⟩

end

section
/-! SUPPORT. Far operations (11 R254-R258, R263): the state in which the endpoint answers a request, that its region's memory reads
and takes writes there as before, and the answer of each kind of request. -/

namespace Sys2Proof.Machine
open Sys2Proof

/-- The state in which the endpoint answers a request: its own buffers changed, and the highest attempt seen of the plan. -/
def State.facing (s : State) (i : Fin 16) (n : Nat) (e : Endpoint) : State :=
  { s.modPlan i (fun q => { q with highest := n }) with endpoint := e }

section
variable {s t u : State} {i : Fin 16} {p : Plan} {n : Nat} {e : Endpoint}

/-! ### Memory in that state -/

theorem facing_plan (hp : s.plans[i] = some p) : (s.facing i n e).plans[i] = some { p with highest := n } := by
  dsimp only [State.facing]
  exact modPlan_at_self hp

theorem facing_noPlan (hp : s.plans[i] = none) : (s.facing i n e).plans[i] = none := by
  simp [State.facing, hp]

theorem translate_facing (store : Bool) (a len : Nat) :
    translate (s.facing i n e) { p with highest := n } store a len = translate s p store a len := rfl

theorem readPlace_facing (pl : Place) (k : Nat) : readPlace (s.facing i n e) pl k = readPlace s pl k := by
  cases pl <;> rfl

theorem readPieces_facing (l : List (Nat × Nat)) :
    readPieces (s.facing i n e) { p with highest := n } l = readPieces s p l := by
  induction l with
  | nil => rfl
  | cons x l ih =>
    obtain ⟨a, k⟩ := x
    simp only [readPieces, translate_facing, readPlace_facing, ih]

/-- A read by plan address does not see what the endpoint keeps of its requests. -/
theorem planRead_facing (a k : Nat) : planRead (s.facing i n e) i a k = planRead s i a k := by
  unfold planRead
  cases hp : s.plans[i] with
  | none => rw [facing_noPlan hp]
  | some p => rw [facing_plan hp]; exact readPieces_facing _

theorem writePlace_facing (pl : Place) (bs : Bytes) (whole : Bool) :
    writePlace (s.facing i n e) pl bs whole = (writePlace s pl bs whole).map (·.facing i n e) := by
  cases pl with
  | hbm k =>
    have line : lineOf (s.facing i n e) k = lineOf s k := rfl
    simp only [writePlace, line]
    cases lineOf s k with
    | none => rfl
    | some x =>
      have live : inService (s.facing i n e) x.1 = inService s x.1 := rfl
      have bad : (s.facing i n e).hbmBad = s.hbmBad := rfl
      dsimp only
      rw [live, bad]
      split
      · rfl
      · split
        · rfl
        · split <;> rfl
  | sram c off =>
    have core : (s.facing i n e).cores = s.cores := rfl
    simp only [writePlace, core]
    split <;> rfl
  | granary b off =>
    have bins : (s.facing i n e).bins = s.bins := rfl
    simp only [writePlace, bins]
    split <;> rfl

theorem wordAt_facing (a : Nat) : wordAt (s.facing i n e) { p with highest := n } a = wordAt s p a := by
  simp only [wordAt, translate_facing]
  rfl

theorem tallyWrite_facing (a k : Nat) : tallyWrite (s.facing i n e) i a k = (tallyWrite s i a k).facing i n e := by
  unfold tallyWrite tallyRanges
  cases hp : s.plans[i] with
  | none => rw [facing_noPlan hp]
  | some p =>
    rw [facing_plan hp]
    dsimp only
    split
    · simp only [wordAt_facing]
      simp [State.facing, State.modPlan, hp]
    · rfl

theorem writePieces_facing (whole : Nat → Bool) (tally : Bool) (l : List (Nat × Nat)) : ∀ (bs : Bytes) (s u : State),
    writePieces i whole tally l bs s = .ok u → writePieces i whole tally l bs (s.facing i n e) = .ok (u.facing i n e) := by
  induction l with
  | nil =>
    intro bs s u h
    cases h
    rfl
  | cons x l ih =>
    obtain ⟨a, k⟩ := x
    intro bs s u h
    cases hp : s.plans[i] with
    | none => simp [writePieces, hp] at h
    | some p =>
      unfold writePieces at h ⊢
      rw [hp] at h
      rw [facing_plan hp]
      dsimp only at h ⊢
      rw [translate_facing]
      cases hpl : translate s p true a k with
      | error err => rw [hpl] at h; cases h
      | ok pl =>
        rw [hpl] at h
        dsimp only at h ⊢
        rw [writePlace_facing]
        cases hw : writePlace s pl (bs.take k) (k == 64 || whole a) with
        | none => rw [hw] at h; cases h
        | some s' =>
          rw [hw] at h
          dsimp only [Option.map_some] at h ⊢
          cases tally with
          | false => exact ih _ _ _ h
          | true =>
            rw [if_pos rfl] at h ⊢
            rw [tallyWrite_facing]
            exact ih _ _ _ h

/-- A write by plan address is the same there. -/
theorem planWrite_facing {a : Nat} {bs : Bytes} (h : planWrite s i a bs = .ok u) :
    planWrite (s.facing i n e) i a bs = .ok (u.facing i n e) :=
  writePieces_facing _ _ _ _ _ _ h

theorem facing_sameMemory (s : State) (i : Fin 16) (n : Nat) (e : Endpoint) : SameMemory s (s.facing i n e) :=
  sameMemory_kept rfl rfl rfl

end
end Sys2Proof.Machine
end

section
/-! SUPPORT. How the endpoint answers a request (11 R258, R263, R268; 09 R206), and how the frames of a request or of a reply
come (11 R256). -/

namespace Sys2Proof.Machine
open Sys2Proof

/-- The endpoint with a cache for the request's source. -/
def Endpoint.forSource (e : Endpoint) (r : FarReq) : Endpoint :=
  if (e.caches.find? (·.of r)).isSome then e
  else { e with caches := e.caches ++ [⟨r.die, r.job, r.place, r.core, []⟩] }

/-- The highest attempt of the plan's step once the request has been seen. -/
def Plan.seen (p : Plan) (r : FarReq) : Nat := if r.step = p.step then max p.highest r.attempt else p.highest

/-- The reply of the target's checks leaves, and the slot of a write keeps it. -/
def answerOf (s : State) (r : FarReq) : State :=
  let (st, data, u) := decide_ s r
  farReply (if r.isWrite then cacheReply u r st data else u) r st data

/-- A request whose source holds a cache: a read is decided anew, a write once (11 R263). -/
def serveHeld (s : State) (r : FarReq) : State :=
  if !r.isWrite then answerOf s r
  else match lookup s r with
    | .duplicate k => farReply s r k.status k.data
    | .stale => s
    | .fresh => answerOf s r

/-- `x` has the outputs of `s`, the memory of `m`, and a journal that takes a record. -/
structure Decided (s m x : State) : Prop where
  out : x.out = s.out
  memory : SameMemory m x
  room : Room x

section
variable {s u m w x : State} {i : Fin 16} {p : Plan} {n : Nat} {e : Endpoint} {r : FarReq} {f : Frame} {more : Bytes}

/-! ### The source's cache (11 R263) -/

theorem holdCache_eq (s : State) (r : FarReq) : holdCache s r = { s with endpoint := s.endpoint.forSource r } := by
  unfold holdCache findCache Endpoint.forSource
  split <;> rfl

theorem seeAttempt_eq (hj : planOfJob s r.job = some (i, p)) : seeAttempt s r = s.facing i (p.seen r) s.endpoint := by
  obtain ⟨hp, -, -⟩ := planOfJob_some hj
  have kept : s = s.facing i p.highest s.endpoint := by
    rw [State.facing, modPlan_some _ hp]
    show s = { s with plans := s.plans.set i (some p) }
    rw [← hp]
    simp
  unfold seeAttempt Plan.seen
  rw [hj]
  dsimp only
  split
  · simp [State.facing, State.modPlan, hp]
  · exact kept

theorem lookup_forSource_fresh (hn : e.caches.find? (·.of r) = none) (he : u.endpoint = e.forSource r) :
    lookup u r = .fresh := by
  have own : ReplayCache.of ⟨r.die, r.job, r.place, r.core, []⟩ r = true := by simp [ReplayCache.of]
  have new : findCache u r = some ⟨r.die, r.job, r.place, r.core, []⟩ := by
    rw [findCache, he, Endpoint.forSource, hn]
    simp [hn, own]
  rw [lookup, new]
  rfl

theorem lookup_forSource_duplicate {c : ReplayCache} {k : CacheSlot} (hn : e.caches.find? (·.of r) = some c)
    (he : u.endpoint = e.forSource r) (hk : c.slots.find? (fun x => x.seq.toNat % 64 == r.seq.toNat % 64) = some k)
    (hq : k.seq = r.seq) (hb : u.bell ≤ k.bell + 100000) : lookup u r = .duplicate k := by
  have old : findCache u r = some c := by
    rw [findCache, he, Endpoint.forSource, hn]
    exact hn
  rw [lookup, old]
  dsimp only
  rw [hk]
  dsimp only
  rw [if_pos hq, if_pos hb]

/-! ### The checks in order -/

/-- A request for a plan that is not torn down, with a cache to be had, and no attempt that the step has left. -/
theorem serve_planned (hr : farReq f more = r) (hj : planOfJob s r.job = some (i, p)) (ht : p.teardownCause = none)
    (hfull : cacheFull s r = false) (hold : r.isWrite = true → r.step = p.step → p.highest ≤ r.attempt) :
    serve s f more = serveHeld (s.facing i (p.seen r) (s.endpoint.forSource r)) r := by
  have young : (r.isWrite && r.step == p.step && decide (r.attempt < p.highest)) = false := by
    by_contra hyoung
    simp only [Bool.not_eq_false, Bool.and_eq_true, beq_iff_eq, decide_eq_true_eq] at hyoung
    obtain ⟨⟨hw, hstep⟩, hlt⟩ := hyoung
    exact absurd (hold hw hstep) (by omega)
  unfold serve
  rw [hr]
  simp only [hj, ht, hfull, young, Option.isSome_none, Bool.false_eq_true, if_false]
  rw [holdCache_eq, seeAttempt_eq hj]
  rfl

/-- A request of a job that is bound to no plan. -/
theorem serve_unplanned (hr : farReq f more = r) (hj : planOfJob s r.job = none) (hfull : cacheFull s r = false) :
    serve s f more = serveHeld { s with endpoint := s.endpoint.forSource r } r := by
  have seen : seeAttempt s r = s := by rw [seeAttempt, hj]
  unfold serve
  rw [hr]
  simp only [hj, hfull, Bool.false_eq_true, if_false]
  rw [seen, holdCache_eq]
  rfl

theorem serveHeld_read (h : r.op = 1) : serveHeld s r = answerOf s r := by
  simp [serveHeld, FarReq.isWrite, h]

theorem serveHeld_fresh (h : lookup s r = .fresh) : serveHeld s r = answerOf s r := by
  unfold serveHeld
  rw [h]
  simp

theorem serveHeld_duplicate {k : CacheSlot} (hw : r.op ≠ 1) (h : lookup s r = .duplicate k) :
    serveHeld s r = farReply s r k.status k.data := by
  simp [serveHeld, FarReq.isWrite, hw, h]

theorem answerOf_eq {st : Nat} {data : Bytes} (h : decide_ w r = (st, data, x)) :
    answerOf w r = farReply (if r.isWrite then cacheReply x r st data else x) r st data := by
  rw [answerOf, h]

/-! ### Checks 4 to 9 -/

section
variable {g : RegionEntry}

theorem decide_noRegion (h : regionOf s r = none) : decide_ s r = (codeTranslation, [], s) := by
  rw [decide_, h]

theorem decide_wrongKey (h : regionOf s r = some (n, g)) (hk : g.key.toNat ≠ r.key) :
    decide_ s r = (codeRefusedKey, [], keyRefused s r n g.plan.toFin) := by
  rw [decide_, h]
  exact if_pos hk

theorem decide_granted (h : regionOf s r = some (n, g)) (hk : g.key.toNat = r.key) (ha : regionAllows g r = true)
    (hs : regionSoleRefuses g r = false) (hal : r.aligned = true) : decide_ s r = applyReq s g.plan.toFin r := by
  rw [decide_, h]
  simp [hk, ha, hs, hal]

theorem decide_load (h : regionOf s r = some (n, g)) (hk : g.key.toNat = r.key) (ho : r.op = 1) (hl : g.load = true)
    {bs : Bytes} (hr : planRead s g.plan.toFin r.addr r.len = .ok bs) : decide_ s r = (0, bs, s) := by
  rw [decide_granted h hk (by simp [regionAllows, ho, hl]) (by simp [regionSoleRefuses, ho]) (by simp [FarReq.aligned, ho])]
  simp [applyReq, ho, hr]

theorem decide_store (h : regionOf s r = some (n, g)) (hk : g.key.toNat = r.key) (ho : r.op = 2) (hl : g.store = true)
    (hw : planWrite s g.plan.toFin r.addr (r.data.take r.len) = .ok u) : decide_ s r = (0, [], u) := by
  rw [decide_granted h hk (by simp [regionAllows, ho, hl]) (by simp [regionSoleRefuses, ho]) (by simp [FarReq.aligned, ho])]
  simp [applyReq, FarReq.span, ho, hw]

theorem decide_flag (h : regionOf s r = some (n, g)) (hk : g.key.toNat = r.key) (ho : r.op = 4) (hl : g.flag = true)
    (hal : r.addr % 8 = 0) (hw : planWrite s g.plan.toFin r.addr (r.data.take 8) = .ok u) : decide_ s r = (0, [], u) := by
  rw [decide_granted h hk (by simp [regionAllows, ho, hl]) (by simp [regionSoleRefuses, ho])
    (by simp [FarReq.aligned, ho, hal])]
  simp [applyReq, FarReq.span, ho, hw]

theorem decide_atomic (h : regionOf s r = some (n, g)) (hk : g.key.toNat = r.key) (ho : r.op = 3) (hl : g.atomic = true)
    (hg : atomicLegal r.aop r.typ = true) (hsole : g.sole = true → r.place = g.solePlace ∧ r.core = g.soleCore)
    (hal : r.addr % (if r.typ = 2 then 16 else 8) = 0) {bs : Bytes}
    (hr : planRead s g.plan.toFin r.addr (if r.typ = 2 then 16 else 8) = .ok bs)
    (hw : planWrite s g.plan.toFin r.addr
      (leBytes (if r.typ = 2 then 16 else 8) (atomicResult r.aop r.typ (leNat bs) r.data).1) = .ok u) :
    decide_ s r = (0, leBytes 8 (atomicResult r.aop r.typ (leNat bs) r.data).2, u) := by
  have sole : regionSoleRefuses g r = false := by
    cases hq : g.sole with
    | false => simp [regionSoleRefuses, hq]
    | true => simp [regionSoleRefuses, hq, hsole hq]
  have aligned : r.aligned = true := by
    by_cases h16 : r.typ = 2
    · simpa [FarReq.aligned, ho, h16] using hal
    · simpa [FarReq.aligned, ho, h16] using hal
  have span : r.span = if r.typ = 2 then 16 else 8 := by simp [FarReq.span, ho]
  rw [decide_granted h hk (by simp [regionAllows, ho, hl, hg]) sole aligned]
  simp [applyReq, ho, span, hr, hw]

end

/-! ### What a check leaves -/

/-- The endpoint's answer changes its own buffers and the highest attempt alone. -/
theorem facing_decided (hc : Calm s) : Decided s s (s.facing i n e) where
  out := rfl
  memory := facing_sameMemory s i n e
  room := Calm.room (s := s) hc

theorem withEndpoint_decided (hc : Calm s) : Decided s s { s with endpoint := e } where
  out := rfl
  memory := sameMemory_kept rfl rfl rfl
  room := Calm.room (s := s) hc

/-- A write that the target applied. -/
theorem written_decided {a : Nat} {bs : Bytes} (hc : Calm s) (h : planWrite s i a bs = .ok u) :
    Decided s u (u.facing i n e) := by
  have wrote := (planWrite_wrote h).1
  refine ⟨?_, facing_sameMemory u i n e, ?_⟩
  · show u.out = s.out
    rw [wrote]
  · show Room u
    rw [wrote]
    exact Calm.room (s := s) hc

theorem Decided.withEndpoint (h : Decided s m x) : Decided s m { x with endpoint := e } :=
  ⟨h.out, h.memory.trans (sameMemory_kept rfl rfl rfl), h.room⟩

theorem Decided.trans (h : Decided s m w) (h' : Decided w w x) : Decided s m x :=
  ⟨h'.out.trans h.out, h.memory.trans h'.memory, h'.room⟩

theorem keyRefused_decided (hc : Calm s) (r : FarReq) (k : Nat) (i : Fin 16) : Decided s s (keyRefused s r k i) := by
  have record (b : Bytes) : Decided s s (journalPlan s i 0x0501 b) := by
    have rep := (journalPlan_reports hc.room i 0x0501 b).1
    refine ⟨?_, rep.sameMemory, hc.room_after rep (by omega)⟩
    rw [rep.1]
    simp
  have same : Decided s s s := ⟨rfl, sameMemory_kept rfl rfl rfl, hc.room⟩
  unfold keyRefused
  dsimp only
  split
  · split
    · exact same.withEndpoint
    · exact (record _).withEndpoint
  · exact (record _).withEndpoint

/-! ### The reply leaves -/

theorem happen_reply {body : State → State} {st : Nat} {data : Bytes} (hs : serving s = true) (h : Decided s m x)
    (hb : body s = farReply x r st data) :
    ∃ t, happen s body = .next t
      ∧ t.out = s.out ++ [.farReply r.place r.job r.core r.seq r.cls st r.step r.attempt data] ∧ SameMemory m t := by
  obtain ⟨t, ht, hN⟩ := happen_noted s body hs (by rw [hb]; exact h.room)
  rw [hb] at hN
  refine ⟨t, ht, ?_, ?_⟩
  · rw [hN.out]
    show x.out ++ _ = _
    rw [h.out]
  · have kept : SameMemory x (farReply x r st data) := sameMemory_kept rfl rfl rfl
    exact (h.memory.trans kept).trans hN.sameMemory

theorem happen_answer {body : State → State} {st : Nat} {data : Bytes} (hs : serving s = true)
    (hd : decide_ w r = (st, data, x)) (h : Decided s m x) (hb : body s = answerOf w r) :
    ∃ t, happen s body = .next t
      ∧ t.out = s.out ++ [.farReply r.place r.job r.core r.seq r.cls st r.step r.attempt data] ∧ SameMemory m t := by
  rw [answerOf_eq hd] at hb
  refine happen_reply hs ?_ hb
  split
  · exact h.withEndpoint
  · exact h

end
end Sys2Proof.Machine
end

section
/-! SUPPORT. Requests and replies of two frames (11 R256), and the endpoint's answers to whole requests. That a half is
held and that a CONTINUE is matched by the request's names are the model's choices (notes/assumptions/29.md, 42.md). -/

namespace Sys2Proof.Machine
open Sys2Proof

section
variable {s : State} {f g : Frame} {more : Bytes} {cmd : Instr} {b : Bell} {typ : BitVec 4}

/-! ### The frames come -/

theorem sameRequest_comm (f g : Frame) : sameRequest f g = sameRequest g f := by
  simp only [sameRequest, Bool.beq_comm]

/-- A request whose reads meet no error. -/
theorem noteFar_clean (s : State) (f : Frame) : noteFar s f [] [] = s := by
  unfold noteFar
  dsimp only
  split
  · split <;> rfl
  · rfl

/-- The one frame that is held is the other one of this. -/
theorem half_found (hh : s.endpoint.halves = [(f, b)]) (hs : sameRequest f g = true) (ht : f.typ = typ) :
    s.endpoint.halves.find? (fun e => sameRequest e.1 g && e.1.typ == typ) = some (f, b) := by
  simp [hh, hs, ht]

theorem half_other (hh : s.endpoint.halves = [(f, b)]) (ht : f.typ ≠ typ) :
    s.endpoint.halves.find? (fun e => sameRequest e.1 g && e.1.typ == typ) = none := by
  simp [hh, ht]

/-- The request acts with its last frame, whichever that is. -/
theorem brings_request (h : Brings s 1 (fun f => .farRequest f [] []) f more cmd) :
    ∃ body e, exec cmd s = happen s body ∧ body s = serve { s with endpoint := e } f more
      ∧ e.caches = s.endpoint.caches := by
  obtain ⟨hm, rfl, rfl⟩ | ⟨hm, g, b, hs, rfl, ⟨rfl, ht, hh⟩ | ⟨rfl, ht, hh⟩⟩ := h
  · refine ⟨fun s => takeRequest s f [] [], s.endpoint, rfl, ?_, rfl⟩
    simp only [takeRequest, hm, noteFar_clean, Bool.false_eq_true, if_false]
  · refine ⟨fun s => takeContinue s g [] [], (dropHalves s g).endpoint, rfl, ?_, rfl⟩
    simp only [takeContinue, half_found hh hs ht, noteFar_clean]
    rfl
  · rw [sameRequest_comm] at hs
    refine ⟨fun s => takeRequest s f [] [], (dropHalves s f).endpoint, rfl, ?_, rfl⟩
    simp only [takeRequest, hm, half_found hh hs ht, noteFar_clean, if_true]
    rfl

/-- The reply acts with its last frame, whichever that is. -/
theorem brings_reply (hv : serving s = true) (h : Brings s 3 (fun f => .farReply f) f more cmd) :
    ∃ e, ∀ u, endReply { s with endpoint := e } f more = u → Room u → ∃ t, exec cmd s = .next t ∧ Noted u t := by
  obtain ⟨hm, rfl, rfl⟩ | ⟨hm, g, b, hs, rfl, ⟨rfl, ht, hh⟩ | ⟨rfl, ht, hh⟩⟩ := h
  · refine ⟨s.endpoint, fun u hu _ => ⟨u, ?_, noted_refl u⟩⟩
    show execFarReply f s = _
    simp only [execFarReply, takeReply, hv, hm, Bool.false_eq_true, if_false, if_true]
    rw [← hu]
  · have other : f.typ ≠ 1 := by rw [ht]; decide
    have body : takeContinue s g [] [] = endReply (dropHalves s g) f g.content := by
      simp only [takeContinue, half_other hh other, half_found hh hs ht]
    refine ⟨(dropHalves s g).endpoint, fun u hu hr => ?_⟩
    have acts : takeContinue s g [] [] = u := body.trans hu
    obtain ⟨t, ht, hN⟩ := happen_noted s (fun s => takeContinue s g [] []) hv (by rw [acts]; exact hr)
    exact ⟨t, ht, by rwa [acts] at hN⟩
  · rw [sameRequest_comm] at hs
    refine ⟨(dropHalves s f).endpoint, fun u hu _ => ⟨u, ?_, noted_refl u⟩⟩
    show execFarReply f s = _
    simp only [execFarReply, takeReply, hv, hm, half_found hh hs ht, if_true]
    rw [← hu]
    rfl

/-! ### A lone half -/

/-- The first frame to come of a request or of a reply is held. -/
theorem holdHalf_alone (hh : s.endpoint.halves = []) (f : Frame) :
    holdHalf s f = { s with endpoint := { s.endpoint with halves := [(f, s.bell)] } } := by
  simp [holdHalf, hh]

theorem lone_half_held (hc : Calm s) (hv : serving s = true) (hh : s.endpoint.halves = []) {i : Instr}
    (hi : i = .continueFrame g [] [] ∨ (g.more = true ∧ (i = .farRequest g [] [] ∨ i = .farReply g))) :
    ∃ t, exec i s = .next t ∧ Noted { s with endpoint := { s.endpoint with halves := [(g, s.bell)] } } t := by
  have happens (body : State → State) (hb : body s = holdHalf s g) :
      ∃ t, happen s body = .next t ∧ Noted { s with endpoint := { s.endpoint with halves := [(g, s.bell)] } } t := by
    rw [holdHalf_alone hh] at hb
    obtain ⟨t, ht, hN⟩ := happen_noted s body hv (by rw [hb]; exact Calm.room (s := s) hc)
    exact ⟨t, ht, by rwa [hb] at hN⟩
  obtain rfl | ⟨hm, rfl | rfl⟩ := hi
  · exact happens (fun s => takeContinue s g [] []) (by simp [takeContinue, hh])
  · exact happens (fun s => takeRequest s g [] []) (by simp [takeRequest, hm, hh])
  · refine ⟨_, ?_, noted_refl _⟩
    show execFarReply g s = _
    rw [← holdHalf_alone hh]
    simp [execFarReply, takeReply, hv, hm, hh]

/-- CONTINUE_TIMEOUT discards the halves of 40,000 bells ago. -/
theorem continueTimeout_discards (hc : Calm s) (hv : serving s = true) :
    ∃ t, exec .continueTimeout s = .next t ∧ Noted { s with endpoint := { s.endpoint with
      halves := s.endpoint.halves.filter (fun e => decide (s.bell < e.2 + 40000)) } } t := by
  show ∃ t, execContinueTimeout s = .next t ∧ _
  unfold execContinueTimeout
  exact happen_noted s _ hv (Calm.room (s := s) hc)

/-- A cache whose slots are all old is freed. -/
theorem cacheFree_one {job : Nat} {place : BitVec 22} {core : BitVec 10} {k : ReplayCache}
    (hk : s.endpoint.caches = [k]) (hj : k.job = job) (hp : k.place = place) (hco : k.core = core)
    (hold : ∀ x ∈ k.slots, x.bell + 100000 < s.bell) (hw : s.endpoint.waiting = []) :
    cacheFree s job place core = { s with endpoint := { s.endpoint with caches := [] } } := by
  have due : k.slots.all (fun e => decide (e.bell + 100000 < s.bell)) = true := by simpa using hold
  subst hj hp hco
  simp [cacheFree, hk, hw, due]

theorem replayCacheFree_frees (hc : Calm s) (hv : serving s = true) {job : Nat} {place : BitVec 22} {core : BitVec 10}
    {k : ReplayCache} (hk : s.endpoint.caches = [k]) (hj : k.job = job) (hp : k.place = place) (hco : k.core = core)
    (hold : ∀ x ∈ k.slots, x.bell + 100000 < s.bell) (hw : s.endpoint.waiting = []) :
    ∃ t, exec (.replayCacheFree job place core) s = .next t
      ∧ Noted { s with endpoint := { s.endpoint with caches := [] } } t := by
  have body := cacheFree_one hk hj hp hco hold hw
  obtain ⟨t, ht, hN⟩ := happen_noted s (fun s => cacheFree s job place core) hv (by rw [body]; exact Calm.room (s := s) hc)
  exact ⟨t, ht, by rwa [body] at hN⟩

end

section
variable {s u : State} {f : Frame} {more : Bytes} {cmd : Instr} {r : FarReq} {i : Fin 16} {p : Plan} {n : Nat}
  {g : RegionEntry} {bs : Bytes}

/-! ### Whole requests -/

/-- `cmd` answers the request with the status and data, and memory is then as `u` has it. -/
def Replies (s : State) (cmd : Instr) (r : FarReq) (u : State) (st : Nat) (data : Bytes) : Prop :=
  ∃ t, exec cmd s = .next t
    ∧ t.out = s.out ++ [.farReply r.place r.job r.core r.seq r.cls st r.step r.attempt data] ∧ SameMemory u t

theorem cacheFull_endpoint {e : Endpoint} (he : e.caches = s.endpoint.caches) :
    cacheFull { s with endpoint := e } r = cacheFull s r := by
  simp only [cacheFull, findCache, he]

/-- A whole request of a job whose plan is not torn down, its source's cache to be had, and of an attempt that the step
has not left. -/
structure Meets (s : State) (cmd : Instr) (r : FarReq) (i : Fin 16) (p : Plan) : Prop where
  body : ∃ body, ∃ e : Endpoint, exec cmd s = happen s body ∧ e.caches = s.endpoint.caches
    ∧ body s = serveHeld (s.facing i (p.seen r) (e.forSource r)) r

theorem meets (hB : Brings s 1 (fun f => .farRequest f [] []) f more cmd) (hr : farReq f more = r)
    (hj : planOfJob s r.job = some (i, p)) (ht : p.teardownCause = none) (hfull : cacheFull s r = false)
    (hold : r.isWrite = true → r.step = p.step → p.highest ≤ r.attempt) : Meets s cmd r i p := by
  obtain ⟨body, e, hx, hb, he⟩ := brings_request hB
  refine ⟨body, e, hx, he, ?_⟩
  rw [hb, serve_planned (s := { s with endpoint := e }) hr hj ht ((cacheFull_endpoint he).trans hfull) hold]
  rfl

/-- A read is answered as the target's checks decide. -/
theorem Meets.read {st : Nat} (h : Meets s cmd r i p) (hv : serving s = true) (ho : r.op = 1)
    (hd : ∀ e, ∃ x, decide_ (s.facing i (p.seen r) e) r = (st, bs, x) ∧ Decided s u x) : Replies s cmd r u st bs := by
  obtain ⟨body, e, hx, -, hb⟩ := h.body
  obtain ⟨x, hdec, hD⟩ := hd (e.forSource r)
  rw [serveHeld_read ho] at hb
  rw [Replies, hx]
  exact happen_answer hv hdec hD hb

/-- So is a write of a source that holds no cache. -/
theorem Meets.write {st : Nat} (h : Meets s cmd r i p) (hv : serving s = true) (hn : findCache s r = none)
    (hd : ∀ e, ∃ x, decide_ (s.facing i (p.seen r) e) r = (st, bs, x) ∧ Decided s u x) : Replies s cmd r u st bs := by
  obtain ⟨body, e, hx, he, hb⟩ := h.body
  obtain ⟨x, hdec, hD⟩ := hd (e.forSource r)
  have none : e.caches.find? (·.of r) = none := by rw [he]; exact hn
  rw [serveHeld_fresh (lookup_forSource_fresh none rfl)] at hb
  rw [Replies, hx]
  exact happen_answer hv hdec hD hb

/-- The repetition of a write is answered from its slot. -/
theorem Meets.repetition {c : ReplayCache} {k : CacheSlot} (h : Meets s cmd r i p) (hc : Calm s) (hv : serving s = true)
    (hw : r.op ≠ 1) (hn : findCache s r = some c)
    (hk : c.slots.find? (fun x => x.seq.toNat % 64 == r.seq.toNat % 64) = some k) (hq : k.seq = r.seq)
    (hbell : s.bell ≤ k.bell + 100000) : Replies s cmd r s k.status k.data := by
  obtain ⟨body, e, hx, he, hb⟩ := h.body
  have same : e.caches.find? (·.of r) = some c := by rw [he]; exact hn
  rw [serveHeld_duplicate hw (lookup_forSource_duplicate (u := s.facing i (p.seen r) (e.forSource r)) same rfl hk hq hbell)] at hb
  rw [Replies, hx]
  exact happen_reply hv (facing_decided hc) hb

/-! ### The answers of a region (11 R257, R258) -/

section
variable (h : Meets s cmd r i p) (hc : Calm s) (hv : serving s = true) (hg : regionOf s r = some (n, g))
include h hc hv hg

theorem Meets.wrongKey (ho : r.op = 1) (hk : g.key.toNat ≠ r.key) : Replies s cmd r s 0x2001 [] :=
  h.read hv ho fun _ =>
    ⟨_, decide_wrongKey (s := s.facing ..) hg hk, (facing_decided hc).trans (keyRefused_decided (s := s.facing ..) hc ..)⟩

variable (hi : g.plan.toFin = i)
include hi

theorem Meets.load (ho : r.op = 1) (hk : g.key.toNat = r.key) (hl : g.load = true)
    (hr : planRead s i r.addr r.len = .ok bs) : Replies s cmd r s 0 bs :=
  h.read hv ho fun _ =>
    ⟨_, decide_load (s := s.facing ..) hg hk ho hl (by rw [hi, planRead_facing]; exact hr), facing_decided hc⟩

theorem Meets.store (hn : findCache s r = none) (ho : r.op = 2) (hk : g.key.toNat = r.key) (hl : g.store = true)
    (hw : planWrite s i r.addr (r.data.take r.len) = .ok u) : Replies s cmd r u 0 [] :=
  h.write hv hn fun _ =>
    ⟨_, decide_store (s := s.facing ..) hg hk ho hl (by rw [hi]; exact planWrite_facing hw), written_decided hc hw⟩

theorem Meets.flag (hn : findCache s r = none) (ho : r.op = 4) (hk : g.key.toNat = r.key) (hl : g.flag = true)
    (hal : r.addr % 8 = 0) (hw : planWrite s i r.addr (r.data.take 8) = .ok u) : Replies s cmd r u 0 [] :=
  h.write hv hn fun _ =>
    ⟨_, decide_flag (s := s.facing ..) hg hk ho hl hal (by rw [hi]; exact planWrite_facing hw), written_decided hc hw⟩

theorem Meets.atomic (hn : findCache s r = none) (ho : r.op = 3) (hk : g.key.toNat = r.key) (hl : g.atomic = true)
    (hlegal : atomicLegal r.aop r.typ = true) (hsole : g.sole = true → r.place = g.solePlace ∧ r.core = g.soleCore)
    (hal : r.addr % (if r.typ = 2 then 16 else 8) = 0)
    (hr : planRead s i r.addr (if r.typ = 2 then 16 else 8) = .ok bs)
    (hw : planWrite s i r.addr
      (leBytes (if r.typ = 2 then 16 else 8) (atomicResult r.aop r.typ (leNat bs) r.data).1) = .ok u) :
    Replies s cmd r u 0 (leBytes 8 (atomicResult r.aop r.typ (leNat bs) r.data).2) :=
  h.write hv hn fun _ =>
    ⟨_, decide_atomic (s := s.facing ..) hg hk ho hl hlegal hsole hal (by rw [hi, planRead_facing]; exact hr)
      (by rw [hi]; exact planWrite_facing hw), written_decided hc hw⟩

end

/-- A load for no plan, outside every region. -/
theorem load_outside (hB : Brings s 1 (fun f => .farRequest f [] []) f more cmd) (hc : Calm s) (hv : serving s = true)
    (hr : farReq f more = r) (ho : r.op = 1) (hj : planOfJob s r.job = none) (hfull : cacheFull s r = false)
    (hg : regionOf s r = none) : Replies s cmd r s 0x5005 [] := by
  obtain ⟨body, e, hx, hb, he⟩ := brings_request hB
  rw [serve_unplanned (s := { s with endpoint := e }) hr hj ((cacheFull_endpoint he).trans hfull), serveHeld_read ho] at hb
  rw [Replies, hx]
  exact happen_answer hv (decide_noRegion (s := { s with endpoint := e.forSource r }) hg) (withEndpoint_decided hc) hb

end
end Sys2Proof.Machine
end

section
/-! SUPPORT. The source of a far operation (11 R256, R261, R264): the load that its reply completes, the request that is
repeated, and the target that is given up. -/

namespace Sys2Proof.Machine
open Sys2Proof

/-! ### The loaded register -/

theorem leNat_lt (l : Bytes) : leNat l < 256 ^ l.length := by
  induction l with
  | nil => simp [leNat]
  | cons b l ih =>
    have := b.isLt
    rw [leNat, List.length_cons, Nat.pow_succ]
    omega

theorem leNat_take_lt (l : Bytes) (n : Nat) : leNat (l.take n) < 2 ^ (8 * n) := by
  calc leNat (l.take n) < 256 ^ (l.take n).length := leNat_lt _
    _ ≤ 256 ^ n := Nat.pow_le_pow_right (by decide) (List.length_take_le n l)
    _ = 2 ^ (8 * n) := by rw [Nat.pow_mul]

section
variable (v : VReg) (n x : Nat)

theorem putBits_low : putBits v 0 n x = BitVec.ofNat 8192 (2 ^ (8 * n) * (v.toNat / 2 ^ (8 * n)) + x % 2 ^ (8 * n)) := by
  simp only [putBits, Nat.zero_add, Nat.pow_zero, Nat.mod_one, Nat.mul_one]
  rw [Nat.mul_comm (v.toNat / _), Nat.add_comm]

theorem putBits_testBit (b : Nat) :
    (putBits v 0 n x).getLsbD b
      = (decide (b < 8192) && if b < 8 * n then (x % 2 ^ (8 * n)).testBit b else v.getLsbD b) := by
  rw [putBits_low, BitVec.getLsbD_ofNat, Nat.testBit_two_pow_mul_add _ (Nat.mod_lt _ (Nat.two_pow_pos _)),
    Nat.testBit_div_two_pow]
  by_cases h : b < 8 * n
  · simp [h]
  · rw [if_neg h, if_neg h, Nat.sub_add_cancel (by omega)]
    rfl

theorem putBits_extract (h : n ≤ 1024) : ((putBits v 0 n x).extractLsb' 0 (8 * n)).toNat = x % 2 ^ (8 * n) := by
  refine Nat.eq_of_testBit_eq fun b => ?_
  rw [BitVec.testBit_toNat, BitVec.getLsbD_extractLsb', Nat.zero_add, putBits_testBit, Nat.testBit_mod_two_pow]
  by_cases hb : b < 8 * n
  · have : b < 8192 := by omega
    simp [hb, this]
  · simp [hb]

end

theorem FarOp.regs_load {o : FarOp} (ho : o.op = 0x18) (hr : o.reg < 64) (data : Bytes) (r : Regs) :
    o.regs data r = r.setV o.reg (putBits (r.v.getD o.reg 0) 0 o.len (leNat (data.take o.len))) := by
  rw [FarOp.regs, if_pos ho, Nat.mod_eq_of_lt hr]

section
variable {s t : State} {c : CoreId} {o : FarOp} {i : Fin 16} {p : Plan} {f : Frame} {more : Bytes} {cmd : Instr} {b : Bell}

/-- The core's new state alone says what a change of it does. -/
theorem modCore_congr {f g : Core → Core} (h : f s.cores[c] = g s.cores[c]) : s.modCore c f = s.modCore c g := by
  rw [State.modCore, State.modCore, h]

/-! ### A reply completes its load (11 R256, R261) -/

/-- The core once its only far operation, a load, has its data. -/
def Core.loaded (o : FarOp) (data : Bytes) (k : Core) : Core := { k.lateRegs o.id (o.regs data) with far := [] }

theorem releaseFar_none (h : s.cores[c].far = []) : releaseFar s c = s.modCore c (fun k => { k with far := [] }) := by
  simp only [releaseFar, h, List.foldl_nil]

theorem endFar_alone (h : s.cores[c].far = [o]) : endFar s c o = s.modCore c (fun k => { k with far := [] }) := by
  have gone : (s.modCore c (fun k => { k with far := k.far.filter (fun e => e.id != o.id) })).cores[c].far = [] := by
    rw [modCore_cores_self, h]
    simp
  rw [endFar, releaseFar_none gone, modCore_modCore]
  rfl

theorem endReply_load (hj : planOfJob s f.job.toNat = some (i, p)) (hc : planCorePhys s p f.srcCore.toNat = some c)
    (hf : s.cores[c].far = [o]) (hq : o.seq = f.seq) (hp : o.place = f.src) (hi : o.issued.isSome = true)
    (hs : bits (leNat (f.content.take 16)) 127 112 = 0) :
    endReply s f more = s.modCore c (Core.loaded o (f.content.drop 16 ++ more)) := by
  have alone : (s.modCore c (·.lateRegs o.id (o.regs (f.content.drop 16 ++ more)))).cores[c].far = [o] := by
    rw [modCore_cores_self]
    exact hf
  simp only [endReply, hj, hc, hf, hs, hq, hp, hi, List.find?_cons, beq_self_eq_true, Bool.and_self, if_true]
  rw [endFar_alone alone, modCore_modCore]
  rfl

theorem loaded_regs (ho : o.op = 0x18) (hr : o.reg < 64) (data : Bytes) (k : Core) :
    (k.loaded o data).regs = k.regs.setV o.reg (putBits (k.regs.v.getD o.reg 0) 0 o.len (leNat (data.take o.len))) :=
  FarOp.regs_load ho hr data k.regs

section
variable (ho : o.op = 0x18) (hr : o.reg < 64) (data : Bytes) (k : Core)
include ho hr

theorem loaded_reg : (k.loaded o data).regs.v.getD o.reg 0
    = putBits (k.regs.v.getD o.reg 0) 0 o.len (leNat (data.take o.len)) := by
  rw [loaded_regs ho hr, setV_getD _ _ _ _ hr, if_pos rfl]

theorem loaded_regs_frame : (k.loaded o data).regs = { k.regs with v := (k.loaded o data).regs.v } := by
  rw [loaded_regs ho hr]
  rfl

theorem loaded_reg_other {n : Nat} (hn : n < 64) (hne : n ≠ o.reg) :
    (k.loaded o data).regs.v.getD n 0 = k.regs.v.getD n 0 := by
  rw [loaded_regs ho hr, setV_getD _ _ _ _ hn, if_neg hne]

theorem loaded_reg_low (hlen : o.len ≤ 1024) :
    (((k.loaded o data).regs.v.getD o.reg 0).extractLsb' 0 (8 * o.len)).toNat = leNat (data.take o.len) := by
  rw [loaded_reg ho hr, putBits_extract _ _ _ hlen, Nat.mod_eq_of_lt (leNat_take_lt _ _)]

theorem loaded_reg_high {b : Nat} (hb : 8 * o.len ≤ b) (hb' : b < 8192) :
    ((k.loaded o data).regs.v.getD o.reg 0).getLsbD b = (k.regs.v.getD o.reg 0).getLsbD b := by
  rw [loaded_reg ho hr, putBits_testBit, if_neg (by omega), decide_eq_true hb', Bool.true_and]

end

/-- A reply of status 0 completes the core's load. -/
theorem reply_completes (hcalm : Calm s) (hv : serving s = true) (hB : Brings s 3 (fun f => .farReply f) f more cmd)
    (hj : planOfJob s f.job.toNat = some (i, p)) (hc : planCorePhys s p f.srcCore.toNat = some c)
    (hf : s.cores[c].far = [o]) (hq : o.seq = f.seq) (hp : o.place = f.src) (hi : o.issued.isSome = true)
    (hs : bits (leNat (f.content.take 16)) 127 112 = 0) :
    ∃ t, exec cmd s = .next t ∧ t.cores[c] = s.cores[c].loaded o (f.content.drop 16 ++ more) ∧ t.out = s.out
      ∧ t.plans = s.plans ∧ SameMemory s t ∧ ∀ d : CoreId, d ≠ c → t.cores[d] = s.cores[d] := by
  obtain ⟨e, he⟩ := brings_reply hv hB
  obtain ⟨t, ht, hN⟩ := he _ (endReply_load (s := { s with endpoint := e }) hj hc hf hq hp hi hs) (Calm.room (s := s) hcalm)
  refine ⟨t, ht, ?_, hN.out, hN.plans, ?_, fun d hd => ?_⟩
  · rw [hN.cores]
    exact modCore_cores_self { s with endpoint := e } c _
  · have kept := sameMemory_modCore { s with endpoint := e } c (Core.loaded o (f.content.drop 16 ++ more)) fun _ => rfl
    exact kept.trans hN.sameMemory
  · rw [hN.cores]
    exact modCore_other { s with endpoint := e } c d _ hd

/-! ### A request is repeated (11 R264) -/

theorem findFar_alone (hf : s.cores[c].far = [o]) (hb : o.issued = some b) : findFar s c o.seq = some (o, b) := by
  have found : [o].find? (fun x => x.seq == o.seq) = some o := List.find?_cons_of_pos (beq_self_eq_true _)
  rw [findFar, hf, found]
  dsimp only
  rw [hb]
  rfl

/-- The core after the first repetition of its only far operation. -/
def Core.repeated (o : FarOp) (k : Core) : Core := { k with far := [{ o with resends := 1 }] }.count 0x0C3 1

theorem farResend_first (hf : s.cores[c].far = [o]) (hb : o.issued = some b) (hr : o.resends = 0)
    (hbell : b + 20000 ≤ s.bell) : farResend s c o.seq
      = (s.modCore c (Core.repeated o)).emit (.farRequest o.place o.job.toNat s.cores[c].planCore o s.bell) := by
  have once : s.modCore c (fun k => { k with far := k.far.map (fun (e : FarOp) =>
      if e.id = o.id then { e with resends := e.resends + 1 } else e) }.count 0x0C3 1) = s.modCore c (Core.repeated o) := by
    refine modCore_congr ?_
    rw [hf, List.map_singleton, if_pos rfl, hr]
    rfl
  have due : o.resends < 3 ∧ b + 20000 * (o.resends + 1) ≤ s.bell := by rw [hr]; exact ⟨by decide, hbell⟩
  rw [farResend, findFar_alone hf hb]
  dsimp only
  rw [if_pos due, once]

theorem farResend_repeats (hc : Calm s) (hv : serving s = true) (hf : s.cores[c].far = [o]) (hb : o.issued = some b)
    (hr : o.resends = 0) (hbell : b + 20000 ≤ s.bell) :
    ∃ t, exec (.farResend c o.seq) s = .next t
      ∧ t.out = s.out ++ [.farRequest o.place o.job.toNat s.cores[c].planCore o s.bell]
      ∧ t.cores[c].far = [{ o with resends := 1 }] ∧ t.cores[c].regs = s.cores[c].regs
      ∧ (∀ d : CoreId, d ≠ c → t.cores[d] = s.cores[d]) ∧ t.plans = s.plans ∧ SameMemory s t := by
  have body := farResend_first hf hb hr hbell
  obtain ⟨t, ht, hN⟩ := happen_noted s (fun s => farResend s c o.seq) hv (by rw [body]; exact Calm.room (s := s) hc)
  rw [body] at hN
  have self : t.cores[c] = s.cores[c].repeated o := by
    rw [hN.cores]
    exact modCore_cores_self s c _
  refine ⟨t, ht, hN.out, by rw [self]; rfl, by rw [self]; rfl, fun d hd => ?_, hN.plans, ?_⟩
  · rw [hN.cores]
    exact modCore_other s c d _ hd
  · exact (sameMemory_modCore s c (Core.repeated o) fun _ => rfl).trans
      ((sameMemory_kept rfl rfl rfl : SameMemory (s.modCore c (Core.repeated o)) _).trans hN.sameMemory)

/-! ### The target is given up (11 R264; 13 R308, R309) -/

/-- A job fault of a plan that is not torn down: its cores stop, and its entry is fenced for the fault's status. -/
theorem jobFault_stepped (hr : Room s) (hp : s.plans[i] = some p) (ht : p.teardownCause = none) (st pc : Nat)
    (r : FaultRec) : ∃ bell, Stepped 2 i Core.stop id s (jobFault s i st pc r) (p.fenced st bell) := by
  obtain ⟨b, hb⟩ : ∃ b, jobFault s i st pc r = fenceJob (if p.jobId = 0 then journalPlan s i 0x0806 b
      else sendControl (journalPlan s i 0x0806 b) (reeves (journalPlan s i 0x0806 b)) 0x20 p.jobId st []) i st := by
    refine ⟨jobFaultPayload st p.step (if r = FaultRec.reset then 0 else p.attempt) pc r, ?_⟩
    simp only [jobFault, hp, ht, Option.isSome_none, Bool.false_eq_true, if_false]
  have recorded := (journalPlan_reports hr i 0x0806 b).1.stepped hp
  generalize journalPlan s i 0x0806 b = u at hb recorded
  have told : Stepped 0 i id id u (if p.jobId = 0 then u else sendControl u (reeves u) 0x20 p.jobId st []) p := by
    split
    · exact stepped_aside recorded.plan rfl ⟨rfl, Nat.le_refl _⟩
    · exact stepped_aside recorded.plan rfl ⟨rfl, Nat.le_refl _⟩
  rw [hb]
  exact ⟨_, (recorded.trans told).trans (fenceJob_stepped st told.plan ht)⟩

/-- The core that takes a fault which stops its plan. -/
def Core.faulted (r : FaultRec) (k : Core) : Core := { k.discardAhead with fault := r, view := none }.stop

theorem faulted_plan (r : FaultRec) (k : Core) : (k.faulted r).plan = k.plan := rfl
theorem faulted_sram (r : FaultRec) (k : Core) : (k.faulted r).sram = k.sram := rfl
theorem faulted_stop (r : FaultRec) (k : Core) :
    (k.faulted r).stop.run = .stopped ∧ (k.faulted r).stop.far = [] ∧ (k.faulted r).stop.fault = r := ⟨rfl, rfl, rfl⟩

theorem votesReplay_targetLost (h : p.corruptMark = false) : votesReplay p codeTargetLost = false := by
  simp [votesReplay, h, codeTargetLost, codeDataLost, codeTargetFenced]

theorem coreFaultAct_stops {r : FaultRec} (hp : s.plans[i] = some p) (ht : p.teardownCause = none)
    (hr : votesReplay p r.status = false) :
    ∃ pc, coreFaultAct s c i r = jobFault (s.modCore c (Core.faulted r)) i r.status pc r := by
  have kept : (s.modCore c (fun k => { k.discardAhead with fault := r, view := none })).plans[i] = some p := hp
  unfold coreFaultAct
  dsimp only
  rw [kept]
  simp only [ht, hr, Option.isSome_none, Bool.false_eq_true, if_false, modCore_modCore]
  exact ⟨_, rfl⟩

/-- The record of a target that is given up. -/
def lostFault (bell : Bell) (p : Plan) (o : FarOp) : FaultRec :=
  ⟨bell, p.step, o.bundle, codeTargetLost, o.op, o.reg, 3, 0, 5, o.addr⟩

/-- What the journal keeps of it. -/
def lostPayload (k : Core) (o : FarOp) : Bytes :=
  leBytes 4 o.place.toNat ++ leBytes 2 k.planCore ++ leBytes 2 o.seq.toNat ++ leBytes 8 o.addr

/-- The core's far operation is gone. -/
def Core.without (o : FarOp) (k : Core) : Core := { k with far := k.far.filter (fun e => e.id != o.id) }

theorem targetLost_faults (hf : s.cores[c].far = [o]) (hb : o.issued = some b) (hbell : b + 80000 ≤ s.bell)
    (hpl : s.cores[c].plan = some i) (hp : s.plans[i] = some p) (hr : Room s) :
    ∃ u, Reported 2 [] s u ∧ targetLost s c o.seq
      = attend (u.modCore c (Core.without o)) (coreFaultAct (u.modCore c (Core.without o)) c i (lostFault s.bell p o)) := by
  have rep := (journalPlan_reports hr i 0x0502 (lostPayload s.cores[c] o)).1
  refine ⟨_, rep, ?_⟩
  rw [targetLost, findFar_alone hf hb, hpl]
  dsimp only
  rw [if_pos hbell]
  change coreFault ((journalPlan s i 0x0502 (lostPayload s.cores[c] o)).modCore c (Core.without o)) c codeTargetLost o.bundle
    o.op o.reg 3 0 5 o.addr none = _
  generalize journalPlan s i 0x0502 _ = u at rep ⊢
  have held : (u.modCore c (Core.without o)).cores[c].plan = some i := by
    rw [modCore_cores_self, rep.1]
    exact hpl
  have bell : u.bell = s.bell := by rw [rep.1]
  have plan : u.plans[i] = some p := by rw [rep.plans, hp]
  unfold coreFault coreFaultBy
  rw [held, lostFault, ← bell]
  simp only [planStep, State.modCore_plans, plan]
  rfl

/-- What the fault of a target that is given up makes of the state, before attention is raised. -/
theorem targetLost_stepped (hc : Calm s) (hf : s.cores[c].far = [o]) (hb : o.issued = some b)
    (hbell : b + 80000 ≤ s.bell) (hpl : s.cores[c].plan = some i) (hp : s.plans[i] = some p)
    (ht : p.teardownCause = none) (hm : p.corruptMark = false) :
    ∃ old v w bell, targetLost s c o.seq = attend old w ∧ Stepped 2 i Core.stop id v w (p.fenced codeTargetLost bell)
      ∧ v.cores[c] = (s.cores[c].without o).faulted (lostFault s.bell p o) ∧ v.plans = s.plans ∧ SameMemory s v
      ∧ v.journal.mode = s.journal.mode ∧ v.journal.records.length ≤ s.journal.records.length + 2 := by
  obtain ⟨u, rep, body⟩ := targetLost_faults hf hb hbell hpl hp hc.room
  have room : Room u := hc.room_after rep (by omega)
  have plan : u.plans[i] = some p := by rw [rep.plans, hp]
  have cores : u.cores = s.cores := by rw [rep.1]
  have removed : SameMemory u (u.modCore c (Core.without o)) := sameMemory_modCore u c (Core.without o) fun _ => rfl
  obtain ⟨pc, acted⟩ := coreFaultAct_stops (s := u.modCore c (Core.without o)) (c := c) (r := lostFault s.bell p o) plan ht
    (votesReplay_targetLost hm)
  obtain ⟨bell, stepped⟩ := jobFault_stepped
    (s := (u.modCore c (Core.without o)).modCore c (Core.faulted (lostFault s.bell p o)))
    room plan ht codeTargetLost pc (lostFault s.bell p o)
  refine ⟨_, _, _, bell, body.trans (congrArg _ acted), stepped, ?_, rep.plans, ?_, rep.2⟩
  · rw [modCore_cores_self, modCore_cores_self, cores]
  · exact (rep.sameMemory.trans removed).trans (sameMemory_modCore _ c _ (faulted_sram _))

theorem targetLost_stops (hc : Calm s) (hv : serving s = true) (hf : s.cores[c].far = [o]) (hb : o.issued = some b)
    (hbell : b + 80000 ≤ s.bell) (hpl : s.cores[c].plan = some i) (hp : s.plans[i] = some p)
    (ht : p.teardownCause = none) (hm : p.corruptMark = false) :
    ∃ t, exec (.targetLost c o.seq) s = .next t
      ∧ t.cores[c].run = .stopped ∧ t.cores[c].far = []
      ∧ t.cores[c].fault = ⟨s.bell, p.step, o.bundle, 0x5001, o.op, o.reg, 3, 0, 5, o.addr⟩
      ∧ (∃ q, t.plans = s.plans.set i (some q) ∧ q.teardownCause = some 0x5001) ∧ SameMemory s t := by
  obtain ⟨old, v, w, bell, body, stepped, core, plans, memory, mode, length⟩ :=
    targetLost_stepped hc hf hb hbell hpl hp ht hm
  have held : v.cores[c].plan = some i := by rw [core, faulted_plan]; exact hpl
  have stopped := stepped.cores c
  rw [if_pos held, core] at stopped
  obtain ⟨run, far, fault⟩ := faulted_stop (lostFault s.bell p o) (s.cores[c].without o)
  obtain ⟨mode', length'⟩ := stepped.journal
  obtain ⟨calm, short⟩ := hc
  have noted : Noted w (attend old w) := attend_noted _ _ ⟨(mode'.trans mode).trans calm, by omega⟩
  refine ⟨attend old w, ?_, ?_, ?_, ?_, ⟨p.fenced codeTargetLost bell, ?_, rfl⟩, ?_⟩
  · show execTargetLost c o.seq s = _
    rw [execTargetLost, if_pos hv, body]
  · rw [noted.cores, stopped, run]
  · rw [noted.cores, stopped, far]
  · rw [noted.cores, stopped, fault]
    rfl
  · rw [noted.plans, stepped.plans, plans]
  · exact (memory.trans (stepped.sameMemory fun _ => rfl)).trans noted.sameMemory

end

end Sys2Proof.Machine
end

section
/-! The endpoint of far operations and their source (11 R254-R264; 09 R206). -/

open Sys2Proof Sys2Proof.Machine

/-- Settles O43: each request is served by the target's checks on a state that reads and writes its region as `s` does; a
repetition finds its slot; and the source's reply, repetition and loss each change its core alone, or stop its plan. That
lone halves are held, and that a CONTINUE is matched by the names of its frames, are the model's choices
(notes/assumptions/29.md, 42.md). -/
theorem farOperations : Obligations.FarOperations := by
  intro s hc hv
  refine ⟨fun f more cmd hB => ⟨fun i p n e hj ht hfull hg hi => ?request, ?outside⟩, ?half, ?timeout, ?free, ?reply,
    ?resend, ?lost⟩
  case request =>
    have whole := meets hB rfl hj ht hfull
    have read (ho : (farReq f more).op = 1) : Meets s cmd (farReq f more) i p :=
      whole fun hw => absurd ho (by simpa [FarReq.isWrite] using hw)
    exact ⟨fun ho hk hl bs hr => (read ho).load hc hv hg hi ho hk hl hr,
      fun ho hk => (read ho).wrongKey hc hv hg ho hk,
      fun _ hold hn hk =>
        ⟨fun ho hl u hw => (whole fun _ => hold).store hc hv hg hi hn ho hk hl hw,
         fun ho hl hal u hw => (whole fun _ => hold).flag hc hv hg hi hn ho hk hl hal hw,
         fun ho hl hlegal hsole hal bs u hr hw =>
          (whole fun _ => hold).atomic hc hv hg hi hn ho hk hl hlegal hsole hal hr hw⟩,
      fun ho hold c k hn hs hq hb => (whole fun _ => hold).repetition hc hv ho hn hs hq hb⟩
  case outside => exact fun ho hj hfull hg => load_outside hB hc hv rfl ho hj hfull hg
  case half => exact fun g hh i hi => lone_half_held hc hv hh hi
  case timeout => exact continueTimeout_discards hc hv
  case free => exact fun job place core k hk hj hp hco hold hw => replayCacheFree_frees hc hv hk hj hp hco hold hw
  case reply =>
    intro f more cmd i p c o hB hj hphys hf hq hp hi ho hreg hlen hview hs
    obtain ⟨t, ht, core, out, plans, memory, others⟩ := reply_completes hc hv hB hj hphys hf hq hp hi hs
    refine ⟨t, ht, ?_⟩
    rw [core]
    exact ⟨rfl, out, plans, memory, others, loaded_regs_frame ho hreg _ _, fun n hn hne => loaded_reg_other ho hreg _ _ hn hne,
      loaded_reg_low ho hreg _ _ hlen, fun b hb hb' => loaded_reg_high ho hreg _ _ hb hb'⟩
  case resend => exact fun c o b hf hi hr hb => farResend_repeats hc hv hf hi hr hb
  case lost => exact fun c o b i p hf hi hb hpl hp ht hm => targetLost_stops hc hv hf hi hb hpl hp ht hm

end

section
/-! SUPPORT. The summaries of a second (10 R237; 11 R253, R268; 20 R441) and the health record's write (16 R371): what each
event does before an interval ends and at its end, and where the bytes of the record come to stand. -/

namespace Sys2Proof.Machine
open Sys2Proof

section
variable {s : State}

/-! ### An interval and the one record of it -/

/-- An event that changes nothing of a module in service leaves its state as it is. -/
theorem happen_unchanged {body : State → State} (hb : body s = s) : ∃ t, happen s body = .next t ∧ t = s :=
  ⟨s, by simp only [happen, hb, attend_self, ite_self], rfl⟩

/-- A summary, written or left out, leaves room for the REFUSAL_MODE record. -/
theorem summary_room (hc : Calm s) (skip : Prop) [Decidable skip] (type : Nat) (b : Bytes) :
    Room (if skip then s else journalRaw s type 0 0 0xFF b) := by
  split
  · exact hc.room
  · obtain ⟨_, _, _, -, room⟩ := calm_raw hc
    exact room

/-! ### Corrected errors (20 R441) -/

theorem correctedSummary_early (h : s.bell < s.counting.correctedStart + 1000000000) : correctedSummary s = s := if_pos h

/-- At the end of an interval the counts of it, where any is not zero, are one record, and counting starts again. -/
theorem correctedSummary_due (h : s.counting.correctedStart + 1000000000 ≤ s.bell) :
    correctedSummary s =
      let j := if ∀ n : Fin 7, s.counting.corrected[n] = 0 then s
        else journalRaw s 0x0807 0 0 0xFF (leBytes 8 s.counting.correctedStart ++ s.counting.corrected.toList.flatMap (leBytes 4))
      { j with counting := { j.counting with
          corrected := .replicate 7 0, correctedStart := s.bell / 1000000000 * 1000000000 } } := by
  have zero : (s.counting.corrected.toList.all (· == 0)) = true ↔ ∀ n : Fin 7, s.counting.corrected[n] = 0 := by
    simp [Fin.forall_iff]
  simp only [correctedSummary, if_neg (Nat.not_lt.mpr h), zero]

theorem correctedSummary_room (hc : Calm s) : Room (correctedSummary s) := by
  unfold correctedSummary
  dsimp only
  split
  exacts [hc.room, summary_room hc ..]

/-! ### Refusals (10 R237) -/

theorem refusalSummary_early (h : s.bell < s.adm.secondStart + 1000000000) : refusalSummary s = s := if_pos h

theorem refusalSummary_none (h : s.adm.secondStart + 1000000000 ≤ s.bell) (hn : s.adm.byCode = []) :
    refusalSummary s = { s with adm := { s.adm with
      byCode := [], byRing := [], secondStart := s.bell / 1000000000 * 1000000000 } } := by
  simp [refusalSummary, Nat.not_lt.mpr h, hn]

/-- One pair is followed by pairs of zeros. -/
theorem padPairs_one (n : Nat) (e : Nat × Nat) : padPairs (n + 1) [e] = e :: List.replicate n (0, 0) := by
  simp [padPairs]

/-- One code and one ring: each fills the first pair of its part of the record. -/
theorem refusalSummary_one (hc : Calm s) (h : s.adm.secondStart + 1000000000 ≤ s.bell) {code n ring m : Nat}
    (hn : s.adm.byCode = [(code, n)]) (hm : s.adm.byRing = [(ring, m)]) :
    refusalSummary s =
      { journalRaw s 0x0303 0 0 0xFF (leBytes 8 s.adm.secondStart ++ (leBytes 2 code ++ leBytes 4 n ++ leBytes 66 0)
          ++ (leBytes 2 ring ++ leBytes 4 m ++ leBytes 54 0)) with
        adm := { s.adm with byCode := [], byRing := [], secondStart := s.bell / 1000000000 * 1000000000 } } := by
  have codes : (List.replicate 11 (0, 0)).flatMap (fun e : Nat × Nat => leBytes 2 e.1 ++ leBytes 4 e.2) = leBytes 66 0 := by decide
  have rings : (List.replicate 9 (0, 0)).flatMap (fun e : Nat × Nat => leBytes 2 e.1 ++ leBytes 4 e.2) = leBytes 54 0 := by decide
  have adm (b : Bytes) : (journalRaw s 0x0303 0 0 0xFF b).adm = s.adm := by
    obtain ⟨_, _, _, e, -⟩ := calm_raw (t := 0x0303) (j := 0) (m := 0) (p := 0xFF) (b := b) hc
    rw [e]
  simp only [refusalSummary, if_neg (Nat.not_lt.mpr h), hn, hm, List.mergeSort_singleton, padPairs_one 11, padPairs_one 9,
    List.flatMap_cons, codes, rings, List.isEmpty_cons, Bool.false_eq_true, if_false, adm]

theorem refusalSummary_room (hc : Calm s) : Room (refusalSummary s) := by
  unfold refusalSummary
  dsimp only
  split
  exacts [hc.room, summary_room hc ..]

/-! ### Drops (11 R253, R268) -/

theorem dropSummary_early (h : s.bell < s.endpoint.dropStart + 1000000000) : dropSummary s = s := if_pos h

theorem dropSummary_none (h : s.endpoint.dropStart + 1000000000 ≤ s.bell) (hn : s.endpoint.drops = []) :
    dropSummary s = { s with endpoint := { s.endpoint with
      drops := [], dropStart := s.bell / 1000000000 * 1000000000 } } := by
  simp [dropSummary, Nat.not_lt.mpr h, hn]

/-- Drops of one job for the first reason: the counts of the other two reasons are zero. -/
theorem dropSummary_one (hc : Calm s) (h : s.endpoint.dropStart + 1000000000 ≤ s.bell) {job n : Nat}
    (hn : s.endpoint.drops = [(1, job, n)]) :
    dropSummary s =
      { journalRaw s 0x0504 0 0 0xFF (leBytes 4 n ++ leBytes 8 0 ++ leBytes 2 job ++ leBytes 4 n) with
        endpoint := { s.endpoint with drops := [], dropStart := s.bell / 1000000000 * 1000000000 } } := by
  have others : leBytes 8 0 = leBytes 4 0 ++ leBytes 4 0 := by decide
  have endpoint (b : Bytes) : (journalRaw s 0x0504 0 0 0xFF b).endpoint = s.endpoint := by
    obtain ⟨_, _, _, e, -⟩ := calm_raw (t := 0x0504) (j := 0) (m := 0) (p := 0xFF) (b := b) hc
    rw [e]
  simp [dropSummary, Nat.not_lt.mpr h, hn, endpoint, others]

theorem dropSummary_room (hc : Calm s) : Room (dropSummary s) := by
  unfold dropSummary
  dsimp only
  split
  exacts [hc.room, summary_room hc ..]

/-! ### The health record (16 R371) -/

/-- The record once the entries that wait have entered it. -/
def HealthRec.entered (h : HealthRec) : HealthRec :=
  { h with generation := h.generation + 1, entries := h.entries ++ h.pending, pending := [] }

/-- A write of the record changes the flash alone. -/
theorem writeHealth_flash (s : State) (h : HealthRec) (ok : BitVec 4) : ∃ f, writeHealth s h ok = { s with flash := f } := by
  unfold writeHealth
  generalize healthCopies.zipIdx.filter _ = l
  induction l generalizing s with
  | nil => exact ⟨_, rfl⟩
  | cons e l ih =>
    obtain ⟨f, hf⟩ := ih (flashWrite s e.1.1 e.1.2 (healthBytes h))
    exact ⟨f, hf⟩

theorem writeHealth_none (s : State) (h : HealthRec) : writeHealth s h 0 = s := rfl

/-- Both copies of each device take the record where all four writes succeed. -/
theorem writeHealth_all (s : State) (h : HealthRec) (dev : Fin 2) :
    (writeHealth s h 0xF).flash[dev]
      = memWrite 0xFF (memWrite 0xFF s.flash[dev] 0x02250000 (healthBytes h)) 0x02270000 (healthBytes h) := by
  have all : healthCopies.zipIdx.filter (fun e => (0xF : BitVec 4).getLsbD e.2) = healthCopies.zipIdx := by decide
  rw [writeHealth, all]
  match dev with
  | 0 => simp [healthCopies, flashWrite]
  | 1 => simp [healthCopies, flashWrite]

/-- The two copies of a device stand side by side: a record that fits one region reads back from either. -/
theorem memGet_copies {m : Mem} {bs : Bytes} (hw : memWf 0xFF m = true) (hl : bs.length ≤ 0x20000) {a n : Nat}
    (ha : a ∈ [0x02250000, 0x02270000]) {x : Byte} (hx : bs[n]? = some x) :
    memGet 0xFF (memWrite 0xFF (memWrite 0xFF m 0x02250000 bs) 0x02270000 bs) (a + n) = x := by
  obtain ⟨hn, -⟩ := List.getElem?_eq_some_iff.mp hx
  rw [memGet_memWrite _ _ _ (memWrite_wf _ _ hw), memGet_memWrite _ _ _ hw]
  simp only [List.mem_cons, List.not_mem_nil, or_false] at ha
  obtain rfl | rfl := ha
  · rw [if_neg (by omega), if_pos (by omega)]
    simp [hx]
  · rw [if_pos (by omega)]
    simp [hx]

theorem healthWrite_idle (hp : s.health.pending = []) (ok : BitVec 4) : healthWrite s ok = s := by
  simp [healthWrite, hp]

/-- A write is followed by one record, of a failure where no copy was written. -/
theorem healthWrite_recorded (hp : s.health.pending ≠ []) (h6 : 6 ≤ s.mod.startStep) (ok : BitVec 4) :
    ∃ b, healthWrite s ok = journalRaw (writeHealth { s with health := s.health.entered } s.health.entered ok)
      (if ok = 0 then 0x0104 else 0x0103) 0 0 0xFF b := by
  have due : (s.health.pending.isEmpty || decide (s.mod.startStep < 6)) = false := by simp [hp, h6]
  simp only [healthWrite, due, Bool.false_eq_true, if_false]
  split
  · exact ⟨_, rfl⟩
  · exact ⟨_, rfl⟩

/-- HEALTH_WRITE enters the entries that wait, whatever copies are written. -/
theorem exec_healthWrite_enters (hc : Calm s) (hp : s.health.pending ≠ []) (h6 : 6 ≤ s.mod.startStep) (ok : BitVec 4) :
    ∃ t, exec (.healthWrite ok) s = .next t ∧ t.health = s.health.entered ∧ t.plans = s.plans
      ∧ t.flash = (writeHealth { s with health := s.health.entered } s.health.entered ok).flash
      ∧ Holds t (if ok = 0 then 0x0104 else 0x0103) s.bell := by
  obtain ⟨b, recorded⟩ := healthWrite_recorded hp h6 ok
  obtain ⟨f, written⟩ := writeHealth_flash { s with health := s.health.entered } s.health.entered ok
  rw [written] at recorded ⊢
  generalize hu : ({ s with health := s.health.entered, flash := f } : State) = u at recorded ⊢
  have calm : Calm u := by subst hu; exact hc
  generalize (if ok = 0 then 0x0104 else 0x0103) = type at recorded ⊢
  obtain ⟨c, j, n, raw, room⟩ := calm_raw (t := type) (j := 0) (m := 0) (p := 0xFF) (b := b) calm
  have noted := attend_noted s _ room
  have held := noted.holds (journalRaw_holds calm.room type 0 0 0xFF b)
  rw [← recorded] at noted held
  rw [← recorded] at raw
  refine ⟨attend s (healthWrite s ok), rfl, ?_, ?_, ?_, ?_⟩
  · rw [noted.1, raw, ← hu]
  · rw [noted.1, raw, ← hu]
  · rw [noted.1, raw, ← hu]
  · rw [← hu] at held; exact held

end

end Sys2Proof.Machine
end

section
/-! The summaries of a second and the health record's write (10 R237; 11 R253, R268; 16 R371; 20 R441). -/

open Sys2Proof Sys2Proof.Machine

/-- Settles O53: each summary is left out before its second ends and is then one record of what was counted; a write of the
health record enters the entries that wait, and where it succeeds both copies of each device read back as the record. That
the generation rises though no copy was written, and the numbers of the reasons for a drop, are the model's choices
(notes/assumptions/41.md, 28.md). -/
theorem summaries : Obligations.Summaries := by
  unfold Obligations.Summaries
  intro s hc hs
  refine ⟨⟨?correctedEarly, fun due => ?corrected, ?refusalEarly, fun due => ?refusal, ?dropEarly, fun due => ?drop⟩,
    fun hp h6 => ⟨?failed, fun w0 w1 => ?written⟩, fun hp ok => ?idle⟩
  case correctedEarly => exact fun early => happen_unchanged (correctedSummary_early early)
  case corrected =>
    obtain ⟨t, ht, noted⟩ := happen_noted s correctedSummary hs (correctedSummary_room hc)
    rw [correctedSummary_due due] at noted
    refine ⟨t, ht, fun zero => ?_, fun counted => ?_⟩
    · rwa [if_pos zero] at noted
    · rwa [if_neg (not_forall.mpr counted)] at noted
  case refusalEarly => exact fun early => happen_unchanged (refusalSummary_early early)
  case refusal =>
    obtain ⟨t, ht, noted⟩ := happen_noted s refusalSummary hs (refusalSummary_room hc)
    refine ⟨t, ht, fun empty => ?_, fun code n ring m hn hm => ?_⟩
    · rwa [refusalSummary_none due empty] at noted
    · rwa [refusalSummary_one hc due hn hm] at noted
  case dropEarly => exact fun early => happen_unchanged (dropSummary_early early)
  case drop =>
    obtain ⟨t, ht, noted⟩ := happen_noted s dropSummary hs (dropSummary_room hc)
    refine ⟨t, ht, fun empty => ?_, fun job n hn => ?_⟩
    · rwa [dropSummary_none due empty] at noted
    · rwa [dropSummary_one hc due hn] at noted
  case failed =>
    obtain ⟨t, ht, health, plans, flash, held⟩ := exec_healthWrite_enters hc hp h6 0
    rw [writeHealth_none] at flash
    exact ⟨t, ht, health, flash, plans, held⟩
  case written =>
    obtain ⟨t, ht, health, plans, flash, held⟩ := exec_healthWrite_enters hc hp h6 0xF
    have wf (dev : Fin 2) : memWf 0xFF s.flash[dev] = true := by
      match dev with
      | 0 => exact w0
      | 1 => exact w1
    refine ⟨t, ht, health, plans, fun dev a ha n x hx hl => ?_, held⟩
    rw [flash, writeHealth_all]
    exact memGet_copies (wf dev) hl ha hx
  case idle =>
    refine ⟨s, ?_, rfl⟩
    show execHealthWrite ok s = _
    rw [execHealthWrite, healthWrite_idle hp, attend_self]

end

section
/-! SUPPORT. The fabric ports (11 R249-R253): what an event of the links leaves alone, the frame that a port sends at once, the
frames that it sends again, and where a frame is routed. -/

namespace Sys2Proof.Machine
open Sys2Proof

section
variable {s t u : State} {m n : Nat} {p q : Fin 32} {f : Frame} {a : Option (Fin 32)}

/-! ### What an event of the links leaves alone -/

/-- From `s` to `t` nothing changes but the ports, the endpoint's counts, the error of the bell, free values and what the
module reports; the journal gains at most `n` records. -/
structure LinksOnly (n : Nat) (s t : State) : Prop where
  kept : t = { s with ports := t.ports, endpoint := t.endpoint, timeError := t.timeError, out := t.out, free := t.free,
                      journal := t.journal, counting := t.counting }
  journal : t.journal.mode = s.journal.mode ∧ t.journal.records.length ≤ s.journal.records.length + n

/-- The same, of the ports only `p` changing. -/
structure OnlyPort (n : Nat) (p : Fin 32) (s t : State) : Prop extends LinksOnly n s t where
  others : ∀ q : Fin 32, q ≠ p → t.ports[q] = s.ports[q]

theorem LinksOnly.trans (h : LinksOnly m s u) (h' : LinksOnly n u t) : LinksOnly (m + n) s t where
  kept := by rw [h'.kept, h.kept]
  journal := by
    obtain ⟨hm, hl⟩ := h.journal
    obtain ⟨hm', hl'⟩ := h'.journal
    exact ⟨hm'.trans hm, by omega⟩

theorem OnlyPort.trans (h : OnlyPort m p s u) (h' : OnlyPort n p u t) : OnlyPort (m + n) p s t where
  toLinksOnly := h.toLinksOnly.trans h'.toLinksOnly
  others q hq := (h'.others q hq).trans (h.others q hq)

theorem LinksOnly.room (h : LinksOnly n s t) (hc : Calm s) (hn : n ≤ 200) : Room t := by
  obtain ⟨hm, hl⟩ := h.journal
  obtain ⟨cm, cl⟩ := hc
  exact ⟨hm.trans cm, by omega⟩

theorem LinksOnly.plans (h : LinksOnly n s t) : t.plans = s.plans := by rw [h.kept]

theorem LinksOnly.memory (h : LinksOnly n s t) : SameMemory s t :=
  sameMemory_kept (by rw [h.kept]) (by rw [h.kept]) (by rw [h.kept])

theorem Reported.onlyPort {o : List Out} (h : Reported n o s t) (p : Fin 32) : OnlyPort n p s t where
  kept := by rw [h.1]
  journal := h.2
  others q _ := by rw [h.1]

theorem emit_onlyPort (s : State) (p : Fin 32) (o : Out) : OnlyPort 0 p s (s.emit o) := (emit_reported s o).onlyPort p

theorem modPort_self (s : State) (p : Fin 32) (g : Port → Port) : (s.modPort p g).ports[p] = g s.ports[p] := by simp

theorem modPort_other (s : State) (g : Port → Port) (h : q ≠ p) : (s.modPort p g).ports[q] = s.ports[q] := by
  simp [Fin.val_inj, h.symm]

theorem modPort_onlyPort (s : State) (p : Fin 32) (g : Port → Port) : OnlyPort 0 p s (s.modPort p g) where
  kept := rfl
  journal := ⟨rfl, Nat.le_refl _⟩
  others _ h := modPort_other s g h

theorem Noted.ports (h : Noted s t) : t.ports = s.ports := by rw [h.1]

/-- An event of the links of a module in service. -/
theorem linkEvent_noted {body : State → State} (hv : serving s = true) (hb : body s = u) (h : Room u) :
    ∃ t, linkEvent s body = .next t ∧ Noted u t := by
  subst hb
  refine ⟨_, ?_, attend_noted s (body s) h⟩
  simp [linkEvent, carries, hv]

/-- An event that changes one port alone: what it leaves alone stands beside what it does. -/
theorem linkEvent_onlyPort {body : State → State} (hc : Calm s) (hv : serving s = true) (hb : body s = u)
    (h : OnlyPort n p s u) (hn : n ≤ 200) :
    ∃ t, linkEvent s body = .next t ∧ Noted u t
      ∧ (∀ q : Fin 32, q ≠ p → t.ports[q] = s.ports[q]) ∧ t.plans = s.plans ∧ SameMemory s t := by
  obtain ⟨t, ht, noted⟩ := linkEvent_noted hv hb (h.room hc hn)
  refine ⟨t, ht, noted, fun q hq => ?_, noted.plans.trans h.plans, h.memory.trans noted.sameMemory⟩
  rw [noted.ports]
  exact h.others q hq

/-! ### A frame that a port sends at once (11 R249, R250) -/

theorem cls_lt (h : f.cls ≠ 3) : f.cls.toNat < 3 := by
  have := f.cls.isLt
  have : f.cls.toNat ≠ 3 := fun e => h (BitVec.eq_of_toNat_eq e)
  omega

theorem ready_alone {k : Port} {e : Queued} (hq : k.queue = [e]) (hs : k.canSend e.frame = true) (c : Nat) :
    k.ready c = if e.frame.cls.toNat = c then some e else none := by
  simp [Port.ready, hq, hs]

/-- A frame that waits alone is granted, of whatever class it is. -/
theorem grant_alone {k : Port} {e : Queued} (hq : k.queue = [e]) (hs : k.canSend e.frame = true) (hc : e.frame.cls ≠ 3) :
    k.grant = some e := by
  have lt := cls_lt hc
  have some_else (c : Prop) [Decidable c] : (if c then some e else none).getD e = e := by split <;> rfl
  obtain h | h | h : e.frame.cls.toNat = 0 ∨ e.frame.cls.toNat = 1 ∨ e.frame.cls.toNat = 2 := by omega
  all_goals simp [Port.grant, ready_alone hq hs, h, some_else]

/-- The sealed content and tag of the frame that a port sends next. -/
def Port.nextBody (k : Port) (f : Frame) : Bytes := sealFrame (linkRekey k.keyTx (k.txCount + 1)) (k.txCount + 1) f

/-- From `s` to `t` port `p` has sent a frame, with its next count, for one credit, and keeps it for a replay. -/
structure SendsFrame (p : Fin 32) (f : Frame) (a : Option (Fin 32)) (s t : State) : Prop where
  only : OnlyPort 0 p s t
  out : t.out = s.out ++ [.port p (wireOf f (s.ports[p].nextBody f) (s.ports[p].linkField (s.ports[p].txCount + 1)))]
  port : t.ports[p] = { s.ports[p] with
    txCount := s.ports[p].txCount + 1, keyTx := linkRekey s.ports[p].keyTx (s.ports[p].txCount + 1),
    replayBuf := s.ports[p].replayBuf ++ [⟨s.ports[p].txCount + 1, f, a, s.ports[p].nextBody f, s.bell, 0⟩],
    credits := s.ports[p].credits.setIfInBounds f.cls.toNat (s.ports[p].credit f - 1),
    counters := t.ports[p].counters, since1 := t.ports[p].since1, since2 := t.ports[p].since2, bwTx := t.ports[p].bwTx }

theorem transmit_sends (s : State) (p : Fin 32) (f : Frame) (a : Option (Fin 32)) :
    SendsFrame p f a s (transmit s p ⟨f, a⟩) where
  only := (modPort_onlyPort s p _).trans (emit_onlyPort _ p _)
  out := rfl
  port := by
    rw [transmit, State.emit_ports, modPort_self]
    rfl

/-- The grants counted since another class's are no part of what a frame sent shows. -/
theorem SendsFrame.after_grant {k : Port} (hk : k = { s.ports[p] with since1 := k.since1, since2 := k.since2 })
    (h : SendsFrame p f a (s.modPort p (fun _ => k)) t) : SendsFrame p f a s t := by
  obtain ⟨only, out, port⟩ := h
  rw [modPort_self, hk] at out port
  exact ⟨(modPort_onlyPort s p _).trans only, out, port⟩

theorem modPort_modPort (s : State) (p : Fin 32) (g g' : Port → Port) :
    (s.modPort p g).modPort p g' = s.modPort p (fun _ => g' (g s.ports[p])) := by
  simp [State.modPort]

/-- A port without frames that wait, which may send this one. -/
structure ReadyFor (k : Port) (f : Frame) : Prop where
  up : k.state = 2
  queue : k.queue = []
  replays : k.replayBuf.length < 1024
  credit : 0 < k.credit f
  cls : f.cls ≠ 3

theorem ReadyFor.canSend {k : Port} (h : ReadyFor k f) : k.canSend f = true := by simp [Port.canSend, h.up, h.replays, h.credit]

/-- A frame for a port that may send it and where no frame waits leaves at once. -/
theorem sendOn_open (h : ReadyFor s.ports[p] f) (a : Option (Fin 32)) : SendsFrame p f a s (sendOn s p f a) := by
  have queue := h.queue
  let k : Port := { s.ports[p] with queue := [⟨f, a⟩] }
  have held : (s.modPort p (fun k => { k with queue := k.queue ++ [⟨f, a⟩] })).ports[p] = k := by
    rw [modPort_self, queue, List.nil_append]
  have may : k.canSend f = true := h.canSend
  have granted : k.grant = some ⟨f, a⟩ := grant_alone rfl may h.cls
  have sent : sendOn s p f a = transmit (s.modPort p (fun _ => k.granted ⟨f, a⟩)) p ⟨f, a⟩ := by
    rw [sendOn, pump, held, List.length_singleton, pumpTimes, held, granted]
    simp only [pumpTimes, modPort_modPort]
    rw [queue, List.nil_append]
  rw [sent]
  refine (transmit_sends _ p f a).after_grant ?_
  simpa [Port.granted, k] using queue

/-! ### What a frame that has left leaves of its port -/

section
variable (h : SendsFrame p f a s t)
include h

theorem SendsFrame.txCount : t.ports[p].txCount = s.ports[p].txCount + 1 := by rw [h.port]
theorem SendsFrame.queue : t.ports[p].queue = s.ports[p].queue := by rw [h.port]
theorem SendsFrame.timeSent : t.ports[p].timeSent = s.ports[p].timeSent := by rw [h.port]
theorem SendsFrame.held : t.ports[p].replayBuf
    = s.ports[p].replayBuf ++ [⟨s.ports[p].txCount + 1, f, a, s.ports[p].nextBody f, s.bell, 0⟩] := by rw [h.port]

theorem SendsFrame.credit (hc : f.cls ≠ 3) : t.ports[p].credit f = s.ports[p].credit f - 1 := by
  have lt := cls_lt hc
  rw [h.port]
  simp [Port.credit, List.getD_eq_getElem?_getD, lt]

end

/-! ### Where a frame is routed (11 R241, R248, R251-R253) -/

/-- A fold that takes each element or leaves what it has ends with one of them. -/
theorem foldl_takes {α : Type} {step : Option α → α → Option α} (hs : ∀ b x, step b x = some x ∨ step b x = b) :
    ∀ (l : List α) (b : Option α) {e : α}, l.foldl step b = some e → b = some e ∨ e ∈ l
  | [], _, _, h => .inl h
  | x :: l, b, e, h => by
    obtain h | h := foldl_takes hs l (step b x) h
    · obtain e' | e' := hs b x
      · rw [e'] at h; cases h; exact .inr List.mem_cons_self
      · exact .inl (e' ▸ h)
    · exact .inr (List.mem_cons_of_mem _ h)

theorem leastBy_mem {g : Fin 32 → Nat} {l : List (Fin 32)} (h : leastBy g l = some p) : p ∈ l := by
  rw [leastBy] at h
  refine (foldl_takes (fun b x => ?_) l none h).resolve_left (by simp)
  cases b with
  | none => exact .inl rfl
  | some y => exact ite_eq_or_eq ..

/-- The matching entry is valid and of the frame's job. -/
theorem routeOf_mem {e : RouteEntry} (h : routeOf s f = some e) : e ∈ s.routes.toList ∧ e.valid = true ∧ e.job = f.job := by
  rw [routeOf] at h
  have takes := (foldl_takes (fun b x => ?_) _ none h).resolve_left (by simp)
  · obtain ⟨mem, takes⟩ := List.mem_filter.mp takes
    simp only [routeTakes, Bool.and_eq_true, beq_iff_eq] at takes
    obtain ⟨⟨⟨valid, job⟩, -⟩, -⟩ := takes
    exact ⟨mem, valid, job⟩
  · cases b with
    | none => exact .inl rfl
    | some y => exact ite_eq_or_eq ..

theorem mem_upPorts {pick : Fin 32 → Bool} :
    q ∈ upPorts s a pick ↔ pick q = true ∧ s.ports[q].state = 2 ∧ a ≠ some q := by
  simp [upPorts, and_assoc]

theorem upPorts_one {pick : Fin 32 → Bool} (h : upPorts s a pick = [q]) : pick q = true ∧ s.ports[q].state = 2 ∧ a ≠ some q :=
  mem_upPorts.mp (by rw [h]; exact List.mem_singleton_self q)

/-- A frame that no module refuses for its places, type or class (11 R241, R248). -/
structure LegalFrame (f : Frame) : Prop where
  dst : f.dst.toNat < 2 ^ 20
  src : f.src.toNat < 2 ^ 20
  typ : f.typ.toNat < 8
  cls : f.cls ≠ 3

/-- The neighbour rule does not take the frame (13 R297). -/
def Unneighboured (s : State) (f : Frame) : Prop :=
  ¬ (f.job = 0 ∧ f.typ = 6 ∧ (!s.routes.toList.any (fun e => e.valid && e.job == 0)) = true)

theorem unneighboured_route {e : RouteEntry} (he : routeOf s f = some e) : Unneighboured s f := by
  rintro ⟨zero, -, without⟩
  obtain ⟨mem, valid, job⟩ := routeOf_mem he
  have entry : (s.routes.toList.any (fun e => e.valid && e.job == 0)) = true :=
    List.any_eq_true.mpr ⟨e, mem, by rw [valid, job, zero]; rfl⟩
  rw [entry] at without
  cases without

/-- Where a frame goes by the route table. -/
theorem hopOf_legal (h : LegalFrame f) (hn : Unneighboured s f) :
    hopOf s f a = (routeOf s f).elim (.drop 1) (fun e =>
      if routeIsLocal s e then (if 40000 < age s f then .drop 3 else .here)
      else (fewestQueued s f (upPorts s a (fun p => e.ports.getLsbD p))).elim (.drop 2)
        (fun p => if 40000 < age s f then .drop 3 else .port p)) := by
  have places : ¬ (f.dst.toNat / 2 ^ 20 ≠ 0 ∨ f.src.toNat / 2 ^ 20 ≠ 0) := by
    have := h.dst; have := h.src; omega
  have known : ¬ (8 ≤ f.typ.toNat ∨ f.cls = 3) := not_or.mpr ⟨Nat.not_le.mpr h.typ, h.cls⟩
  rw [hopOf, if_neg places, if_neg known, if_neg hn]
  cases routeOf s f with
  | none => rfl
  | some e =>
    dsimp only [Option.elim_some]
    by_cases aged : 40000 < age s f
    · simp only [if_pos aged]
      cases fewestQueued s f (upPorts s a (fun p => e.ports.getLsbD p)) <;> rfl
    · simp only [if_neg aged]
      cases fewestQueued s f (upPorts s a (fun p => e.ports.getLsbD p)) <;> rfl

theorem hopOf_unrouted (h : LegalFrame f) (he : routeOf s f = none) (hj : f.job ≠ 0 ∨ f.typ ≠ 6) :
    hopOf s f a = .drop 1 := by
  rw [hopOf_legal h (fun ⟨zero, control, _⟩ => hj.elim (· zero) (· control)), he]
  rfl

theorem hopOf_here {e : RouteEntry} (h : LegalFrame f) (ha : age s f ≤ 40000) (he : routeOf s f = some e) (hp : e.ports = 0)
    (hl : e.level = 0) (hm : e.place.toNat = cfgPlace s) : hopOf s f a = .here := by
  have here : routeIsLocal s e = true := by simp [routeIsLocal, hp, hl, hm]
  rw [hopOf_legal h (unneighboured_route he), he, Option.elim_some, if_pos here, if_neg (Nat.not_lt.mpr ha)]

/-- The one port that is up of those that the entry names. -/
theorem hopOf_port {e : RouteEntry} (h : LegalFrame f) (ha : age s f ≤ 40000) (he : routeOf s f = some e)
    (hp : upPorts s a (fun p => e.ports.getLsbD p) = [p]) : hopOf s f a = .port p := by
  have away : ¬ routeIsLocal s e = true := fun here => by
    have named := (upPorts_one hp).1
    simp only [routeIsLocal, Bool.and_eq_true, beq_iff_eq] at here
    rw [here.1.1] at named
    simp at named
  have first : fewestQueued s f [p] = some p := rfl
  rw [hopOf_legal h (unneighboured_route he), he, Option.elim_some, if_neg away, hp, first, Option.elim_some,
    if_neg (Nat.not_lt.mpr ha)]

theorem hopOf_known (h : LegalFrame f) (hn : Unneighboured s f) : hopOf s f a ≠ .badPlace ∧ hopOf s f a ≠ .unknown := by
  rw [hopOf_legal h hn]
  cases routeOf s f with
  | none => simp
  | some e =>
    rw [Option.elim_some]
    generalize fewestQueued s f (upPorts s a (fun p => e.ports.getLsbD p)) = chosen
    cases chosen <;> split_ifs <;> simp

/-! ### Frames sent again, and what a link field does (11 R249, R250) -/

/-- A frame of the replay buffer as it leaves again: its count and content, with a new acknowledgement. -/
def Port.again (k : Port) (p : Fin 32) (e : Sent) : Out := .port p (wireOf e.frame e.body (k.linkField e.count))

/-- From `s` to `t` the frames of port `p`'s replay buffer that a test picks have left again in order, and are kept with the
bell and one replay more. -/
structure Resends (p : Fin 32) (pick : Sent → Bool) (s t : State) : Prop where
  only : OnlyPort 0 p s t
  out : t.out = s.out ++ (s.ports[p].replayBuf.filter pick).map (s.ports[p].again p)
  port : t.ports[p] = { s.ports[p] with
    replayBuf := s.ports[p].replayBuf.map (fun e => if pick e then { e with bell := s.bell, tries := e.tries + 1 } else e),
    replays := s.ports[p].replays + (s.ports[p].replayBuf.filter pick).length, counters := t.ports[p].counters }

/-- The frames leave one by one, each with the same acknowledgement. -/
theorem foldl_again_reported (p : Fin 32) (l : List Sent) (s : State) : Reported 0 (l.map (s.ports[p].again p)) s
    (l.foldl (fun s e => s.emit (.port p (wireOf e.frame e.body (s.ports[p].linkField e.count)))) s) := by
  induction l generalizing s with
  | nil => exact reported_refl s
  | cons e l ih => exact (emit_reported s (s.ports[p].again p e)).trans (ih _)

theorem replayFrames_resends (s : State) (p : Fin 32) (pick : Sent → Bool) : Resends p pick s (replayFrames s p pick) := by
  unfold replayFrames
  dsimp only
  split
  case isTrue none =>
    have none := List.isEmpty_iff.mp none
    have untouched : s.ports[p].replayBuf.map
        (fun e => if pick e then { e with bell := s.bell, tries := e.tries + 1 } else e) = s.ports[p].replayBuf :=
      (List.map_congr_left fun e he => if_neg (List.filter_eq_nil_iff.mp none e he)).trans (List.map_id _)
    refine ⟨(reported_refl s).onlyPort p, by rw [none]; simp, ?_⟩
    rw [untouched, none]
    rfl
  case isFalse =>
    have sent := foldl_again_reported p (s.ports[p].replayBuf.filter pick) (s.modPort p fun k =>
      { (k.count 0x300 (s.ports[p].replayBuf.filter pick).length).count 0x302 (s.ports[p].replayBuf.filter pick).length with
        replayBuf := k.replayBuf.map (fun e => if pick e then { e with bell := s.bell, tries := e.tries + 1 } else e)
        replays := k.replays + (s.ports[p].replayBuf.filter pick).length })
    refine ⟨(modPort_onlyPort s p _).trans (sent.onlyPort p), ?_, ?_⟩
    · rw [sent.1, modPort_self]
      rfl
    · rw [sent.1, modPort_self]
      rfl

/-- Where no frame waits, none is granted. -/
theorem pump_empty (h : s.ports[p].queue = []) : pump s p = s := by rw [pump, h]; rfl

/-- A port after the acknowledgement and the credits of a link field. -/
def Port.linked (k : Port) (l : LinkField) : Port :=
  { k with
    replayBuf := k.replayBuf.filter (fun e => !acked l.ackSeq e.count)
    credits := k.credits.setIfInBounds l.cls.toNat (min 64 (k.credits.toList.getD l.cls.toNat 0 + l.credits.toNat)) }

theorem linked_credits (k : Port) (l : LinkField) (c : Fin 3) :
    (k.linked l).credits[c] = if l.cls = BitVec.ofNat 2 c then min 64 (k.credits[c] + l.credits.toNat) else k.credits[c] := by
  have same : l.cls = BitVec.ofNat 2 c ↔ l.cls.toNat = c.val := by
    rw [← BitVec.toNat_inj, BitVec.toNat_ofNat, Nat.mod_eq_of_lt (by have := c.isLt; omega)]
  by_cases h : l.cls.toNat = c.val
  · simp [Port.linked, same, h, List.getD_eq_getElem?_getD]
  · rw [if_neg (mt same.mp h)]
    simp [Port.linked, h]

/-- A link field acts; with a NAK every frame that is left in the replay buffer leaves again. -/
theorem takeLink_empty (h : s.ports[p].queue = []) (l : LinkField) : takeLink s p l =
    if l.nak then replayFrames (s.modPort p (·.linked l)) p (fun _ => true) else s.modPort p (·.linked l) := by
  have after : ((s.modPort p (·.linked l)).ports[p]).queue = [] := by rw [modPort_self]; exact h
  show pump (if l.nak then replayFrames (s.modPort p (·.linked l)) p (fun _ => true) else s.modPort p (·.linked l)) p = _
  refine pump_empty ?_
  split
  · rw [(replayFrames_resends (s.modPort p (·.linked l)) p (fun _ => true)).port]
    exact after
  · exact after

/-- A port after a frame received in sequence. -/
def Port.received (k : Port) (f : Frame) : Port :=
  { k.count 0x301 1 with
    rxCount := k.rxCount + 1
    keyRx := linkRekey k.keyRx (k.rxCount + 1)
    bwRx := if payloadFrame f then k.bwRx + 224 else k.bwRx }

/-- The frame is acknowledged, its buffer's credit returns, and its link field acts. -/
theorem accept_eq (h : s.ports[p].queue = []) {l : LinkField} (hl : l.nak = false) (f : Frame) :
    accept s p l f = (s.modPort p (fun k => (k.received f).linked l)).emit
      (.idle p (s.ports[p].rxCount + 1) false f.cls.toNat 1) := by
  let w := (s.modPort p (·.received f)).emit (.idle p (s.ports[p].rxCount + 1) false f.cls.toNat 1)
  have queue : w.ports[p].queue = [] := by
    rw [State.emit_ports, modPort_self]
    exact h
  show takeLink w p l = _
  rw [takeLink_empty queue, if_neg (by simp [hl])]
  show ((s.modPort p (·.received f)).modPort p (·.linked l)).emit _ = _
  rw [modPort_modPort]
  rfl

/-- The port notes the bell at which a TIME frame comes. -/
theorem timeTake_onlyPort (s : State) (p : Fin 32) (f : Frame) : OnlyPort 0 p s (timeTake s p f) where
  kept := rfl
  journal := ⟨rfl, Nat.le_refl _⟩
  others _ h := modPort_other s (fun k => { k with timeReceived := s.bell }) h

theorem timeTake_port (s : State) (p : Fin 32) (f : Frame) :
    (timeTake s p f).ports[p] = { s.ports[p] with timeReceived := s.bell } :=
  modPort_self s p (fun k => { k with timeReceived := s.bell })

theorem takeFrame_idle (h : f.typ = 0) : takeFrame s p f = s := if_pos h

/-- TIME ends at the port that receives it, whatever the route table says. -/
theorem takeFrame_time (h : f.typ = 7) (hf : LegalFrame f) : takeFrame s p f = timeTake s p f := by
  have ends := hopOf_known (s := s) (a := some p) hf (fun ⟨_, control, _⟩ => by rw [h] at control; simp at control)
  rw [takeFrame, if_neg (by rw [h]; decide), if_pos h]
  cases e : hopOf s f (some p) with
  | badPlace => exact absurd e ends.1
  | unknown => exact absurd e ends.2
  | here => rfl
  | port _ => rfl
  | drop _ => rfl

theorem takeFrame_here (h0 : f.typ ≠ 0) (h7 : f.typ ≠ 7) (h : hopOf s f (some p) = .here) :
    takeFrame s p f = s.emit (.deliver f) := by
  rw [takeFrame, if_neg h0, if_neg h7, routeFrame, h]

end
end Sys2Proof.Machine
end

section
/-! SUPPORT. What FRAME_ROUTE, TIME, IDLE, LINK_ACK_TIMEOUT and TIME_SEND do (11 R246-R253, R267). -/

namespace Sys2Proof.Machine
open Sys2Proof

section
variable {s t u : State} {n o : Nat} {p q : Fin 32} {f : Frame} {wire : Bytes}

/-! ### Frames that the module issues (11 R241, R251-R253) -/

theorem frameRoute_issued (h : issuedFrame s o n = some f) (wire : Bytes) :
    frameRoute s wire (.issued o n) = routeFrame s f none := by
  simp only [frameRoute, h]

theorem exec_issued (o n : Nat) (wire : Bytes) (s : State) :
    exec (.frameRoute (.issued o n) wire) s = linkEvent s (fun s => frameRoute s wire (.issued o n)) := rfl

/-- A frame of the module's own place is delivered. -/
theorem issued_delivers {e : RouteEntry} (hc : Calm s) (hv : serving s = true) (hi : issuedFrame s o n = some f)
    (hf : LegalFrame f) (ha : age s f ≤ 40000) (he : routeOf s f = some e) (hp : e.ports = 0) (hl : e.level = 0)
    (hm : e.place.toNat = cfgPlace s) :
    ∃ t, exec (.frameRoute (.issued o n) wire) s = .next t ∧ Noted { s with out := s.out ++ [.deliver f] } t := by
  have room : Room (s.emit (.deliver f)) := hc.room
  rw [exec_issued]
  exact linkEvent_noted hv (by rw [frameRoute_issued hi, routeFrame, hopOf_here hf ha he hp hl hm]; rfl) room

/-- A frame whose route has one port that is up leaves on it. -/
theorem issued_leaves {e : RouteEntry} (hc : Calm s) (hv : serving s = true) (hi : issuedFrame s o n = some f)
    (hf : LegalFrame f) (ha : age s f ≤ 40000) (he : routeOf s f = some e)
    (hp : upPorts s none (fun q => e.ports.getLsbD q) = [p]) (ho : ReadyFor s.ports[p] f) :
    ∃ t, exec (.frameRoute (.issued o n) wire) s = .next t ∧ SendsFrame p f none s (sendOn s p f none)
      ∧ Noted (sendOn s p f none) t
      ∧ (∀ q : Fin 32, q ≠ p → t.ports[q] = s.ports[q]) ∧ t.plans = s.plans ∧ SameMemory s t := by
  have sends := sendOn_open ho none
  rw [exec_issued]
  obtain ⟨t, ht, beside⟩ := linkEvent_onlyPort (body := fun s => frameRoute s wire (.issued o n)) hc hv
    (by rw [frameRoute_issued hi, routeFrame, hopOf_port hf ha he hp]) sends.only (by omega)
  exact ⟨t, ht, sends, beside⟩

/-- The first drop is counted for its reason and job. -/
theorem issued_dropped (hc : Calm s) (hv : serving s = true) (hi : issuedFrame s o n = some f) (hf : LegalFrame f)
    (he : routeOf s f = none) (hj : f.job ≠ 0 ∨ f.typ ≠ 6) (hd : s.endpoint.drops = []) :
    ∃ t, exec (.frameRoute (.issued o n) wire) s = .next t
      ∧ Noted { s with endpoint := { s.endpoint with drops := [(1, f.job.toNat, 1)] } } t := by
  have room : Room { s with endpoint := { s.endpoint with drops := [(1, f.job.toNat, 1)] } } := hc.room
  rw [exec_issued]
  refine linkEvent_noted hv ?_ room
  rw [frameRoute_issued hi, routeFrame, hopOf_unrouted hf he hj]
  simp only [countPortDrop, countDrop, hd, List.any_nil, List.nil_append]
  rfl

/-! ### Frames received (11 R246-R249, R267) -/

theorem exec_receives {i : Instr} (h : i ∈ [Instr.frameRoute (.received p) wire, .timeFrame p wire]) (s : State) :
    exec i s = linkEvent s (fun s => receive s p wire) := by
  simp only [List.mem_cons, List.not_mem_nil, or_false] at h
  obtain rfl | rfl := h <;> rfl

/-- A NAK names the highest frame received in sequence. -/
theorem event_naks {body : State → State} (hc : Calm s) (hv : serving s = true) (h : body s = sendNak s p) :
    ∃ t, linkEvent s body = .next t ∧ Noted { s with out := s.out ++ [.idle p s.ports[p].rxCount true 0 0] } t :=
  linkEvent_noted (u := sendNak s p) hv h hc.room

theorem receive_refuses (hu : s.ports[p].state = 2)
    (h : wireCrcGood wire = false ∨ (wireLink wire).txSeq ≠ BitVec.ofNat 24 (s.ports[p].rxCount + 1)
      ∨ openFrame (linkRekey s.ports[p].keyRx (s.ports[p].rxCount + 1)) (s.ports[p].rxCount + 1) wire = none) :
    receive s p wire = sendNak s p := by
  have shut : s.ports[p].opens wire = none := by
    unfold Port.opens
    dsimp only
    split
    case isTrue good =>
      simp only [Bool.and_eq_true, beq_iff_eq] at good
      obtain bad | bad | bad := h
      · rw [bad] at good; exact absurd good.1 (by simp)
      · exact absurd good.2 bad
      · exact bad
    case isFalse => rfl
  rw [receive, if_neg (not_not.mpr hu), shut]

theorem receive_opens (hu : s.ports[p].state = 2) (hw : wireCrcGood wire = true)
    (hn : (wireLink wire).txSeq = BitVec.ofNat 24 (s.ports[p].rxCount + 1))
    (ho : openFrame (linkRekey s.ports[p].keyRx (s.ports[p].rxCount + 1)) (s.ports[p].rxCount + 1) wire = some f) :
    receive s p wire = takeFrame (accept s p (wireLink wire) f) p f := by
  have opened : s.ports[p].opens wire = some f := by
    rw [Port.opens, if_pos (by simp [hw, hn]), ho]
  rw [receive, if_neg (not_not.mpr hu), opened]

/-- What a frame that is received hands on: IDLE and TIME nothing, another of this place itself. -/
def HandsOn (s : State) (f : Frame) (out : List Out) : Prop :=
  (f.typ = 0 ∧ out = [])
  ∨ (f.typ = 7 ∧ out = [])
  ∨ (f.typ ≠ 0 ∧ f.typ ≠ 7 ∧ f.typ.toNat < 8 ∧ age s f ≤ 40000 ∧ out = [.deliver f]
      ∧ ∃ e, routeOf s f = some e ∧ e.ports = 0 ∧ e.level = 0 ∧ e.place.toNat = cfgPlace s)

/-- From `s` to `t` port `p` has taken a frame in sequence and acted on its link field. -/
structure Receives (p : Fin 32) (f : Frame) (l : LinkField) (out : List Out) (s t : State) : Prop where
  only : OnlyPort 0 p s t
  out : t.out = s.out ++ [.idle p (s.ports[p].rxCount + 1) false f.cls.toNat 1] ++ out
  port : t.ports[p] = { (s.ports[p].received f).linked l with
    timeReceived := if f.typ = 7 then s.bell else s.ports[p].timeReceived }

theorem takeFrame_receives {l : LinkField} {out : List Out} (hl : l.nak = false) (hq : s.ports[p].queue = [])
    (hd : f.dst.toNat < 2 ^ 20) (hs : f.src.toNat < 2 ^ 20) (hc : f.cls ≠ 3) (h : HandsOn s f out) :
    Receives p f l out s (takeFrame (accept s p l f) p f) := by
  rw [accept_eq hq hl]
  generalize hw : (s.modPort p (fun k => (k.received f).linked l)).emit
    (.idle p (s.ports[p].rxCount + 1) false f.cls.toNat 1) = w
  have only : OnlyPort 0 p s w := by
    rw [← hw]
    exact (modPort_onlyPort s p _).trans (emit_onlyPort _ p _)
  have port : w.ports[p] = (s.ports[p].received f).linked l := by rw [← hw, State.emit_ports, modPort_self]
  have wout : w.out = s.out ++ [.idle p (s.ports[p].rxCount + 1) false f.cls.toNat 1] := by rw [← hw]; rfl
  obtain ⟨typ, rfl⟩ | ⟨typ, rfl⟩ | ⟨h0, h7, h8, fresh, rfl, e, he, hp, hlev, hm⟩ := h
  · rw [takeFrame_idle typ]
    refine ⟨only, by rw [wout, List.append_nil], ?_⟩
    rw [port, if_neg (by rw [typ]; decide)]
    rfl
  · have bell : w.bell = s.bell := by rw [← hw]; rfl
    rw [takeFrame_time typ ⟨hd, hs, by rw [typ]; decide, hc⟩]
    refine ⟨only.trans (timeTake_onlyPort w p f), wout.trans (List.append_nil _).symm, ?_⟩
    rw [timeTake_port, port, bell, if_pos typ]
  · have here : hopOf w f (some p) = .here := by
      rw [← hw]
      exact hopOf_here ⟨hd, hs, h8, hc⟩ fresh he hp hlev hm
    rw [takeFrame_here h0 h7 here]
    refine ⟨only.trans (emit_onlyPort w p _), by rw [State.emit, wout], ?_⟩
    rw [State.emit_ports, port, if_neg h7]
    rfl

theorem Receives.credits {l : LinkField} {out : List Out} (h : Receives p f l out s t) (c : Fin 3) :
    t.ports[p].credits[c] = if l.cls = BitVec.ofNat 2 c then min 64 (s.ports[p].credits[c] + l.credits.toNat)
      else s.ports[p].credits[c] := by
  have credits : t.ports[p].credits = ((s.ports[p].received f).linked l).credits := by rw [h.port]
  have kept : (s.ports[p].received f).credits = s.ports[p].credits := rfl
  rw [credits, linked_credits, kept]

/-! ### IDLE frames and replays (11 R249, R250) -/

theorem exec_idle (p : Fin 32) (wire : Bytes) (tag : Bool) (s : State) :
    exec (.idle ⟨p, wire, tag⟩) s = linkEvent s (fun s => idle s p wire tag) := rfl

theorem idle_refuses (hu : s.ports[p].state = 2) {tag : Bool} (h : wireCrcGood wire = false ∨ tag = false) :
    idle s p wire tag = sendNak s p := by
  have bad : ¬ (wireCrcGood wire && tag) = true := by obtain h | h := h <;> simp [h]
  rw [idle, if_neg (not_not.mpr hu), if_neg bad]

theorem idle_acts (hu : s.ports[p].state = 2) (hw : wireCrcGood wire = true) :
    idle s p wire true = takeLink s p (wireLink wire) := by
  rw [idle, if_neg (not_not.mpr hu), if_pos (by rw [hw]; rfl)]

/-- From `s` to `t` port `p` has acted on a link field: what it does not acknowledge stays, and leaves again under a NAK. -/
structure TakesLink (p : Fin 32) (l : LinkField) (s t : State) : Prop where
  only : OnlyPort 0 p s t
  out : t.out = s.out ++ (if l.nak then (s.ports[p].linked l).replayBuf else []).map (s.ports[p].again p)
  held : t.ports[p].replayBuf.map (fun e => (e.count, e.frame, e.body))
    = (s.ports[p].linked l).replayBuf.map (fun e => (e.count, e.frame, e.body))
  credits : t.ports[p].credits = (s.ports[p].linked l).credits

theorem takeLink_takes (hq : s.ports[p].queue = []) (l : LinkField) : TakesLink p l s (takeLink s p l) := by
  have only := modPort_onlyPort s p (·.linked l)
  have self : (s.modPort p (·.linked l)).ports[p] = s.ports[p].linked l := modPort_self ..
  rw [takeLink_empty hq]
  split
  case isTrue nak =>
    obtain ⟨again, out, port⟩ := replayFrames_resends (s.modPort p (·.linked l)) p (fun _ => true)
    rw [self] at out port
    refine ⟨only.trans again, ?_, ?_, by rw [port]⟩
    · rw [out, List.filter_true, if_pos nak]
      rfl
    · rw [port]
      simp [Function.comp_def]
  case isFalse kept =>
    refine ⟨only, ?_, by rw [self], by rw [self]⟩
    rw [if_neg kept, List.map_nil, List.append_nil]
    rfl

/-- A frame that waits alone for its acknowledgement for 2,000 bells leaves again. -/
theorem ackTimeout_replays {e : Sent} (hc : Calm s) (hv : serving s = true) (hu : s.ports[p].state = 2)
    (hr : s.ports[p].replayBuf = [e]) (hb : e.bell + 2000 ≤ s.bell) :
    ∃ t, exec (.linkAckTimeout p) s = .next t
      ∧ t.out = s.out ++ [s.ports[p].again p e]
      ∧ t.ports[p] = { s.ports[p] with
          replayBuf := [{ e with bell := s.bell, tries := e.tries + 1 }]
          replays := s.ports[p].replays + 1, counters := t.ports[p].counters }
      ∧ (∀ q : Fin 32, q ≠ p → t.ports[q] = s.ports[q]) ∧ t.plans = s.plans ∧ SameMemory s t := by
  have resends := replayFrames_resends s p (fun e => decide (e.bell + 2000 ≤ s.bell))
  obtain ⟨t, ht, noted, beside⟩ := linkEvent_onlyPort
    (body := fun s => if s.ports[p].state ≠ 2 then s else replayFrames s p (fun e => decide (e.bell + 2000 ≤ s.bell)))
    hc hv (if_neg (not_not.mpr hu)) resends.only (by omega)
  have due : s.ports[p].replayBuf.filter (fun e => decide (e.bell + 2000 ≤ s.bell)) = [e] := by rw [hr]; simp [hb]
  have port := resends.port
  rw [due, hr, List.map_singleton, if_pos (decide_eq_true hb), ← noted.ports] at port
  refine ⟨t, ht, ?_, port, beside⟩
  rw [noted.out, resends.out, due]
  rfl

/-! ### TIME (11 R267) -/

theorem exec_timeSend (p : Fin 32) (s : State) : exec (.timeSend p) s = linkEvent s (fun s => timeSend s p) := rfl

/-- The TIME frame that leaves next on a port. -/
def nextTimeFrame (s : State) (p : Fin 32) : Frame :=
  ownFrame s 0 s.ports[p].peerPlace 7 (Config.freeNat s.free % 3) (leBytes 8 s.bell ++ leBytes 8 s.ports[p].timeReceived)

theorem nextTimeFrame_cls (s : State) (p : Fin 32) : (nextTimeFrame s p).cls.toNat < 3 := by
  have lt : Config.freeNat s.free % 3 < 3 := Nat.mod_lt _ (by omega)
  show (BitVec.ofNat 2 (Config.freeNat s.free % 3)).toNat < 3
  rw [BitVec.toNat_ofNat]
  omega

theorem nextTimeFrame_cls_ne (s : State) (p : Fin 32) : (nextTimeFrame s p).cls ≠ 3 := fun three => by
  have lt := nextTimeFrame_cls s p
  rw [three] at lt
  exact absurd lt (by decide)

/-- The port notes the bell at which its TIME frame leaves. -/
theorem timeSend_sends (hu : s.ports[p].state = 2) (hq : s.ports[p].queue = []) (hr : s.ports[p].replayBuf = [])
    (hcr : ∀ n : Fin 3, 0 < s.ports[p].credits[n]) (hb : s.ports[p].timeSent + 100000 ≤ s.bell) :
    ∃ u : State, u.out = s.out ∧ u.ports[p] = { s.ports[p] with timeSent := s.bell } ∧ OnlyPort 0 p s u
      ∧ SendsFrame p (nextTimeFrame s p) none u (timeSend s p) := by
  have cls := nextTimeFrame_cls s p
  let u := ({ s with free := s.free + 1 } : State).modPort p (fun k => { k with timeSent := s.bell })
  have port : u.ports[p] = { s.ports[p] with timeSent := s.bell } := modPort_self ..
  refine ⟨u, rfl, port, ?_, ?_⟩
  · exact ((takeFree_reported s).onlyPort p).trans (modPort_onlyPort _ p _)
  · have due : ¬ (decide (s.ports[p].state ≠ 2) || decide (s.bell < s.ports[p].timeSent + 100000)) = true := by
      simp only [Bool.or_eq_true, decide_eq_true_eq, not_or]
      exact ⟨not_not.mpr hu, Nat.not_lt.mpr hb⟩
    have sent : timeSend s p = sendOn u p (nextTimeFrame s p) none := by
      rw [timeSend, if_neg due]
      rfl
    rw [sent]
    refine sendOn_open ?_ none
    rw [port]
    refine ⟨hu, hq, by rw [hr]; simp, ?_, nextTimeFrame_cls_ne s p⟩
    have credit := hcr ⟨_, cls⟩
    simpa [Port.credit, List.getD_eq_getElem?_getD, cls] using credit

end
end Sys2Proof.Machine
end

section
/-! The fabric ports carry frames (11 R241, R246-R253, R267). -/

open Sys2Proof Sys2Proof.Machine

/-- Settles O41: an issued frame is delivered, leaves on its one port, or is dropped; what a port receives acts once it opens
in sequence, and is refused with a NAK otherwise; a frame waits 2,000 bells for its acknowledgement, and TIME leaves every
100,000. That an acknowledgement with its credit leaves at once, and the numbers of the reasons for a drop, are the model's
choices (notes/assumptions/28.md), as is which issued frame a command names (42.md). -/
theorem portsCarryFrames : Obligations.PortsCarryFrames := by
  unfold Obligations.PortsCarryFrames
  intro s hc hv
  refine ⟨fun o n f wire hi hd hs ht hcls => ⟨?here, ?leaves, ?dropped⟩, fun p wire i hi hu => ⟨?refused, ?taken⟩,
    fun p wire tag hu => ⟨?idleRefused, ?idleTaken⟩, ?timeout, ?time⟩
  case here => exact fun e he hp hl hm ha => issued_delivers hc hv hi ⟨hd, hs, ht, hcls⟩ ha he hp hl hm
  case leaves =>
    intro e p he hp ha hq hr hcr
    have may : ReadyFor s.ports[p] f := ⟨(upPorts_one hp).2.1, hq, by rw [hr]; simp, hcr, hcls⟩
    obtain ⟨t, ht, sends, noted, beside⟩ := issued_leaves (wire := wire) hc hv hi ⟨hd, hs, ht, hcls⟩ ha he hp may
    have held := sends.held
    rw [hr, List.nil_append] at held
    refine ⟨t, ht, noted.out.trans sends.out, ?_, ?_, ?_, ?_, beside⟩ <;> rw [noted.ports]
    exacts [sends.txCount, held, sends.credit hcls, sends.queue.trans hq]
  case dropped => exact fun he hj hdrops => issued_dropped hc hv hi ⟨hd, hs, ht, hcls⟩ he hj hdrops
  case refused =>
    intro bad
    rw [exec_receives hi]
    exact event_naks hc hv (receive_refuses hu bad)
  case taken =>
    intro f hw hn hnak ho hq hd hs hcls out hands
    have receives := takeFrame_receives hnak hq hd hs hcls hands
    rw [exec_receives hi]
    obtain ⟨t, ht, noted, beside⟩ := linkEvent_onlyPort (body := fun s => receive s p wire) hc hv (receive_opens hu hw hn ho)
      receives.only (by omega)
    have port := receives.port
    rw [← noted.ports] at port
    refine ⟨t, ht, ?_, ?_, ?_, fun c => ?_, ?_, noted.out.trans receives.out, beside⟩
    · rw [port]; rfl
    · rw [port]; rfl
    · rw [port]; rfl
    · rw [noted.ports]; exact receives.credits c
    · rw [port]
  case idleRefused =>
    intro bad
    rw [exec_idle]
    exact event_naks hc hv (idle_refuses hu bad)
  case idleTaken =>
    intro hw hq
    have takes := takeLink_takes hq (wireLink wire)
    rw [exec_idle]
    obtain ⟨t, ht, noted, beside⟩ := linkEvent_onlyPort (body := fun s => idle s p wire true) hc hv (idle_acts hu hw)
      takes.only (by omega)
    refine ⟨t, ht, ?_, fun c => ?_, noted.out.trans takes.out, beside⟩ <;> rw [noted.ports]
    · exact takes.held
    · rw [takes.credits, linked_credits]
  case timeout =>
    intro p e hu hr hb
    obtain ⟨t, ht, out, port, beside⟩ := ackTimeout_replays hc hv hu hr hb
    refine ⟨t, ht, out, ?_, ?_, ?_, beside⟩ <;> rw [port]
  case time =>
    intro p hu hq hr hcr hb
    obtain ⟨u, out, port, only, sends⟩ := timeSend_sends hu hq hr hcr hb
    rw [exec_timeSend]
    obtain ⟨t, ht, noted, beside⟩ := linkEvent_onlyPort (body := fun s => timeSend s p) hc hv rfl
      (only.trans sends.only) (by omega)
    refine ⟨t, nextTimeFrame s p, ht, rfl, nextTimeFrame_cls_ne s p, rfl, rfl, rfl, ?_, ?_, ?_, beside⟩
    · rw [noted.out, sends.out, port, out]
      rfl
    · rw [noted.ports, sends.timeSent, port]
    · rw [noted.ports, sends.txCount, port]

end

section
/-! SUPPORT. PORT_TRAIN (11 R243, R244; 15 R348): the exchange with the peer and how the port stands after it. -/

namespace Sys2Proof.Machine
open Sys2Proof

section
variable {s t u : State} {n : Nat} {p : Fin 32} {k : Port} {f : TrainFacts} {o : List Out}

/-! ### A port is put, with its record -/

theorem journalAppend_writes (s : State) (type job member plan : Nat) (b : Bytes) :
    ∃ r ∈ (journalAppend s type job member plan b).journal.records, r.type = type ∧ r.bell = s.bell ∧ r.payload = b := by
  simp only [journalAppend]
  split <;> exact ⟨_, List.mem_append_right _ (List.mem_singleton_self _), rfl, rfl, rfl⟩

/-- In a calm journal a record is appended, with the CHECKPOINT record where one is due, and no mode changes. -/
theorem journalRaw_extends (h : Room s) (type job member plan : Nat) (b : Bytes) :
    (journalAppend s type job member plan b).journal.records <+: (journalRaw s type job member plan b).journal.records := by
  obtain ⟨r, c, ch, cps, f, e⟩ := journalAppend_spec s type job member plan b
  have mode : (journalAppend s type job member plan b).journal.mode = 0 := by rw [e]; exact h.1
  have length : (journalAppend s type job member plan b).journal.records.length = s.journal.records.length + 1 := by
    rw [e]; simp
  have room := h.2
  unfold journalRaw
  generalize journalAppend s type job member plan b = s1 at mode length ⊢
  dsimp only
  split
  case isTrue =>
    generalize leBytes 8 (s.mod.startCount % 2 ^ 24 * 2 ^ 40 + s.journal.next) = index
    obtain ⟨r', c', ch', cps', f', e'⟩ := journalAppend_spec s1 0x0702 0 0 0xFF index
    rw [journalModes_calm _ (by rw [e']; exact mode) (by rw [e']; simp; omega)]
    exact journalAppend_extends s1 ..
  case isFalse =>
    rw [journalModes_calm _ mode (by omega)]

theorem journalRaw_writes (h : Room s) (type job member plan : Nat) (b : Bytes) :
    ∃ r ∈ (journalRaw s type job member plan b).journal.records, r.type = type ∧ r.bell = s.bell ∧ r.payload = b := by
  obtain ⟨r, mem, fields⟩ := journalAppend_writes s type job member plan b
  exact ⟨r, (journalRaw_extends h ..).subset mem, fields⟩

theorem LinksOnly.bell (h : LinksOnly n s t) : t.bell = s.bell := by rw [h.kept]

/-- From `s` to `t` port `p` becomes `k`, and the outputs `o` leave. -/
structure PutsPort (n : Nat) (o : List Out) (p : Fin 32) (k : Port) (s t : State) : Prop where
  only : OnlyPort n p s t
  port : t.ports[p] = k
  out : t.out = s.out ++ o

theorem PutsPort.reported {m : Nat} (h : PutsPort n o p k s u) (h' : Reported m [] u t) : PutsPort (n + m) o p k s t where
  only := h.only.trans (h'.onlyPort p)
  port := by rw [h'.1]; exact h.port
  out := by rw [h'.1, List.append_nil]; exact h.out

theorem Reported.putsPort (h : Reported 0 o s u) (h' : PutsPort n [] p k u t) : PutsPort n o p k s t where
  only := by
    have both := (h.onlyPort p).trans h'.only
    rwa [Nat.zero_add] at both
  port := h'.port
  out := by rw [h'.out, List.append_nil, h.1]

theorem setPort_puts (h : Room s) (p : Fin 32) (k : Port) : PutsPort 2 [] p k s (setPort s p k) := by
  have put : PutsPort 0 [] p k s (s.modPort p (fun _ => k)) :=
    ⟨modPort_onlyPort s p _, modPort_self s p _, (List.append_nil _).symm⟩
  have room : Room (s.modPort p (fun _ => k)) := h
  have unrecorded : Reported 2 [] (s.modPort p (fun _ => k)) (s.modPort p (fun _ => k)) :=
    ⟨(reported_refl _).1, rfl, Nat.le_add_right ..⟩
  unfold setPort
  dsimp only
  split
  · exact put.reported unrecorded
  · exact put.reported (journalRaw_reported room ..)

/-! ### A peer that is refused (15 R348) -/

/-- In `t` the port is down, and LINK_REFUSED of this bell names the peer's place and the check that it failed. -/
def RefusedAt (s : State) (p : Fin 32) (f : TrainFacts) (t : State) (n : Nat) : Prop :=
  t.ports[p].state = 0 ∧ t.ports[p].width = 0 ∧ t.ports[p].laneMask = 0 ∧ t.ports[p].secure = false
  ∧ ∃ r ∈ t.journal.records, r.type = 0x070F ∧ r.bell = s.bell
      ∧ r.payload = leBytes 1 p ++ leBytes 4 f.peerPlace.toNat ++ leBytes 1 n

theorem RefusedAt.noted (h : RefusedAt s p f u n) (hN : Noted u t) : RefusedAt s p f t n := by
  obtain ⟨state, width, mask, secure, r, mem, fields⟩ := h
  rw [RefusedAt, hN.ports]
  exact ⟨state, width, mask, secure, r, hN.2.2.subset mem, fields⟩

/-- LINK_REFUSED, after what the exchange has sent. -/
theorem linkRefused_puts (hc : Calm s) (hu : Reported 0 o s u) (k : Port) (f : TrainFacts) (n : Nat) :
    PutsPort 4 o p (k.dark 0) s (linkRefused u p (k.dark 0) f n) ∧ RefusedAt s p f (linkRefused u p (k.dark 0) f n) n := by
  have put := hu.putsPort (setPort_puts ((hu.onlyPort p).room hc (by omega)) p (k.dark 0))
  have room : Room (setPort u p (k.dark 0)) := put.only.room hc (by omega)
  let payload := leBytes 1 p ++ leBytes 4 f.peerPlace.toNat ++ leBytes 1 n
  have both := put.reported (journalRaw_reported room 0x070F 0 0 0xFF payload)
  obtain ⟨r, mem, type, bell, content⟩ := journalRaw_writes room 0x070F 0 0 0xFF payload
  have port := both.port
  exact ⟨both, congrArg Port.state port, congrArg Port.width port, congrArg Port.laneMask port, congrArg Port.secure port,
    r, mem, type, bell.trans put.only.bell, content⟩

/-! ### The exchange (15 R348) -/

/-- Byte strings that the port draws: its nonce, its half-secret, and what encrypts and signs that. -/
def drawn (s : State) (i n : Nat) : Bytes := leBytes n (Config.randomNat (s.free + i) n)

/-- What the port sends first: its certificates and nonce. -/
def certsOut (s : State) (p : Fin 32) : Out := .trainCerts p Config.identityCert (transportCert s) (drawn s 0 32)

/-- The port's encrypted half-secret and its signature. -/
def secretOut (s : State) (p : Fin 32) (f : TrainFacts) (key : Bytes) : Out :=
  let cipher := oaepEncrypt key (drawn s 1 32) (drawn s 2 64)
  .trainSecret p cipher (rsaSign Config.identityKey.1 Config.identityPrivate
    (secretMessage f.nonce (drawn s 0 32) cipher key) (drawn s 3 64))

/-- What the module has sent of the exchange, its draws taken. -/
def exchanged (s : State) (l : List Out) : State := l.foldl State.emit { s with free := s.free + 4 }

theorem exchanged_reported (s : State) (l : List Out) : Reported 0 l s (exchanged s l) := by
  have draws : Reported 0 [] s { s with free := s.free + 4 } := ⟨by simp, rfl, Nat.le_refl _⟩
  have all := draws.trans (foldl_emit_reported id l { s with free := s.free + 4 })
  rw [List.map_id, List.nil_append] at all
  exact all

/-- A port that comes up, with a new session. -/
def Port.cameUp (k : Port) (s : State) (f : TrainFacts) (lanes : Nat × Nat) (zOwn zPeer nOwn : Bytes) : Port :=
  let low := decide (cfgPlace s < f.peerPlace.toNat)
  let key (b : Nat) : Nat := if low then linkKey zOwn zPeer nOwn f.nonce b else linkKey zPeer zOwn f.nonce nOwn b
  { k with
    peerPlace := f.peerPlace, peerPort := f.peerPort, laneMask := BitVec.ofNat 4 lanes.2, width := BitVec.ofNat 2 lanes.1,
    state := 2, secure := true, keyTx := key (if low then 1 else 2), keyRx := key (if low then 2 else 1), txCount := 0,
    rxCount := 0, replayBuf := [], since1 := 0, since2 := 0, credits := .replicate 3 64, timeSent := 0, timeReceived := 0,
    lastTrain := s.bell }

section
variable {down : Port} {lanes : Nat × Nat} {id key z : Bytes}

theorem portExchange_fails (h : peerChecks s f = .error n) :
    portExchange s p f lanes down = linkRefused (exchanged s [certsOut s p]) p down f n := by
  unfold portExchange
  dsimp only
  split
  next m found =>
    cases Except.error.inj (found.symm.trans h)
    rfl
  next found => cases found.symm.trans h

theorem portExchange_passes (h : peerChecks s f = .ok (id, key)) :
    portExchange s p f lanes down = (peerSecret s f id (drawn s 0 32)).elim
      (linkRefused (takeFree (exchanged s [certsOut s p, secretOut s p f key])).2 p down f (Config.freeNat (s.free + 4)))
      (fun z => portUp (exchanged s [certsOut s p, secretOut s p f key]) p f lanes (drawn s 1 32) z (drawn s 0 32)) := by
  unfold portExchange
  dsimp only
  split
  next found => cases found.symm.trans h
  next found =>
    cases Except.ok.inj (found.symm.trans h)
    split
    next z opened =>
      have opened : peerSecret s f id (drawn s 0 32) = some z := opened
      rw [opened]
      rfl
    next shut =>
      have shut : peerSecret s f id (drawn s 0 32) = none := shut
      rw [shut]
      rfl

/-- The port comes up with the keys of the session. -/
theorem portUp_puts (hc : Calm s) (hu : Reported 0 o s u) (lanes : Nat × Nat) (zOwn z nOwn : Bytes) :
    PutsPort 2 o p (s.ports[p].cameUp s f lanes zOwn z nOwn) s (portUp u p f lanes zOwn z nOwn) := by
  have same : portUp u p f lanes zOwn z nOwn = setPort u p (s.ports[p].cameUp s f lanes zOwn z nOwn) := by
    rw [hu.1]
    rfl
  rw [same]
  exact hu.putsPort (setPort_puts ((hu.onlyPort p).room hc (by omega)) p _)

/-- A peer that fails a check of R348. -/
theorem exchange_fails (hc : Calm s) (h : peerChecks s f = .error n) (k : Port) (lanes : Nat × Nat) :
    let t := portExchange s p f lanes (k.dark 0)
    PutsPort 4 [certsOut s p] p (k.dark 0) s t ∧ RefusedAt s p f t n := by
  rw [portExchange_fails h]
  exact linkRefused_puts hc (exchanged_reported s _) k f n

/-- A peer that passes them, but whose half-secret does not open. -/
theorem exchange_shut (hc : Calm s) (h : peerChecks s f = .ok (id, key)) (hz : peerSecret s f id (drawn s 0 32) = none)
    (k : Port) (lanes : Nat × Nat) : ∃ n,
    let t := portExchange s p f lanes (k.dark 0)
    PutsPort 4 [certsOut s p, secretOut s p f key] p (k.dark 0) s t ∧ RefusedAt s p f t n := by
  have sent := (exchanged_reported s [certsOut s p, secretOut s p f key]).trans (takeFree_reported _)
  rw [portExchange_passes h, hz]
  exact ⟨_, linkRefused_puts hc sent k f _⟩

/-- A peer whose half-secret opens. -/
theorem exchange_opens (hc : Calm s) (h : peerChecks s f = .ok (id, key)) (hz : peerSecret s f id (drawn s 0 32) = some z)
    (k : Port) (lanes : Nat × Nat) :
    PutsPort 2 [certsOut s p, secretOut s p f key] p (s.ports[p].cameUp s f lanes (drawn s 1 32) z (drawn s 0 32)) s
      (portExchange s p f lanes (k.dark 0)) := by
  rw [portExchange_passes h, hz]
  exact portUp_puts hc (exchanged_reported s _) ..

theorem PutsPort.weaken {m : Nat} (h : PutsPort n o p k s t) (hn : n ≤ m) : PutsPort m o p k s t where
  only := ⟨⟨h.only.kept, h.only.journal.1, h.only.journal.2.trans (by omega)⟩, h.only.others⟩
  port := h.port
  out := h.out

/-- With a peer that passes the checks, the half-secret leaves too. -/
theorem exchange_sends (hc : Calm s) (h : peerChecks s f = .ok (id, key)) (k : Port) (lanes : Nat × Nat) :
    (portExchange s p f lanes (k.dark 0)).out = s.out ++ [certsOut s p, secretOut s p f key] := by
  cases hz : peerSecret s f id (drawn s 0 32) with
  | none =>
    obtain ⟨n, put, -⟩ := exchange_shut (p := p) hc h hz k lanes
    exact put.out
  | some z => exact (exchange_opens hc h hz k lanes).out

/-- Whatever becomes of the exchange, the port has met its peer and sent its certificates. -/
theorem exchange_begins (hc : Calm s) (hk : k.peerPlace = f.peerPlace ∧ k.peerPort = f.peerPort) (lanes : Nat × Nat) :
    ∃ o k', PutsPort 4 (certsOut s p :: o) p k' s (portExchange s p f lanes (k.dark 0))
      ∧ k'.peerPlace = f.peerPlace ∧ k'.peerPort = f.peerPort := by
  cases h : peerChecks s f with
  | error n => exact ⟨_, _, (exchange_fails hc h k lanes).1, hk⟩
  | ok e =>
    cases hz : peerSecret s f e.1 (drawn s 0 32) with
    | none =>
      obtain ⟨n, put, -⟩ := exchange_shut (p := p) hc h hz k lanes
      exact ⟨_, _, put, hk⟩
    | some z => exact ⟨_, _, (exchange_opens hc h hz k lanes).weaken (by omega), rfl, rfl⟩

/-- The end with the lower place sends under the first key (15 R348). -/
theorem cameUp_lower (lanes : Nat × Nat) (zOwn nOwn : Bytes) (h : cfgPlace s < f.peerPlace.toNat) :
    (k.cameUp s f lanes zOwn z nOwn).keyTx = linkKey zOwn z nOwn f.nonce 1
      ∧ (k.cameUp s f lanes zOwn z nOwn).keyRx = linkKey zOwn z nOwn f.nonce 2 := by
  simp [Port.cameUp, h]

theorem cameUp_higher (lanes : Nat × Nat) (zOwn nOwn : Bytes) (h : f.peerPlace.toNat < cfgPlace s) :
    (k.cameUp s f lanes zOwn z nOwn).keyTx = linkKey z zOwn f.nonce nOwn 2
      ∧ (k.cameUp s f lanes zOwn z nOwn).keyRx = linkKey z zOwn f.nonce nOwn 1 := by
  simp [Port.cameUp, Nat.not_lt.mpr h.le]

/-! ### The checks in R348's order -/

theorem peerChecks_identity (h : peerIdentity s f.identity = none) : peerChecks s f = .error 1 := by
  simp only [peerChecks, h]

section
variable {b : Bytes} (hi : peerIdentity s f.identity = some id)
include hi

theorem peerChecks_transport (h : peerTransport id f.transport = none) : peerChecks s f = .error 1 := by
  simp only [peerChecks, hi, h]

theorem peerChecks_certified (h : peerTransport id f.transport = some b) : peerChecks s f =
    if certPlace b ≠ f.peerPlace.toNat then .error 2
    else if ∃ d ∈ certActive b, d ∈ activeSlots s then .ok (id, certTransportKey b) else .error 3 := by
  have shared : ((certActive b).any (fun d => (activeSlots s).contains d)) = true ↔ ∃ d ∈ certActive b, d ∈ activeSlots s := by
    simp
  simp only [peerChecks, hi, h, ← shared]
  cases (certActive b).any (fun d => (activeSlots s).contains d) <;> rfl

end

/-! ### WIDTH and LANE_MASK (11 R243) -/

theorem laneChoice_works : ∀ l : BitVec 4, l ≠ 0 → (laneChoice l).1 ≠ 0 := by decide

theorem laneChoice_fields : ∀ l : BitVec 4, l ≠ 0 →
    let w : BitVec 2 := BitVec.ofNat 2 (laneChoice l).1
    let m : BitVec 4 := BitVec.ofNat 4 (laneChoice l).2
    (l = 0xF → w = 3 ∧ m = 0xF) ∧ (l ≠ 0xF → l &&& 3 = 3 → w = 2 ∧ m = 3)
    ∧ (l &&& 3 ≠ 3 → l &&& 12 = 12 → w = 2 ∧ m = 12)
    ∧ (l &&& 3 ≠ 3 → l &&& 12 ≠ 12 → w = 1 ∧ m = l &&& (0 - l)) := by decide

/-! ### PORT_TRAIN -/

/-- The port has met its peer. -/
def Port.met (k : Port) (f : TrainFacts) (bell : Bell) : Port :=
  { k with peerPlace := f.peerPlace, peerPort := f.peerPort, lastTrain := bell }

theorem exec_portTrain (p : Fin 32) (f : TrainFacts) (s : State) :
    exec (.portTrain p f) s = linkEvent s (fun s => portTrain s p f) := rfl

/-- A port that is not up, is enabled and has lanes tries a peer at another place. -/
theorem portTrain_tries (hs : s.ports[p].state ≠ 2) (he : (cfgPortEnable s).testBit p = true) (hl : f.lanes ≠ 0)
    (hp : f.peerPlace.toNat ≠ cfgPlace s) :
    portTrain s p f = portExchange s p f (laneChoice f.lanes) ((s.ports[p].met f s.bell).dark 0) := by
  have tries : ¬ (decide (s.ports[p].state = 2) || !(cfgPortEnable s).testBit p) = true := by
    rw [he]; simpa using hs
  rw [portTrain, if_neg tries, if_neg (laneChoice_works _ hl), if_neg hp]
  rfl

end

end
end Sys2Proof.Machine
end

section
/-! SUPPORT. A port that goes down to train (11 R244, R252): what routing other frames leaves of it, and the frames that it
had not got acknowledged. -/

namespace Sys2Proof.Machine
open Sys2Proof

section
variable {s t u : State} {m n : Nat} {p q : Fin 32} {k : Port} {f : Frame} {a : Option (Fin 32)}

/-! ### What a routed frame leaves of a port that is not up -/

theorem pumpTimes_onlyPort (p : Fin 32) : ∀ (n : Nat) (s : State), OnlyPort 0 p s (pumpTimes p n s)
  | 0, s => (reported_refl s).onlyPort p
  | n + 1, s => by
    unfold pumpTimes
    split
    · exact ((modPort_onlyPort s p _).trans (transmit_sends _ p _ _).only).trans (pumpTimes_onlyPort p n _)
    · exact (reported_refl s).onlyPort p

theorem sendOn_onlyPort (s : State) (p : Fin 32) (f : Frame) (a : Option (Fin 32)) : OnlyPort 0 p s (sendOn s p f a) :=
  (modPort_onlyPort s p _).trans (pumpTimes_onlyPort p _ _)

/-- A frame is routed to a port that is up. -/
theorem hopOf_up (h : hopOf s f a = .port q) : s.ports[q].state = 2 := by
  have aged {x : Hop} (h : (if 40000 < age s f then .drop 3 else x) = Hop.port q) : x = .port q := by
    split at h
    · cases h
    · exact h
  have up {g : Fin 32 → Nat} {pick : Fin 32 → Bool} (h : leastBy g (upPorts s a pick) = some q) : s.ports[q].state = 2 :=
    (mem_upPorts.mp (leastBy_mem h)).2.1
  unfold hopOf at h
  dsimp only at h
  split at h
  · cases h
  split at h
  · cases h
  split at h
  case isTrue =>
    have near : neighbour s f a = .port q := by
      split at h
      · cases h
      · exact aged h
    unfold neighbour at near
    split at near
    · cases near
    split at near
    next found => cases near; exact up found
    next => cases near
  case isFalse =>
    split at h
    next => cases h
    next e _ =>
      split at h
      · cases aged h
      split at h
      next found => cases aged h; exact up found
      next => cases h

/-- From `s` to `t` port `p` stays as it is but for its counters. -/
structure Spares (p : Fin 32) (s t : State) : Prop where
  only : LinksOnly 0 s t
  port : t.ports[p] = { s.ports[p] with counters := t.ports[p].counters }

theorem Spares.trans (h : Spares p s u) (h' : Spares p u t) : Spares p s t where
  only := h.only.trans h'.only
  port := by rw [h'.port, h.port]

theorem Spares.state (h : Spares p s t) : t.ports[p].state = s.ports[p].state := by rw [h.port]

theorem OnlyPort.spares (h : OnlyPort 0 q s t) (hq : p ≠ q) : Spares p s t where
  only := h.toLinksOnly
  port := by rw [h.others p hq]

theorem Reported.spares {o : List Out} (h : Reported 0 o s t) (p : Fin 32) : Spares p s t where
  only := (h.onlyPort p).toLinksOnly
  port := by rw [h.1]

theorem countPortDrop_spares (s : State) (a : Option (Fin 32)) (p : Fin 32) : Spares p s (countPortDrop s a) := by
  cases a with
  | none => exact (reported_refl s).spares p
  | some q =>
    by_cases same : p = q
    · subst same
      refine ⟨(modPort_onlyPort s p (·.count 0x305 1)).toLinksOnly, ?_⟩
      rw [countPortDrop, modPort_self]
      rfl
    · exact (modPort_onlyPort s q (·.count 0x305 1)).spares same

theorem countDrop_spares (s : State) (reason : Nat) (f : Frame) (p : Fin 32) : Spares p s (countDrop s reason f) :=
  ⟨⟨rfl, rfl, Nat.le_refl _⟩, rfl⟩

theorem routeFrame_spares (h : s.ports[p].state ≠ 2) (f : Frame) (a : Option (Fin 32)) : Spares p s (routeFrame s f a) := by
  unfold routeFrame
  cases hop : hopOf s f a with
  | here => exact (emit_reported s _).spares p
  | port q =>
    have apart : p ≠ q := fun same => h (same ▸ hopOf_up hop)
    exact (sendOn_onlyPort s q f a).spares apart
  | drop r => exact (countDrop_spares s r f p).trans (countPortDrop_spares _ a p)
  | unknown => exact countPortDrop_spares s a p
  | badPlace => exact (reported_refl s).spares p

theorem foldl_routeFrame_spares (l : List Queued) (s : State) (h : s.ports[p].state ≠ 2) :
    Spares p s (l.foldl (fun s e => routeFrame s e.frame e.arrival) s) := by
  induction l generalizing s with
  | nil => exact (reported_refl s).spares p
  | cons e l ih =>
    have first := routeFrame_spares h e.frame e.arrival
    exact first.trans (ih _ (by rw [first.state]; exact h))

/-! ### The frames that are routed again (11 R252) -/

/-- The port in training, without the frames that it held. -/
def Port.lowered (k : Port) : Port :=
  { k.dark 1 with replayBuf := [], queue := [], since1 := 0, since2 := 0, retrains := k.retrains + 1 }

/-- The frames that a port has not got acknowledged and those that wait at it, but for IDLE and TIME. -/
def Port.unsent (k : Port) : List Queued :=
  (k.replayBuf.map (fun e => (⟨e.frame, e.arrival⟩ : Queued)) ++ k.queue).filter (fun e => e.frame.typ != 0 && e.frame.typ != 7)

theorem portDown_eq (s : State) (p : Fin 32) : portDown s p
    = s.ports[p].unsent.foldl (fun s e => routeFrame s e.frame e.arrival) (setPort s p s.ports[p].lowered) := rfl

theorem unsent_nil (hr : ∀ e ∈ k.replayBuf, e.frame.typ = 0 ∨ e.frame.typ = 7)
    (hq : ∀ e ∈ k.queue, e.frame.typ = 0 ∨ e.frame.typ = 7) : k.unsent = [] := by
  rw [Port.unsent, List.filter_eq_nil_iff]
  intro x hx
  have kept : x.frame.typ = 0 ∨ x.frame.typ = 7 := by
    obtain hx | hx := List.mem_append.mp hx
    · obtain ⟨e, he, rfl⟩ := List.mem_map.mp hx
      exact hr e he
    · exact hq x hx
  obtain kept | kept := kept <;> simp [kept]

theorem unsent_one {e : Sent} (hr : k.replayBuf = [e]) (hq : k.queue = []) (h0 : e.frame.typ ≠ 0) (h7 : e.frame.typ ≠ 7) :
    k.unsent = [⟨e.frame, e.arrival⟩] := by
  simpa [Port.unsent, hr, hq] using And.intro h0 h7

/-- The port is in training, and no frame that is routed again waits at it. -/
theorem portDown_lowers (hc : Calm s) (p : Fin 32) :
    LinksOnly 2 s (portDown s p)
      ∧ (portDown s p).ports[p] = { s.ports[p].lowered with counters := (portDown s p).ports[p].counters } := by
  have put := setPort_puts hc.room p s.ports[p].lowered
  have down : (setPort s p s.ports[p].lowered).ports[p].state ≠ 2 := by
    rw [put.port]
    exact (by decide : (1 : BitVec 2) ≠ 2)
  have spares := foldl_routeFrame_spares s.ports[p].unsent _ down
  rw [portDown_eq]
  refine ⟨put.only.toLinksOnly.trans spares.only, ?_⟩
  rw [spares.port, put.port]

/-- IDLE and TIME frames are not sent again. -/
theorem portDown_quiet (hc : Calm s) (hu : s.ports[p].unsent = []) :
    (portDown s p).out = s.out ∧ ∀ q : Fin 32, q ≠ p → (portDown s p).ports[q] = s.ports[q] := by
  have put := setPort_puts hc.room p s.ports[p].lowered
  rw [portDown_eq, hu, List.foldl_nil]
  exact ⟨by rw [put.out, List.append_nil], put.only.others⟩

theorem LinksOnly.routes (h : LinksOnly n s t) : t.routes = s.routes := by rw [h.kept]

theorem LinksOnly.routeOf_eq (h : LinksOnly n s t) (f : Frame) : routeOf t f = routeOf s f := by
  rw [routeOf, h.routes]
  rfl

theorem LinksOnly.age_eq (h : LinksOnly n s t) (f : Frame) : age t f = age s f := by rw [age, h.bell, age]

/-- A port that has gone down is no candidate; every other stands as before. -/
theorem upPorts_lowered (h : PutsPort n o p k s u) (hk : k.state ≠ 2) (a : Option (Fin 32)) (pick : Fin 32 → Bool) :
    upPorts u a pick = upPorts s a (fun x => x != p && pick x) := by
  refine List.filter_congr fun x _ => ?_
  by_cases same : x = p
  · subst same
    rw [h.port, beq_eq_false_iff_ne.mpr hk]
    simp
  · dsimp only
    rw [h.only.others x same, bne_iff_ne.mpr same, Bool.true_and]

/-- A frame that was not acknowledged leaves on the one other port that is up. -/
theorem portDown_sends {e : Sent} {r : RouteEntry} (hc : Calm s) (hu : s.ports[p].unsent = [⟨e.frame, e.arrival⟩])
    (hf : LegalFrame e.frame) (ha : age s e.frame ≤ 40000) (hr : routeOf s e.frame = some r)
    (hp : upPorts s e.arrival (fun x => x != p && r.ports.getLsbD x) = [q]) (ho : ReadyFor s.ports[q] e.frame) :
    (portDown s p).out = s.out ++ [.port q (wireOf e.frame (s.ports[q].nextBody e.frame)
      (s.ports[q].linkField (s.ports[q].txCount + 1)))] := by
  have put := setPort_puts hc.room p s.ports[p].lowered
  have apart : q ≠ p := by
    have picked := (upPorts_one hp).1
    simp only [Bool.and_eq_true, bne_iff_ne] at picked
    exact picked.1
  have links := put.only.toLinksOnly
  have there : hopOf (setPort s p s.ports[p].lowered) e.frame e.arrival = .port q := by
    refine hopOf_port hf (by rw [links.age_eq]; exact ha) (by rw [links.routeOf_eq]; exact hr) ?_
    rw [upPorts_lowered put (by decide : (1 : BitVec 2) ≠ 2)]
    exact hp
  have port := put.only.others q apart
  have sends := sendOn_open (by rw [port]; exact ho) e.arrival (s := setPort s p s.ports[p].lowered) (p := q)
  rw [portDown_eq, hu, List.foldl_cons, List.foldl_nil, routeFrame, there, sends.out, put.out, port, List.append_nil]

/-! ### PORT_RETRAIN and PORT_WIDEN_ATTEMPT (11 R244) -/

theorem exec_portRetrain (p : Fin 32) (cause : Fin 3) (s : State) : exec (.portRetrain p cause) s = linkEvent s (fun s =>
    if s.ports[p].state = 2 ∧ (cause ≠ 0 ∨ s.ports[p].replayBuf.any (fun e => 8 ≤ e.tries)) then portDown s p else s) := rfl

theorem exec_portWidenAttempt (p : Fin 32) (s : State) : exec (.portWidenAttempt p) s = linkEvent s (fun s =>
    if s.ports[p].state = 2 ∧ s.ports[p].width ≠ 3 ∧ s.ports[p].lastTrain + 10000000000 ≤ s.bell then portDown s p else s) := rfl

/-- What retrains a port: a frame replayed eight times, codewords or signal lost, and the attempt to widen a narrowed one. -/
theorem exec_goesDown {i : Instr} (hi : i ∈ [Instr.portRetrain p 0, .portRetrain p 1, .portRetrain p 2, .portWidenAttempt p])
    (hu : s.ports[p].state = 2) (h0 : i = .portRetrain p 0 → ∃ e ∈ s.ports[p].replayBuf, 8 ≤ e.tries)
    (hw : i = .portWidenAttempt p → s.ports[p].width ≠ 3 ∧ s.ports[p].lastTrain + 10000000000 ≤ s.bell) :
    ∃ body, exec i s = linkEvent s body ∧ body s = portDown s p := by
  simp only [List.mem_cons, List.not_mem_nil, or_false] at hi
  obtain rfl | rfl | rfl | rfl := hi
  · obtain ⟨e, mem, tries⟩ := h0 rfl
    exact ⟨_, exec_portRetrain p 0 s, if_pos ⟨hu, .inr (List.any_eq_true.mpr ⟨e, mem, decide_eq_true tries⟩)⟩⟩
  · exact ⟨_, exec_portRetrain p 1 s, if_pos ⟨hu, .inl (by decide)⟩⟩
  · exact ⟨_, exec_portRetrain p 2 s, if_pos ⟨hu, .inl (by decide)⟩⟩
  · exact ⟨_, exec_portWidenAttempt p s, if_pos ⟨hu, hw rfl⟩⟩

end
end Sys2Proof.Machine
end

section
/-! The fabric ports train (11 R243, R244, R252; 15 R348). -/

open Sys2Proof Sys2Proof.Machine

/-- Settles O42: the exchange of R348 brings a port up or ends it with LINK_REFUSED, and a port that goes down to train routes
again what its peer has not acknowledged. That the counts stand at 0 after training, and that a port in training shows WIDTH 0,
are the model's choices (notes/assumptions/28.md), as are the checks' numbers (48.md). -/
theorem portsTrain : Obligations.PortsTrain := by
  unfold Obligations.PortsTrain
  intro s p hc hv
  refine ⟨fun f hs he hl hp => ?trains, fun i hi hu h0 hw => ?retrains⟩
  case trains =>
    have tries := portTrain_tries hs he hl hp
    generalize hk : s.ports[p].met f s.bell = k at tries
    have met : k.peerPlace = f.peerPlace ∧ k.peerPort = f.peerPort := by rw [← hk]; exact ⟨rfl, rfl⟩
    obtain ⟨o, k', begins, place, port⟩ := exchange_begins (p := p) hc met (laneChoice f.lanes)
    rw [exec_portTrain]
    obtain ⟨t, ht, noted, others, plans, memory⟩ :=
      linkEvent_onlyPort (body := fun s => portTrain s p f) hc hv tries begins.only (by omega)
    have fails {n : Nat} (h : peerChecks s f = .error n) : RefusedAt s p f t n := (exchange_fails hc h k _).2.noted noted
    refine ⟨t, drawn s 0 32, drawn s 1 32, ht, leBytes_length .., leBytes_length .., others, plans, memory, ?_, ?_, ?_,
      fun hi => fails (peerChecks_identity hi), fun id hi => ⟨fun hb => fails (peerChecks_transport hi hb), fun b hb =>
        ⟨fun hpl => fails ?_, fun hpl hsl => fails ?_, fun hpl hsl => ?passes⟩⟩⟩
    · rw [noted.ports, begins.port, place]
    · rw [noted.ports, begins.port, port]
    · rw [noted.out, begins.out]
      exact ⟨o, by rw [List.append_assoc]; rfl⟩
    · rw [peerChecks_certified hi hb, if_pos hpl]
    · rw [peerChecks_certified hi hb, if_neg (not_not.mpr hpl), if_neg fun ⟨d, mine, yours⟩ => hsl d mine yours]
    case passes =>
      have ok : peerChecks s f = .ok (id, certTransportKey b) := by
        rw [peerChecks_certified hi hb, if_neg (not_not.mpr hpl), if_pos hsl]
      refine ⟨⟨_, _, noted.out.trans (exchange_sends hc ok k _)⟩, fun shut => ?_, fun z opens => ?_⟩
      · obtain ⟨n, -, refused⟩ := exchange_shut (p := p) hc ok shut k (laneChoice f.lanes)
        exact ⟨n, refused.noted noted⟩
      · have up := (exchange_opens (p := p) hc ok opens k (laneChoice f.lanes)).port
        rw [← noted.ports] at up
        rw [up]
        exact ⟨rfl, rfl, rfl, rfl, rfl, rfl, rfl, cameUp_lower _ _ _, cameUp_higher _ _ _, laneChoice_fields f.lanes hl⟩
  case retrains =>
    obtain ⟨body, isEvent, down⟩ := exec_goesDown hi hu h0 hw
    obtain ⟨links, port⟩ := portDown_lowers hc p
    obtain ⟨t, ht, noted⟩ := linkEvent_noted hv down (links.room hc (by omega))
    rw [isEvent]
    rw [← noted.ports] at port
    refine ⟨t, ht, ?_, ?_, ?_, ?_, ?_, ?_, ?_, noted.plans.trans links.plans, links.memory.trans noted.sameMemory,
      fun hr hq => ?quiet, fun e r q hr hq hn0 hn7 hty hcls hd hsrc ha hroute hup hqq hqr hcr => ?again⟩
    case quiet =>
      obtain ⟨out, others⟩ := portDown_quiet hc (unsent_nil hr hq)
      exact ⟨noted.out.trans out, fun q apart => by rw [noted.ports, others q apart]⟩
    case again =>
      have may : ReadyFor s.ports[q] e.frame := ⟨(upPorts_one hup).2.1, hqq, by rw [hqr]; simp, hcr, hcls⟩
      exact noted.out.trans (portDown_sends hc (unsent_one hr hq hn0 hn7) ⟨hd, hsrc, hty, hcls⟩ ha hroute hup may)
    all_goals rw [port]; rfl

end
